-- ==== Sys2Proof/Word.lean ====
section
/-!
DEFINITION. Plain words of the Ilirahild model: bytes, command entries, instants, and the association-list type
that every sparse table of the state uses.
-/
namespace Sys2Proof

/-- One byte. -/
abbrev Byte := BitVec 8

/-- One 64 B submission queue entry (Table 3.3), byte 0 in the least significant bits. -/
abbrev Entry := BitVec 512

/-- An instant of device time, in nanoseconds since reset (R22). The device counts it in 64 bits and it never
wraps within the life of the product, so the model counts it without a bound. -/
abbrev Instant := Nat

/-- A sparse table: keys strictly rising, each with its value. -/
abbrev Table (α : Type) := List (Nat × α)

end Sys2Proof
end

