-- ==== Sys2Proof/Syntax.lean ====
section
/-!
DEFINITION. The commands and events of the device, one constructor per row of the opcode table.

The rows have no encoding in the table; the operands below are this model's reading of what each row needs
(assumption log 1). The first operand `t` of every constructor is the instant of device time at which the row
happens. An Acrega command carries the ring that holds it, its 64 B submission queue entry, and what host memory gave
(`buf`: the bytes of its buffer, `none` where the read failed; `ok`: whether the write of its buffer succeeded).
Operands of an event are what the environment contributes: packets and blocks received, readings, and the errors that
checks find.
-/
namespace Sys2Proof

/-- A ring pair of one function (R71, R83). -/
structure RingRef where
  fn : Fin 4
  ring : Fin 256
  deriving DecidableEq, Repr

/-- A graph slot of one tenant (R172). -/
structure GraphRef where
  tenant : Fin 4
  slot : Fin 64
  deriving DecidableEq, Repr

/-- A read of BAR0 by a function: its length in bytes (R137). -/
structure RegisterRead where
  fn : Fin 4
  len : Nat
  deriving DecidableEq, Repr

/-- A function whose Bus Master Enable the host sets, and the Device Control register it has programmed by then (R74, R78;
assumption log 78). -/
structure BusMaster where
  fn : Fin 4
  deviceControl : BitVec 16
  deriving DecidableEq, Repr

/-- A node of a graph. -/
structure NodeRef where
  graph : GraphRef
  node : Nat
  deriving DecidableEq, Repr

/-- What a port finds in a CSI-2 packet header (R269, R270): sound, a corrected single-bit error, an uncorrectable
error, or a PHY synchronisation error before it. -/
inductive HeaderCheck where
  | sound | corrected | uncorrectable | unsynchronised
  deriving DecidableEq, Repr

/-- Bits of a stored Loft row that a soft error has flipped since the row was last accessed: 0 to 4,095 its data, 4,096 to
4,127 its CRC (R252). -/
abbrev Flips := List (Fin 4128)

/-- What the ECC check of a DRAM sector finds, apart from poison already there (Table 14.1). -/
inductive SectorCheck where
  | clean | single | uncorrectable
  deriving DecidableEq, Repr

/-- Who reads a DRAM sector, coded as DRAM_POISONED codes sources (Table 14.2). -/
inductive DramReader where
  | node (n : NodeRef)
  | memRead
  | refill
  | residentLoad
  deriving DecidableEq, Repr

/-- How one I²C record transaction ends (R307, R308). -/
inductive I2cResult where
  | done (read : List Byte) | addressNak | dataNak | busStuck
  /-- the record is carried out, and of the write-backs that follow, the one of this read record fails -/
  | writeBackFailed (read : List Byte) (which : Nat)
  deriving DecidableEq, Repr

/-- How a P-link training attempt ends (R465): the neighbour's chip ID and the one-way delay measured, or the step that
failed (0 DETECT, 1 EQUALISE, 2 ALIGN, 3 INIT). -/
inductive TrainResult where
  | up (chip : Fin 16) (delay : Nat)
  | failed (step : Fin 4)
  deriving DecidableEq, Repr

/-- What a client port injects (R427, R456): a request of a running node (with the NE core or engine that issues it
given by the port), the next packet of a GATE_COPY node, a row a lane has written, the next response or forwarded
packet that waits at the port, the next multicast copy, or a firmware message. -/
inductive Injection where
  | node (n : NodeRef) (write : Bool) (addr : Nat) (rows : Nat)
  | gateCopy (n : NodeRef)
  | laneRow (lane : Fin 8) (context : Fin 4) (row : Nat)
  | waiting
  | firmware (chip : Fin 16) (payload : List Byte)
  deriving DecidableEq, Repr

/-- Firmware messages between neighbours (R504, R505); their payload is not described, so the model gives their
meaning: a link-loss report, a route table for this device, a confirmation from a chip, the switch STC, and the
answer to a boot push. -/
inductive FwMessage where
  | linkLost (chip : Fin 16) (port : Fin 4)
  | newTable (image : List Byte)
  | confirm (chip : Fin 16)
  | switchAt (stc : BitVec 32)
  | pushEnded
  | pushRejected
  deriving DecidableEq, Repr

/-- Where a boot candidate comes from (R635). -/
inductive BootSource where
  | flash (slot : Fin 2)
  | host
  deriving DecidableEq, Repr

/-- The IEEE 1149.1 instructions of the JTAG port (R673). -/
inductive JtagInstr where
  | bypass | idcode | samplePreload | extest | clamp | highz
  deriving DecidableEq, Repr

/-- The commands and events of the opcode table. -/
inductive Instr where
  | identify (t : Instant) (r : RingRef) (e : Entry)
  | ringCreate (t : Instant) (r : RingRef) (e : Entry)
  | ringReset (t : Instant) (r : RingRef) (e : Entry)
  | ringDelete (t : Instant) (r : RingRef) (e : Entry)
  | arbSet (t : Instant) (r : RingRef) (e : Entry)
  | fwUpdate (t : Instant) (r : RingRef) (e : Entry) (buf : Option (List Byte))
  | fwRestart (t : Instant) (r : RingRef) (e : Entry)
  | powerStateSet (t : Instant) (r : RingRef) (e : Entry)
  | deviceReset (t : Instant) (r : RingRef) (e : Entry)
  | partitionSet (t : Instant) (r : RingRef) (e : Entry) (buf : Option (List Byte))
  | partitionGet (t : Instant) (r : RingRef) (e : Entry) (ok : Bool)
  | partitionReset (t : Instant) (r : RingRef) (e : Entry)
  | tickConfig (t : Instant) (r : RingRef) (e : Entry)
  | tickStart (t : Instant) (r : RingRef) (e : Entry)
  | pause (t : Instant) (r : RingRef) (e : Entry)
  | resume (t : Instant) (r : RingRef) (e : Entry)
  | halt (t : Instant) (r : RingRef) (e : Entry)
  | tickStatus (t : Instant) (r : RingRef) (e : Entry) (ok : Bool)
  | memWrite (t : Instant) (r : RingRef) (e : Entry)
  | memRead (t : Instant) (r : RingRef) (e : Entry)
  | residentDefine (t : Instant) (r : RingRef) (e : Entry)
  | residentLoad (t : Instant) (r : RingRef) (e : Entry)
  | residentDelete (t : Instant) (r : RingRef) (e : Entry)
  | gateOpen (t : Instant) (r : RingRef) (e : Entry)
  | gateClose (t : Instant) (r : RingRef) (e : Entry)
  | eccRegionSet (t : Instant) (r : RingRef) (e : Entry)
  | graphLoad (t : Instant) (r : RingRef) (e : Entry)
  | graphUnload (t : Instant) (r : RingRef) (e : Entry)
  | graphArm (t : Instant) (r : RingRef) (e : Entry)
  | graphDisarm (t : Instant) (r : RingRef) (e : Entry)
  | graphParamSet (t : Instant) (r : RingRef) (e : Entry)
  | graphStatus (t : Instant) (r : RingRef) (e : Entry)
  | frameAbort (t : Instant) (r : RingRef) (e : Entry)
  | portConfig (t : Instant) (r : RingRef) (e : Entry)
  | laneBind (t : Instant) (r : RingRef) (e : Entry)
  | laneContextSet (t : Instant) (r : RingRef) (e : Entry) (buf : Option (List Byte))
  | fsyncSet (t : Instant) (r : RingRef) (e : Entry)
  | sensorXfer (t : Instant) (r : RingRef) (e : Entry) (buf : Option (List Byte))
  | halterConfig (t : Instant) (r : RingRef) (e : Entry) (buf : Option (List Byte))
  | halterEnable (t : Instant) (r : RingRef) (e : Entry)
  | routeLoad (t : Instant) (r : RingRef) (e : Entry) (buf : Option (List Byte))
  | epochSwitch (t : Instant) (r : RingRef) (e : Entry)
  | plinkControl (t : Instant) (r : RingRef) (e : Entry)
  | tetherSignal (t : Instant) (r : RingRef) (e : Entry)
  | tetherRead (t : Instant) (r : RingRef) (e : Entry)
  | resultRingCreate (t : Instant) (r : RingRef) (e : Entry)
  | resultRingDelete (t : Instant) (r : RingRef) (e : Entry)
  | tallyConfig (t : Instant) (r : RingRef) (e : Entry) (buf : Option (List Byte))
  | tallyControl (t : Instant) (r : RingRef) (e : Entry)
  | telemetryRead (t : Instant) (r : RingRef) (e : Entry) (ok : Bool)
  | debugPeek (t : Instant) (r : RingRef) (e : Entry)
  | debugPoke (t : Instant) (r : RingRef) (e : Entry)
  | sqTailDoorbell (t : Instant) (r : RingRef) (value : BitVec 32) (whole : Bool)
  | cqHeadDoorbell (t : Instant) (r : RingRef) (value : BitVec 32) (whole : Bool)
  | resultHeadDoorbell (t : Instant) (fn : Fin 4) (ring : Fin 64) (value : BitVec 32)
  | deviceTimeLoRead (t : Instant) (read : RegisterRead)
  | adminEnable (t : Instant) (fn : Fin 4)
  | adminDisable (t : Instant) (fn : Fin 4)
  | intCauseClear (t : Instant) (fn : Fin 4) (mask : BitVec 32)
  | alertStatusClear (t : Instant) (fn : Fin 4) (mask : BitVec 32)
  | registerWrite (t : Instant) (fn : Fin 4) (offset : BitVec 20) (value : BitVec 32) (len : Nat)
  | bar2Read (t : Instant) (fn : Fin 4) (offset : BitVec 29) (len : Nat) (flaws : List (Nat × Flips))
  | bar2Write (t : Instant) (fn : Fin 4) (offset : BitVec 29) (data : List Byte)
  | msixUnmask (t : Instant) (fn : Fin 4) (vector : Fin 32)
  | functionLevelReset (t : Instant) (fn : Fin 4)
  | busMasterEnableClear (t : Instant) (fn : Fin 4)
  | busMasterEnableSet (t : Instant) (host : BusMaster)
  | pcieLinkDown (t : Instant)
  | fetchGrant (t : Instant)
  | sqEntryFetched (t : Instant) (r : RingRef) (entry : Option Entry)
  | cqModerationTimer (t : Instant) (r : RingRef)
  | fwRestartBegin (t : Instant)
  | fwRestartEnd (t : Instant)
  | fwRestartTimeout (t : Instant)
  | acregaWatchdogExpiry (t : Instant)
  | controlMemoryError (t : Instant)
  | internalTick (t : Instant) (upset : BitVec 2)
  | tickInEdge (t : Instant) (upset : BitVec 2)
  | tickInBandExpiry (t : Instant) (upset : BitVec 2)
  | tickQualifyTimeout (t : Instant)
  | plinkTickBlock (t : Instant) (port : Fin 4) (stc : BitVec 32) (depth : Fin 16) (holdover : Bool) (upset : BitVec 2)
  | followerTick (t : Instant) (upset : BitVec 2)
  | followerConfirmExpiry (t : Instant)
  | drainStart (t : Instant)
  | guillotine (t : Instant)
  | fabricQuiesceEnd (t : Instant)
  | egressFlushEnd (t : Instant)
  | maintenanceSlot (t : Instant) (failing : List Nat) (selfTest : BitVec 2) (drift : Bool)
  | nodeDispatch (t : Instant) (g : GraphRef) (node : Nat)
  | nodeEnd (t : Instant) (g : GraphRef) (node : Nat) (parity : Bool)
  | leaseEnd (t : Instant) (tenant : Fin 4) (entry : Fin 16)
  | tetherWaitTimeout (t : Instant) (g : GraphRef) (node : Nat)
  | neOverrun (t : Instant) (g : GraphRef) (node : Nat)
  | replayResume (t : Instant) (g : GraphRef) (set : Nat)
  | droverCheck (t : Instant) (double : Bool)
  | csiFrameStart (t : Instant) (port : Fin 8) (vc : Fin 32) (number : BitVec 16) (hdr : HeaderCheck)
  | csiLongPacket (t : Instant) (port : Fin 8) (vc : Fin 32) (dt : BitVec 6) (data : List Byte) (hdr : HeaderCheck) (crcOk : Bool)
  | csiEmbeddedData (t : Instant) (port : Fin 8) (vc : Fin 32) (data : List Byte) (hdr : HeaderCheck) (crcOk : Bool)
  | csiShortPacket (t : Instant) (port : Fin 8) (vc : Fin 32) (dt : BitVec 6) (hdr : HeaderCheck)
  | csiFrameEnd (t : Instant) (port : Fin 8) (vc : Fin 32) (hdr : HeaderCheck)
  | frameRecordWrite (t : Instant) (lane : Fin 8) (context : Fin 4)
  | laneInputTimeout (t : Instant) (g : GraphRef) (node : Nat)
  | portQuietEnd (t : Instant) (port : Fin 8)
  | fsyncEdge (t : Instant) (output : Fin 8)
  | sensorXferStart (t : Instant) (controller : Fin 8)
  | i2cTransactionEnd (t : Instant) (controller : Fin 8) (result : I2cResult)
  | i2cStretchTimeout (t : Instant) (controller : Fin 8)
  | loftRowAccess (t : Instant) (stall : Fin 64) (flips : Flips)
  | refillEnd (t : Instant) (row : Nat) (found : List SectorCheck) (readBackOk : Bool)
  | mapOutEnd (t : Instant) (row : Nat) (ok : Bool)
  | loftScrubRead (t : Instant) (flips : Flips)
  | gateRequest (t : Instant) (gateway : Fin 4)
  | dramSectorRead (t : Instant) (addr : Nat) (found : SectorCheck) (reader : DramReader)
  | dramFullWrite (t : Instant) (addr : Nat) (data : List Byte)
  | dramPartialWrite (t : Instant) (addr : Nat) (data : List Byte) (found : SectorCheck) (writer : Option NodeRef)
  | dramScrubRead (t : Instant) (found : List SectorCheck)
  | dramRefresh (t : Instant) (channel : Fin 4)
  | idleRetrainTimer (t : Instant) (drift : Bool)
  | dramFullTrainingEnd (t : Instant) (channel : Fin 4)
  | fabricInject (t : Instant) (router : Fin 16) (port : Fin 8) (what : Injection)
  | fabricForward (t : Instant) (router : Fin 16) (output : Fin 12)
  | fabricDeliver (t : Instant) (router : Fin 16) (port : Fin 8) (found : List SectorCheck)
  | fabricResponse (t : Instant) (router : Fin 16) (port : Fin 8)
  | requestExpiry (t : Instant) (router : Fin 16) (port : Fin 8) (tag : Fin 64)
  | tagHoldbackEnd (t : Instant) (router : Fin 16) (port : Fin 8) (tag : Fin 64)
  | plinkTrainingEnd (t : Instant) (port : Fin 4) (result : TrainResult)
  | trainRetryTimer (t : Instant) (port : Fin 4)
  | downHoldEnd (t : Instant) (port : Fin 4)
  | linkFrameReceived (t : Instant) (port : Fin 4) (seq : BitVec 12) (h0 h1 : BitVec 64) (rest : List Byte) (whole : Bool)
  | fecCodeword (t : Instant) (port : Fin 4) (symbols : Option (Fin 5))
  | linkCtlReceived (t : Instant) (port : Fin 4) (fields : BitVec 56)
  | partnerBlockReceived (t : Instant) (port : Fin 4) (blockType : BitVec 8)
  | recalBlockReceived (t : Instant) (port : Fin 4)
  | replayTimer (t : Instant) (port : Fin 4)
  | ackTimer (t : Instant) (port : Fin 4)
  | noAckTimeout (t : Instant) (port : Fin 4)
  | fecLockLost (t : Instant) (port : Fin 4)
  | idleRecalTimer (t : Instant)
  | abortReceived (t : Instant) (port : Fin 4)
  | fwMsgReceived (t : Instant) (port : Fin 4) (msg : FwMessage)
  | bootPush (t : Instant) (port : Fin 4) (package : List Byte)
  | halterTile (t : Instant) (unit : Fin 2) (from_ : NodeRef) (pair : Fin 4) (tx ty : Nat)
  | halterAckQualified (t : Instant) (unit : Fin 2) (edge : Nat)
  | halterDeadline (t : Instant) (unit : Fin 2)
  | halterGap (t : Instant) (unit : Fin 2)
  | halterTileGap (t : Instant) (unit : Fin 2) (pair : Fin 4)
  | halterPinMismatch (t : Instant) (unit : Fin 2)
  | egressPageGrant (t : Instant) (flaws : List (Nat × Flips)) (credits : Bool)
  | egressDescriptor (t : Instant) (tenant : Fin 4) (ring : Fin 64) (credits : Bool)
  | resultModerationTimer (t : Instant) (tenant : Fin 4) (ring : Fin 64)
  | thermalSample (t : Instant) (readings : List Int)
  | thermalEvaluation (t : Instant)
  | thermtrip (t : Instant)
  | tallyRingWrite (t : Instant) (last : Fin 8)
  | tallyOverflowResume (t : Instant)
  | powerGoodChange (t : Instant) (aon core io vddIo18 testEn : Bool)
  | perstNAssert (t : Instant)
  | perstNRelease (t : Instant) (bootSel : BitVec 2) (pcieWidth testEn : Bool)
  | warmReset (t : Instant) (bootSel : BitVec 2)
  | loftSelfTestEnd (t : Instant) (failingSpares failingRows : List Nat)
  | dramTrainingEnd (t : Instant) (ok : Bool) (gibPerChannel : Nat)
  | bootCandidateRead (t : Instant) (source : BootSource) (package : List Byte)
  | pcieEndpointReady (t : Instant)
  | jtagInstruction (t : Instant) (instr : JtagInstr)
  | dataMovementEnd (t : Instant) (id : Nat) (data : Option (List Byte)) (flaws : List (Nat × Flips)) (sectors : List (Nat × SectorCheck))
  | flashWriteEnd (t : Instant) (ok : Bool)
  | powerStateChangeEnd (t : Instant)
  | acregaReady (t : Instant) (qf qe : Nat) (fuseOk : Bool)
  | halterHeartbeatEdge (t : Instant) (unit : Fin 2)
  deriving DecidableEq, Repr

end Sys2Proof
end

