-- ==== Sys2Proof/Decode.lean ====
section
/-!
DEFINITION. Decoding a word of the opcode table. The table gives no row any bits ("fields" is empty in every row), so
no word spells a command.
-/
namespace Sys2Proof

/-- The command that a word spells by the table's bits: none, since the table gives no row any bits. -/
def decodeTableWord (_nbits _w : Nat) : Option Instr := none

end Sys2Proof
end

