-- ==== Sys2Proof/Machine/Maps.lean ====
section
/-!
DEFINITION. Reading and writing the sparse tables of the state (`Table`), and small list helpers.
-/
namespace Sys2Proof.Machine

/-- The value of a key, if the table has one. -/
def tget {α : Type} : Table α → Nat → Option α
  | [], _ => none
  | (k, v) :: m, i => if i = k then some v else tget m i

/-- The table with one key set; keys stay strictly rising. -/
def tset {α : Type} : Table α → Nat → α → Table α
  | [], i, x => [(i, x)]
  | (k, v) :: m, i, x =>
    if i < k then (i, x) :: (k, v) :: m
    else if i = k then (i, x) :: m
    else (k, v) :: tset m i x

/-- The table without one key. -/
def tdel {α : Type} : Table α → Nat → Table α
  | [], _ => []
  | (k, v) :: m, i => if i = k then m else (k, v) :: tdel m i

/-- Whether a key is present. -/
def thas {α : Type} (m : Table α) (i : Nat) : Bool := (tget m i).isSome

/-- The table with one present key's value changed. -/
def tmod {α : Type} (m : Table α) (i : Nat) (f : α → α) : Table α :=
  match tget m i with
  | some x => tset m i (f x)
  | none => m

/-- Every value of a table changed, with its key in hand. -/
def tmap {α β : Type} (m : Table α) (f : Nat → α → β) : Table β := m.map fun p => (p.1, f p.1 p.2)

/-- The entries of a table that a test keeps. -/
def tfilter {α : Type} (m : Table α) (f : Nat → α → Bool) : Table α := m.filter fun p => f p.1 p.2

/-- Keys strictly rising. -/
def twf {α : Type} : Table α → Bool
  | [] => true
  | [_] => true
  | (k, _) :: (k', v') :: m => decide (k < k') && twf ((k', v') :: m)

/-- A list with the element at one index changed. -/
def lmod {α : Type} (l : List α) (i : Nat) (f : α → α) : List α := l.modify i f

/-- Insert into a list kept in rising order of a key, after elements of an equal key. -/
def insertBy {α : Type} (key : α → Nat) (x : α) : List α → List α
  | [] => [x]
  | y :: l => if key x < key y then x :: y :: l else y :: insertBy key x l

/-- A list sorted by a key, elements of an equal key keeping their order. -/
def sortBy {α : Type} (key : α → Nat) (l : List α) : List α := l.foldl (fun acc x => insertBy key x acc) []

/-- The least element of a list by a key, the first of equals. -/
def minBy {α : Type} (key : α → Nat) : List α → Option α
  | [] => none
  | x :: l =>
    match minBy key l with
    | some y => if key y < key x then some y else some x
    | none => some x

/-- Two ranges (first, count) that share an element. -/
def overlap (a b : Nat × Nat) : Bool := decide (a.1 < b.1 + b.2) && decide (b.1 < a.1 + a.2)

/-- A nonempty range lies inside another. -/
def inside (a b : Nat × Nat) : Bool := decide (b.1 ≤ a.1) && decide (a.1 + a.2 ≤ b.1 + b.2) && decide (0 < a.2)

/-- Whether two elements of a list meet a symmetric test. -/
def anyPair {α : Type} (f : α → α → Bool) : List α → Bool
  | [] => false
  | x :: l => l.any (f x) || anyPair f l

/-- Quotient rounded up. -/
def ceilDiv (a b : Nat) : Nat := (a + b - 1) / b

end Sys2Proof.Machine
end

