-- ==== Sys2Proof/Machine/Bytes.lean ====
section
/-!
DEFINITION. Byte order and byte fields. Every multi-byte value of the manual is little-endian (R141).
-/
namespace Sys2Proof.Machine

/-- The number a little-endian byte list spells (R141). -/
def leNat : List Byte → Nat
  | [] => 0
  | b :: l => b.toNat + 256 * leNat l

/-- A number as n little-endian bytes. -/
def le : Nat → Nat → List Byte
  | 0, _ => []
  | n + 1, v => BitVec.ofNat 8 v :: le n (v / 256)

/-- Bytes off to off + n − 1 of a list; bytes beyond its end read 0. -/
def slice (l : List Byte) (off n : Nat) : List Byte :=
  let p := (l.drop off).take n
  p ++ List.replicate (n - p.length) 0

/-- The little-endian number of n bytes at an offset. -/
def fld (l : List Byte) (off n : Nat) : Nat := leNat (slice l off n)

/-- Bits hi..lo of a number. -/
def bits (v hi lo : Nat) : Nat := (v / 2 ^ lo) % 2 ^ (hi + 1 - lo)

/-- One bit of a number. -/
def bit (v i : Nat) : Bool := v.testBit i

/-- A list with the bytes at an offset replaced. -/
def patch (l : List Byte) (off : Nat) (d : List Byte) : List Byte :=
  l.take off ++ d ++ l.drop (off + d.length)

/-- Whether every byte off to off + n − 1 is zero. -/
def zeros (l : List Byte) (off n : Nat) : Bool := (slice l off n).all (· == 0)

/-- The little-endian number of n bytes at an offset of an SQ entry (Table 3.3). -/
def efld (e : Entry) (off n : Nat) : Nat := (e.toNat / 2 ^ (8 * off)) % 2 ^ (8 * n)

/-- The bytes off to off + n − 1 of an SQ entry. -/
def ebytes (e : Entry) (off n : Nat) : List Byte := le n (efld e off n)

/-- Sign-extended value of a w-bit number. -/
def sext (w v : Nat) : Int := if v % 2 ^ w < 2 ^ (w - 1) then (v % 2 ^ w : Nat) else (v % 2 ^ w : Nat) - (2 ^ w : Nat)

/-- A number as a w-bit two's complement pattern. -/
def tc (w : Nat) (i : Int) : Nat := (i % (2 ^ w : Nat)).toNat

/-- n bytes of a two's complement number. -/
def leI (n : Nat) (i : Int) : List Byte := le n (tc (8 * n) i)

/-- A 32-bit counter that wraps. -/
def inc32 (v : BitVec 32) : BitVec 32 := v + 1

/-- A list cut or zero-filled to exactly n bytes. -/
def fit (n : Nat) (l : List Byte) : List Byte := slice l 0 n

/-- One bit as a number. -/
def b2n (b : Bool) : Nat := if b then 1 else 0

end Sys2Proof.Machine
end

