-- ==== Sys2Proof/Machine/Ecdsa.lean ====
section
/-!
DEFINITION. SHA-384 and ECDSA P-384 verification, as R633 uses them.
-/
namespace Sys2Proof.Machine

/-! ### SHA-384 (FIPS 180-4) -/

/-- The number a big-endian byte list spells. -/
def beNat (l : List Byte) : Nat := l.foldl (fun n b => 256 * n + b.toNat) 0

/-- A number as n big-endian bytes. -/
def be (n v : Nat) : List Byte := (le n v).reverse

/-- A 64-bit word. -/
abbrev W64 := BitVec 64

/-- The primes below 410, of which there are eighty. -/
def shaPrimes : List Nat :=
  (List.range 410).filter fun n =>
    decide (2 ≤ n) && (List.range 21).all fun d => decide (d < 2) || decide (n ≤ d) || decide (n % d ≠ 0)

/-- The largest number below r + 2 ^ k whose e-th power does not exceed n, found bit by bit. -/
def rootFloor (e n : Nat) : Nat → Nat → Nat
  | 0, r => r
  | k + 1, r => rootFloor e n k (if (r + 2 ^ k) ^ e ≤ n then r + 2 ^ k else r)

/-- The first 64 bits after the point of the e-th root of a prime. -/
def rootBits (e p : Nat) : W64 := BitVec.ofNat 64 (rootFloor e (p * 2 ^ (64 * e)) 67 0)

/-- The constants of the rounds come from the cube roots of the first eighty primes. -/
def shaK : List W64 := shaPrimes.map (rootBits 3)

/-- The initial words of SHA-384 come from the square roots of the ninth to the sixteenth prime. -/
def shaInit : List W64 := ((shaPrimes.drop 8).take 8).map (rootBits 2)

/-- Three turns of a word, added without carry. -/
def turns (x : W64) (i j k : Nat) : W64 := x.rotateRight i ^^^ (x.rotateRight j ^^^ x.rotateRight k)

/-- Two turns and a shift of a word, added without carry. -/
def turnShift (x : W64) (i j k : Nat) : W64 := (x >>> k) ^^^ (x.rotateRight i ^^^ x.rotateRight j)

/-- The next word of the message schedule, from the sixteen before it, oldest first. -/
def nextWord (w : List W64) : W64 :=
  w.getD 0 0 + w.getD 9 0 + turnShift (w.getD 1 0) 1 8 7 + turnShift (w.getD 14 0) 19 61 6

/-- One round: the eight working words, with the sum of the round's constant and its schedule word. -/
def shaRound (v : List W64) (kw : W64) : List W64 :=
  let at_ := fun k => v.getD k 0
  let choice := (at_ 4 &&& at_ 5) ||| (~~~(at_ 4) &&& at_ 6)
  let majority := (at_ 0 &&& (at_ 1 ||| at_ 2)) ||| (at_ 1 &&& at_ 2)
  let x := kw + choice + at_ 7 + turns (at_ 4) 14 18 41
  (x + majority + turns (at_ 0) 28 34 39) :: (v.take 3 ++ (at_ 3 + x) :: (v.drop 4).take 3)

/-- The rounds of the constants that remain, each with the oldest of the sixteen schedule words at hand. -/
def shaRounds : List W64 → List W64 → List W64 → List W64
  | [], _, v => v
  | k :: ks, w, v => shaRounds ks (w.drop 1 ++ [nextWord w]) (shaRound v (k + w.getD 0 0))

/-- One 128 B block. -/
def shaBlock (h : List W64) (blk : List Byte) : List W64 :=
  let w := (List.range 16).map fun i => BitVec.ofNat 64 (beNat (slice blk (8 * i) 8))
  List.zipWith (· + ·) h (shaRounds shaK w h)

/-- Blocks of a padded message. -/
def shaBlocks : Nat → List Byte → List W64 → List W64
  | 0, _, h => h
  | n + 1, m, h => shaBlocks n (m.drop 128) (shaBlock h (m.take 128))

/-- The SHA-384 digest, 48 B. -/
def sha384 (m : List Byte) : List Byte :=
  let pad := (128 + 112 - (m.length + 1) % 128) % 128
  let p := m ++ [0x80] ++ List.replicate pad 0 ++ be 16 (8 * m.length)
  ((shaBlocks (p.length / 128) p shaInit).take 6).flatMap fun w => be 8 w.toNat

/-! ### P-384 -/

/-- The field prime, the group order, the coefficient b, and the base point. -/
def p384 : Nat := 2 ^ 384 - 2 ^ 128 - 2 ^ 96 + 2 ^ 32 - 1
def n384 : Nat := 0xffffffffffffffffffffffffffffffffffffffffffffffffc7634d81f4372ddf581a0db248b0a77aecec196accc52973
def b384 : Nat := 0xb3312fa7e23ee7e4988e056be3f82d19181d9c6efe8141120314088f5013875ac656398d8a2ed19d2a85c8edd3ec2aef
def gx384 : Nat := 0xaa87ca22be8b05378eb1c71ef320ad746e1d3b628ba79b9859f741e082542a385502f25dbf55296c3a545e3872760ab7
def gy384 : Nat := 0x3617de4a96262c6f5d9e98bf9292dc29f8f41dbd289a147ce9da3113b5f0b8c00a60b1ce1d7e819d7a431d7c90ea0e5f

/-- a to the power e modulo m, over the low k bits of e. -/
def powMod (m : Nat) : Nat → Nat → Nat → Nat
  | 0, _, _ => 1 % m
  | k + 1, a, e => (if e % 2 = 1 then a else 1) * powMod m k (a * a % m) (e / 2) % m

/-- Inverse modulo a prime below 2^384. -/
def invMod (m a : Nat) : Nat := powMod m 384 (a % m) (m - 2)

/-- Difference modulo m. -/
def subMod (m a b : Nat) : Nat := (a + (m - b % m)) % m

/-- A point of the curve; none is the point at infinity. -/
abbrev Point := Option (Nat × Nat)

/-- The sum of two points. -/
def addPoint (a b : Point) : Point :=
  match a, b with
  | none, q => q
  | q, none => q
  | some (x1, y1), some (x2, y2) =>
    let p := p384
    if x1 = x2 ∧ (y1 + y2) % p = 0 then none
    else
      let l := if x1 = x2 then (3 * x1 * x1 + (p - 3)) * invMod p (2 * y1) % p
        else subMod p y2 y1 * invMod p (subMod p x2 x1) % p
      let x := subMod p (l * l) (x1 + x2)
      some (x, subMod p (l * subMod p x1 x) y1)

/-- A multiple of a point, over the low k bits of the factor. -/
def mulPoint : Nat → Nat → Point → Point
  | 0, _, _ => none
  | k + 1, e, q => addPoint (if e % 2 = 1 then q else none) (mulPoint k (e / 2) (addPoint q q))

/-- A public key is a point of the curve. -/
def onCurve (x y : Nat) : Bool :=
  decide (x < p384) && decide (y < p384) && decide (y * y % p384 = (x * x * x + (p384 - 3) * x + b384) % p384)

/-- ECDSA verification of a 48 B digest. -/
def ecdsaOk (key digest sig : List Byte) : Bool :=
  let x := beNat (slice key 0 48)
  let y := beNat (slice key 48 48)
  let r := beNat (slice sig 0 48)
  let v := beNat (slice sig 48 48)
  if onCurve x y && decide (0 < r) && decide (r < n384) && decide (0 < v) && decide (v < n384) then
    let w := invMod n384 v
    match addPoint (mulPoint 384 (beNat digest * w % n384) (some (gx384, gy384)))
        (mulPoint 384 (r * w % n384) (some (x, y))) with
    | some (px, _) => decide (px % n384 = r)
    | none => false
  else false

end Sys2Proof.Machine
end

