-- ==== Sys2Proof/Machine/NeTypes.lean ====
section
/-!
DEFINITION. The operations an NE program is made of (Table 10.6). What a program's opaque bytes spell is a list of them.
-/
namespace Sys2Proof.Machine

/-- One scalar operation of an NE program. An operand is the number of an earlier operation, whose result it takes; every
member of an operator class of Table 10.6 is a sequence of these (R393). Element types are codes of Table 10.2. -/
inductive NeOp where
  /-- an element of the tensor in a slot, or of the weight rows -/
  | input (slot index : Nat)
  | weight (type index : Nat)
  /-- the next packet of the stream port is read whole, and a number of bytes of the latest packet -/
  | packet
  | stream (offset : Nat) (type : Nat)
  | constInt (v : Int)
  | constFloat (bits : BitVec 32)
  /-- integer and float multiply-accumulate -/
  | macInt (acc a w : Nat)
  | macFloat (acc a w : Nat)
  | requantise (type a : Nat) (m : BitVec 32) (s : Nat) (z lo hi : Int)
  | convert (type a : Nat)
  | add (a b : Nat)
  | sub (a b : Nat)
  | mul (a b : Nat)
  | minimum (a b : Nat)
  | maximum (a b : Nat)
  | relu (a : Nat)
  | clamp (a lo hi : Nat)
  | leakyRelu (a slope : Nat)
  /-- 0 sigmoid, 1 tanh, 2 exponential, 3 GELU -/
  | smooth (f : Fin 4) (a : Nat)
  /-- four taps and the fractions of the coordinate in 1/256 -/
  | bilinear (a b c d : Nat) (fx fy : Fin 256)
  /-- element k of the softmax of a list -/
  | softmax (l : List Nat) (k : Nat)
  | argmax (l : List Nat)
  | move (a : Nat)
  /-- an element of the OUTPUT or SCRATCH tensor in a slot is written -/
  | output (slot index a : Nat)
  deriving DecidableEq, Repr

end Sys2Proof.Machine
end

