-- ==== Sys2Proof/Config.lean ====
section
/-!
DEFINITION. Free values: what the manual calls undefined or does not state (assumption log 7). None has a body, so
nothing can be proved of a value of any of them.
-/
namespace Sys2Proof.Config

/-- The byte at an address of a memory range whose contents are undefined, for the draw that made it so (R6). -/
opaque freeByte : Nat → Nat → Byte

/-- The word at an offset of a unit's debug space that no DEBUG_POKE has written; the manual does not describe the
contents, which may differ between Acrega versions (R181; assumption log 82). Arguments: version, unit code, offset. -/
opaque debugWord : Nat → Nat → Nat → BitVec 32

/-- Whether an offset lies inside a unit's debug space; its extent is not described (R181; assumption log 82). Arguments:
version, unit code, offset. -/
opaque debugSpace : Nat → Nat → Nat → Bool

/-- The operations that an NE program's opaque bytes spell for a latched body (R381, R393). -/
opaque neOps : List Byte → List Byte → List Machine.NeOp

/-- A result of an NE operation that Table 10.6 leaves open: what the 256-segment table of a smooth activation holds within
its bound, an extreme of a list with a NaN, the payload of a NaN. Arguments: the operation, its operands as bits (R394). -/
opaque neFree : Nat → List (BitVec 32) → BitVec 32

/-- Whether the cabling closes the ring of an axis, 0 for x and 1 for y; the manual does not say how the fabric manager
of the master knows it (R504). -/
opaque ringClosed : Nat → Bool

/-- A value the manual leaves within a bound, drawn afresh: arguments draw and modulus, read modulo the latter. -/
opaque draw : Nat → Nat

end Sys2Proof.Config
end

