-- ==== Sys2Proof/Machine/HostTypes.lean ====
section
/-!
DEFINITION. Types of the host-facing state: status codes, rings, commands in flight, functions, contracts.
-/
namespace Sys2Proof.Machine

/-- The shared status codes of Table 4.1 (R152); the reserved codes, which the device never reports (R153), have no
constructor. -/
inductive Status where
  | ok | deferred | event | badOpcode | badParam | badState | notFound | inUse | noResource | conflict | hostDmaError
  | badImage | authFailed | rollback | outsidePartition | exceedsWindow | flashError | timedOut | busy | engineBusy
  | linkLost | skipped | truncated | halted | outputDropped | damaged | late | absent
  deriving DecidableEq, Repr

/-- The 16-bit code of a status (Table 4.1). -/
def Status.code : Status → Nat
  | .ok => 0x0000 | .deferred => 0x0001 | .event => 0x0002
  | .badOpcode => 0x0010 | .badParam => 0x0011 | .badState => 0x0012 | .notFound => 0x0013 | .inUse => 0x0014
  | .noResource => 0x0015 | .conflict => 0x0016 | .hostDmaError => 0x0017 | .badImage => 0x0018
  | .authFailed => 0x0019 | .rollback => 0x001A | .outsidePartition => 0x001B | .exceedsWindow => 0x001C
  | .flashError => 0x001D | .timedOut => 0x001E | .busy => 0x001F | .engineBusy => 0x0020 | .linkLost => 0x0021
  | .skipped => 0x0100 | .truncated => 0x0101 | .halted => 0x0102 | .outputDropped => 0x0103
  | .damaged => 0x0200 | .late => 0x0201 | .absent => 0x0202

/-- Ring error causes of Table 3.5 (R97). -/
inductive RingCause where
  | none | badTail | badHead | badDoorbell | fetchFailed | noRing | badSize
  deriving DecidableEq, Repr

/-- The code of a ring error cause (Table 3.5). -/
def RingCause.code : RingCause → Nat
  | .none => 0 | .badTail => 1 | .badHead => 2 | .badDoorbell => 3 | .fetchFailed => 4 | .noRing => 5 | .badSize => 6

/-- One SQ tail write that counted: the tail it set and its instant (R116). -/
structure TailWrite where
  tail : Nat
  time : Instant
  deriving DecidableEq, Repr

/-- A ring reset or deletion that waits for the commands accepted from the ring (R157). -/
structure RingStop where
  /-- true: RING_DELETE; false: RING_RESET -/
  delete : Bool
  /-- the command that waits to complete, by its fetch order -/
  by_ : Nat
  deriving DecidableEq, Repr

/-- The context of one ring pair, held in endpoint hardware (R83, R94, R101, R124). -/
structure Ring where
  sqBase : BitVec 64
  cqBase : BitVec 64
  /-- queue depths are 2 to the power of these plus 4 (Table 3.8) -/
  sqLog : Nat
  cqLog : Nat
  weight : Nat
  vector : Nat
  cqCount : Nat
  cqTimeUs : Nat
  sqHead : Nat
  sqTail : Nat
  cqHead : Nat
  cqTail : Nat
  phase : Bool
  /-- CQ slots reserved for fetched commands (R90) -/
  reserved : Nat
  error : Bool
  cause : RingCause
  /-- tail writes whose entries are not all fetched, oldest first -/
  tails : List TailWrite
  /-- CQ entries written since the last message, and the instant of the oldest -/
  unsignalled : Nat
  oldest : Option Instant
  stop : Option RingStop
  /-- ADMIN_CONTROL.ENABLE was cleared and commands accepted from ring 0 still run (R100) -/
  closing : Bool
  deriving DecidableEq, Repr

/-- One MSI-X vector of a function. -/
structure MsixEntry where
  addr : BitVec 64
  data : BitVec 32
  masked : Bool
  pending : Bool
  deriving DecidableEq, Repr

/-- An event entry before it has a CQ slot: class, cause, instant, TICKNO, DETAIL and bytes 28 to 29 (Table 3.4). -/
structure Event where
  cls : Nat
  cause : Nat
  time : Instant
  tickno : BitVec 32
  detail : BitVec 64
  scope : BitVec 16
  deriving DecidableEq, Repr

/-- A completion before its CQ entry is written (Table 3.4). -/
structure Completion where
  cmdId : BitVec 16
  ring : Nat
  sqHead : Nat
  status : Status
  time : Instant
  tickno : BitVec 32
  result : BitVec 64
  deriving DecidableEq, Repr

/-- A memory write for the host that has not been sent because the function may issue no request (R78). -/
inductive Held where
  /-- of the command with a fetch number -/
  | completion (seq ring : Nat) (c : Completion)
  | write (addr : BitVec 64) (data : List Byte) (poisoned : Bool)
  | message (vector : Nat)
  deriving DecidableEq, Repr

/-- Power states of a function (Table 3.1). -/
inductive PmState where
  | d0 | d3hot
  deriving DecidableEq, Repr

/-- Registers of a function's configuration space that hold state of their own: BARs (R76), Device Control (R74), ASPM
control, power state, Advanced Error Reporting (Table 3.1). Bus Master Enable stands in `Func`. -/
structure PciConfig where
  bar0 : BitVec 64
  bar2 : BitVec 64
  deviceControl : BitVec 16
  linkControl : BitVec 16
  pm : PmState
  uncorrectableStatus : BitVec 32
  uncorrectableMask : BitVec 32
  uncorrectableSeverity : BitVec 32
  correctableStatus : BitVec 32
  correctableMask : BitVec 32
  headerLog : BitVec 128
  deriving DecidableEq, Repr

/-- The state of one PCI Express function (Table 3.8). -/
structure Func where
  cfg : PciConfig
  busMaster : Bool
  adminSqBase : BitVec 64
  adminCqBase : BitVec 64
  adminSqLog : Nat
  adminCqLog : Nat
  enable : Bool
  ready : Bool
  error : Bool
  cause : RingCause
  intCause : BitVec 6
  eventsLost : BitVec 32
  timeouts : BitVec 32
  bar2Outside : BitVec 32
  bar2Dropped : BitVec 32
  timeHi : BitVec 32
  ticknoLatch : BitVec 32
  msix : List MsixEntry
  rings : Table Ring
  backlog : List Event
  /-- events dropped since the last EVENTS_LOST event (R122) -/
  dropped : Nat
  held : List Held
  /-- W_f (R114) -/
  weight : Nat
  /-- RING_RESETs and RING_DELETEs of rings that a function level reset has deleted meanwhile: the ring, and the command that
  waits for the commands accepted from it (R77, R157) -/
  stops : List (Nat × Nat)
  deriving DecidableEq, Repr

/-- How far a fetched command has come. -/
inductive CmdPhase where
  | reading
  | waiting
  | accepted (time : Instant) (tickno : BitVec 32)
  deriving DecidableEq, Repr

/-- A command fetched and not completed (R109). Its key in the table of commands is its fetch order. -/
structure Cmd where
  fn : Fin 4
  ring : Nat
  /-- the device's SQ head after the fetch (Table 3.4, bytes 4 to 5) -/
  sqHead : Nat
  /-- instant of the doorbell write that made the entry part of its ring (R116) -/
  doorbell : Instant
  entry : Entry
  phase : CmdPhase
  /-- its ring is gone: no CQ entry (R77, R157) -/
  muted : Bool
  /-- its function was reset while it ran: every later access to its host buffer fails (R629) -/
  noDma : Bool
  deriving DecidableEq, Repr

/-- The round-robin pointers of the fetch arbiter (R111 to R113). -/
structure Arb where
  adminPtr : Nat
  adminRun : Nat
  fnPtr : Nat
  fnRun : Nat
  ringPtr : List Nat
  ringRun : List Nat
  lastGrant : Option Instant
  deriving DecidableEq, Repr

/-- States of Acrega (Table 3.8, FW_STATE). -/
inductive FwState where
  | booting | ready | restarting | failed
  deriving DecidableEq, Repr

/-- The code of FW_STATE. -/
def FwState.code : FwState → Nat
  | .booting => 0 | .ready => 1 | .restarting => 2 | .failed => 3

/-- One lease entry of a contract (Table 4.6); unit 0xFF marks an unused entry. -/
structure Lease where
  unit : Nat
  start : Nat
  stop : Nat
  deriving DecidableEq, Repr

/-- A tenant contract (Table 4.6), with the Carafe default already resolved. Ranges are (first, count). -/
structure Contract where
  key : Nat
  tetherFirst : Nat
  tetherCount : Nat
  carafe : Nat × Nat
  loft : List (Nat × Nat)
  dram : List (Nat × Nat)
  leases : List Lease
  deriving DecidableEq, Repr

end Sys2Proof.Machine
end

