-- ==== Sys2Proof/Machine/BootTypes.lean ====
section
/-!
DEFINITION. Types of the part, its pins and boot (00, 19, 20).
-/
namespace Sys2Proof.Machine

/-- Grades (R1 to R3). -/
inductive Grade where
  | ilh2400 | ilh2400x
  deriving DecidableEq, Repr

/-- What fuses hold (R73, R633). -/
structure Part where
  grade : Grade
  serial : BitVec 64
  keyHash : BitVec 384
  /-- anti-rollback counter C: fuse steps blown -/
  rollback : Nat
  deriving DecidableEq, Repr

/-- Pins and straps. -/
structure Pins where
  pwrgdAon : Bool
  pwrgdCore : Bool
  pwrgdIo : Bool
  vddIo18 : Bool
  /-- PERST_N has been released since it was last low or the device lost power (R623, R626) -/
  perstN : Bool
  bootSel : BitVec 2
  pcieWidth : Bool
  /-- THERMTRIP_N is driven low (R601) -/
  thermtrip : Bool
  jtag : JtagInstr
  /-- what the data register of the JTAG port captures: the ID code under IDCODE (R673) -/
  jtagData : Option (BitVec 32)
  deriving DecidableEq, Repr

/-- The boot configuration in force (Table 19.5). -/
structure BootConfig where
  chip : Nat
  devices : Nat
  ringX : Nat
  ringY : Nat
  hSys : Nat
  autoReroute : Bool
  /-- ports N, E, S, W that Acrega trains at start -/
  links : Nat
  dramRate : Nat
  /-- GiB per channel -/
  dramGib : Nat
  deriving DecidableEq, Repr

/-- The boot process (R631 to R647). -/
structure Boot where
  romRunning : Bool
  endpointReady : Bool
  selfTested : Bool
  dramTrained : Bool
  dramFailed : Bool
  /-- GiB per channel that training found -/
  installedGib : Nat
  /-- an image was copied and Acrega started -/
  started : Bool
  /-- flash slots still to try -/
  candidates : List Nat
  waitHost : Bool
  waitPlink : Bool
  /-- contents of the two flash slots, where the model knows them -/
  slots : List (Option (List Byte))
  bootedFrom : Option Nat
  /-- the package that booted, without its slot header cleared (R637) -/
  package : List Byte
  config : BootConfig
  subsysVendor : BitVec 16
  subsysId : BitVec 16
  /-- BAD rows found by the self-test, to post once READY (R641) -/
  badRows : List Nat
  /-- the subsystem IDs have been taken from a flash slot (R638) -/
  subsysFixed : Bool
  deriving DecidableEq, Repr

/-- A flash write of FW_UPDATE in progress (R646): the command, the slot, UPDATE_SEQ and the package. -/
structure FlashJob where
  cmd : Nat
  slot : Nat
  seq : Nat
  package : List Byte
  deriving DecidableEq, Repr

/-- Acrega (R129 to R132, R571 to R576). -/
structure Firmware where
  state : FwState
  restarts : Nat
  version : BitVec 32
  imageVersion : BitVec 32
  /-- instants of restarts not caused by FW_RESTART, latest first -/
  unrequested : List Instant
  restartDue : Bool
  resetDue : Bool
  restartSince : Option Instant
  /-- Acrega stopped unasked and its restart waits for R150 and R571 -/
  crashed : Bool
  /-- FW_STATE has been READY since reset: FW_VERSION shows the version (Table 3.8) -/
  wasReady : Bool
  deriving DecidableEq, Repr

end Sys2Proof.Machine
end

