-- ==== Sys2Proof/Machine/CameraTypes.lean ====
section
/-!
DEFINITION. Types of camera ports, lanes, FSYNC and I²C (07) and of the Halter units (11).
-/
namespace Sys2Proof.Machine

/-- Port counters of Table 7.9. -/
structure PortCounts where
  longPackets : Nat
  hdrCorrected : Nat
  hdrBad : Nat
  crcErrors : Nat
  unsupported : Nat
  unmatched : Nat
  phySync : Nat
  outOfWindow : Nat
  extra : Nat
  noFrame : Nat
  cutAtTg : Nat
  deriving DecidableEq, Repr

/-- A camera port (R266). -/
structure CamPort where
  enabled : Bool
  cphy : Bool
  width : Nat
  rate : Nat
  /-- line activity is ignored until this instant -/
  quietUntil : Option Instant
  counts : PortCounts
  /-- errors in this window (R309) -/
  errors : Nat
  deriving DecidableEq, Repr

/-- A binding of a context (R271). -/
structure Binding where
  tenant : Nat
  port : Nat
  vc : Nat
  dtype : Nat
  deriving DecidableEq, Repr

/-- A pending class F effect (R272). -/
inductive CtxEffect where
  | bind (b : Binding)
  | unbind
  | params (image : List Byte)
  deriving DecidableEq, Repr

/-- A frame of a context, from its frame-start packet to the writing of its record (Table 7.6). -/
structure Frame where
  number : BitVec 16
  start : Instant
  tickno : BitVec 32
  binding : Binding
  image : List Byte
  /-- the lines received in order, with the instant at which the lane has processed each; none for a line dropped by
  overflow (R280) -/
  lines : List (Option (List Byte × Instant))
  received : Nat
  linesWritten : Nat
  crcLines : Nat
  corrected : Nat
  short : Nat
  long : Nat
  dropped : Nat
  embedded : Nat
  damaged : Bool
  refused : Bool
  badHeader : Bool
  /-- end instant with the cut, if any: 0 frame end, 1 LANE_INPUT bound, 2 rebind -/
  ended : Option (Instant × Nat)
  /-- the frame-end packet came -/
  endSeen : Option Instant
  late : Bool
  /-- a later frame-start packet came: no further packet belongs to this frame (R276) -/
  superseded : Bool
  /-- next row to consider in each plane and in the raw tap (R292, R293) -/
  next : List Nat
  /-- rows the lane has written or sent (R301) -/
  wrote : List Nat
  deriving DecidableEq, Repr

/-- One context of a lane. -/
structure Ctx where
  binding : Option Binding
  /-- none: UNSET (R273) -/
  image : Option (List Byte)
  pending : List CtxEffect
  frame : Option Frame
  /-- a frame was opened in this window (R276) -/
  opened : Bool
  /-- status of the frame of this window whose record is written (R298) -/
  recorded : Option Status
  /-- FRAME_FAULT was posted in this window (R309) -/
  faulted : Bool
  /-- the packets of a frame that opened nothing are discarded until it ends (R276) -/
  discarding : Bool
  deriving DecidableEq, Repr

/-- A line in the input buffer of a lane (R280, R281). -/
structure LaneLine where
  ctx : Nat
  bytes : Nat
  pixels : Nat
  arrived : Instant
  /-- the lane has processed it -/
  done : Instant
  /-- the context of the line before it -/
  after : Option Nat
  deriving DecidableEq, Repr

/-- One image lane. -/
structure Lane where
  framesOk : Nat
  framesDamaged : Nat
  framesLate : Nat
  absent : Nat
  dropped : Nat
  /-- pixels of the lines that have left the buffer -/
  pixels : Nat
  refused : Nat
  unset : Nat
  defects : Nat
  embedDropped : Nat
  highest : Nat
  /-- lines in the input buffer, in the order of their processing -/
  buffer : List LaneLine
  lastCtx : Option Nat
  deriving DecidableEq, Repr

/-- One FSYNC output (R303, R304). -/
structure Fsync where
  enabled : Bool
  offset : Nat
  width : Nat
  divider : Nat
  level : Bool
  /-- FSYNC_SKIPPED was posted since the latest FSYNC_SET effect or change of P, R or M -/
  skipPosted : Bool
  /-- in this window no pulse is driven -/
  skipped : Bool
  deriving DecidableEq, Repr

/-- A sensor transfer (R306). -/
structure Transfer where
  tenant : Nat
  fn : Nat
  cmdId : BitVec 16
  mode : Nat
  addr : Nat
  offset : Nat
  bufAddr : BitVec 64
  buf : List Byte
  /-- the opening of the window of its effect, once it has taken place -/
  effect : Option Instant
  /-- when it starts, once the window it starts in has opened (R306) -/
  startAt : Option Instant
  deriving DecidableEq, Repr

/-- What one record of a transfer has read: the offset of the record, the place of the bytes in the buffer, the bytes. -/
structure XferRead where
  record : Nat
  place : Nat
  data : List Byte
  deriving DecidableEq, Repr

/-- An I²C controller. -/
structure I2c where
  /-- transfers whose effect has taken place, oldest first -/
  queue : List Transfer
  /-- the transfer in progress with the byte offset of its current record and what it has read so far -/
  current : Option (Transfer × Nat × List XferRead)
  ended : Instant
  done : Nat
  failed : Nat
  deriving DecidableEq, Repr

/-- Halter states (R411). -/
inductive HalterState where
  | disabled | stop | slow | clear
  deriving DecidableEq, Repr

/-- The code of a Halter state (Table 11.5). -/
def HalterState.code : HalterState → Nat
  | .disabled => 0 | .stop => 1 | .slow => 2 | .clear => 3

/-- Reasons for STOP (Table 11.3). -/
inductive StopReason where
  | points | unknown | deadline | gap | tileGap | cut | sequence | selfCheck | selfTest | pin | startup
  deriving DecidableEq, Repr

/-- The code of a STOP reason (Table 11.3). -/
def StopReason.code : StopReason → Nat
  | .points => 0 | .unknown => 1 | .deadline => 2 | .gap => 3 | .tileGap => 4 | .cut => 5 | .sequence => 6
  | .selfCheck => 7 | .selfTest => 8 | .pin => 9 | .startup => 10

/-- Counters of Table 11.5. -/
structure HalterCounts where
  evaluated : Nat
  ignored : Nat
  complete : Nat
  clear : Nat
  stops : Nat
  slows : Nat
  stopsOther : Nat
  acks : Nat
  acksIgnored : Nat
  stoppedNs : Nat
  whileStopped : Nat
  verdictNs : Nat
  pinsNs : Nat
  deriving DecidableEq, Repr

/-- One watched pair of a window (R405, R406). -/
structure Pair where
  /-- graph key and node that owns the pair in this window -/
  owner : Option (Nat × Nat)
  /-- the tile position expected next, as TY and TX -/
  last : Option (Nat × Nat)
  lastTile : Option Instant
  done : Bool
  deriving DecidableEq, Repr

/-- One Halter unit (R401 to R420). -/
structure Halter where
  state : HalterState
  /-- the 704 B configuration record in force (R402) -/
  config : Option (List Byte)
  clearFrames : Nat
  awaitAck : Option Instant
  pts : List Nat
  unk : List Nat
  triggered : List Bool
  pairs : List Pair
  frameDone : Bool
  reason : Option StopReason
  /-- latest frame completion or entry to STOP (GAP) -/
  gapFrom : Instant
  /-- since when the unit has been in STOP or DISABLED -/
  stoppedSince : Instant
  pinA : Bool
  pinB : Bool
  pinSlow : Bool
  /-- next heartbeat edge (R413) -/
  edgeDue : Option Instant
  counts : HalterCounts
  deriving DecidableEq, Repr

end Sys2Proof.Machine
end

