-- ==== Sys2Proof/Machine/MemTypes.lean ====
section
/-!
DEFINITION. Types of the Loft (06) and of external memory (14).
-/
namespace Sys2Proof.Machine

/-- A range of addresses whose bytes the manual calls undefined: they read as free values drawn at `stamp`. -/
structure Undef where
  base : Nat
  len : Nat
  stamp : Nat
  deriving DecidableEq, Repr

/-- A memory: its cells in the one canonical form (addresses strictly rising, no cell equal to what an unlisted
address reads as), and the ranges whose contents are undefined. -/
structure Mem where
  cells : List Host.Cell
  undef : List Undef
  deriving DecidableEq, Repr

/-- States of a resident region (Table 6.4). -/
inductive RegionState where
  | empty | defined | loading | loaded | failed
  deriving DecidableEq, Repr

/-- The code of a region state (Table 6.4). -/
def RegionState.code : RegionState → Nat
  | .empty => 0 | .defined => 1 | .loading => 2 | .loaded => 3 | .failed => 4

/-- A resident region that is not EMPTY (R237). -/
structure Region where
  tenant : Nat
  first : Nat
  count : Nat
  backing : Nat
  state : RegionState
  /-- rows that failed (R256) -/
  failedRows : List Nat
  deriving DecidableEq, Repr

/-- A gate (R245 to R251). -/
structure Gate where
  tenant : Nat
  first : Nat
  count : Nat
  persistent : Bool
  write : Bool
  openMode : Bool
  key : Nat
  peer : Nat
  deriving DecidableEq, Repr

/-- Arbitration classes of Table 6.2, highest first. -/
inductive StallClass where
  | recovery | lane | node | gate | host | scrub
  deriving DecidableEq, Repr

/-- The position of a class in Table 6.2. -/
def StallClass.rank : StallClass → Nat
  | .recovery => 0 | .lane => 1 | .node => 2 | .gate => 3 | .host => 4 | .scrub => 5

/-- What a row access that waits at a stall is for. -/
inductive AccessFor where
  /-- a row of a fabric request in service: the packet, and the place of the row in it -/
  | request (packet index : Nat)
  /-- a row of a BAR2 read, by its number -/
  | bar2 (read : Nat)
  deriving DecidableEq, Repr

/-- One row access pending at a stall (R223). -/
structure Access where
  cls : StallClass
  client : Nat
  row : Nat
  /-- the data of a write -/
  write : Option (List Byte)
  what : AccessFor
  /-- when it arrived at the stall -/
  since : Instant
  /-- consecutive cycles lost -/
  lost : Nat
  /-- its detection has been taken, and it waits for the refill (Table 6.5) -/
  seen : Bool
  deriving DecidableEq, Repr

/-- A BAR2 read in progress: the rows read so far, each with its bytes and whether it is poisoned (R262, R263). -/
structure HeldRead where
  fn : Nat
  offset : Nat
  len : Nat
  got : Table (List Byte × Bool)
  deriving DecidableEq, Repr

/-- A refill or map-out in progress (R254, R255), keyed by its row. -/
structure Refill where
  region : Nat
  since : Instant
  /-- the read-back failed and the row is being mapped to this spare -/
  mapping : Option Nat
  deriving DecidableEq, Repr

/-- Loft counters of Table 6.7. -/
structure LoftCounts where
  detections : Nat
  byNode : Nat
  byScrub : Nat
  byHost : Nat
  byGate : Nat
  refills : Nat
  readBack : Nat
  mapOuts : Nat
  notListed : Nat
  writesRefused : Nat
  outside : Nat
  gateRefusals : Nat
  poisonedBar2 : Nat
  /-- lost cycles per class, in the order of Table 6.2 -/
  lost : List Nat
  largestWait : Nat
  deriving DecidableEq, Repr

/-- The Loft. -/
structure Loft where
  mem : Mem
  /-- stored CRC-32 of each row that a soft error has changed since it was written; every other row's stored CRC is that of
  its bytes (R252) -/
  crcs : Table (BitVec 32)
  suspect : List Nat
  badRows : List Nat
  /-- row to spare of its stall (R220) -/
  map : Table Nat
  /-- spares that failed the self-test, as 64 × stall + spare (R641) -/
  deadSpares : List Nat
  regions : Table Region
  gates : Table Gate
  refills : Table Refill
  waiting : List Access
  /-- BAR2 reads not completed, by number, and the next number -/
  held : Table HeldRead
  nextRead : Nat
  /-- client granted last, key 8 × stall + class (R227) -/
  lastClient : Table Nat
  /-- instant of the latest grant of each stall (R224) -/
  granted : Table Instant
  /-- consecutive cycles lost so far by accesses that come all at once, by their owner: 2^16 × graph + node for a node at its
  end, 2^24 + fetch order for a data movement, 2^48 for egress; with the stalls at which they wait (R228, R229) -/
  tries : Table (Nat × List Nat)
  /-- rows written through gates in this window, each with the key of the request (R250) -/
  gateRows : List (Nat × Nat)
  /-- next row of the patrol scrub and rows it read in this window (R585) -/
  scrubNext : Nat
  scrubDone : Nat
  counts : LoftCounts
  deriving DecidableEq, Repr

/-- Counters of one DRAM channel (Table 14.3). -/
structure DramCounts where
  read : Nat
  written : Nat
  merged : Nat
  corrClient : Nat
  corrScrub : Nat
  uncorrectable : Nat
  poisonReads : Nat
  refused : Nat
  cleared : Nat
  notListed : Nat
  refreshes : Nat
  retrains : Nat
  trainings : Nat
  deriving DecidableEq, Repr

/-- One DRAM channel. -/
structure Channel where
  counts : DramCounts
  /-- corrections in this window (R528) -/
  corrected : Nat
  /-- DRAM_DRIFT was posted and the full training it asks for has not begun (R527) -/
  drift : Bool
  /-- full training in progress since (R527) -/
  training : Option Instant
  deriving DecidableEq, Repr

/-- External memory. Sectors are numbered from the DRAM base. -/
structure Dram where
  mem : Mem
  /-- enabled ECC regions: BASE and LENGTH (R512) -/
  ecc : Table (Nat × Nat)
  poison : List Nat
  /-- the poison list, at most 1,024 sectors (R522) -/
  listed : List Nat
  /-- sectors whose repeated poison was posted in this window (R516) -/
  repeated : List Nat
  channels : List Channel
  /-- channel of the next retraining step (R526), and the instant of the latest -/
  retrainTurn : Nat
  retrainAt : Instant
  scrubNext : Nat
  scrubDone : Nat
  /-- ranges that MEM_WRITE has named in this window: what nodes read there is undefined (R170) -/
  hostWrote : List (Nat × Nat)
  deriving DecidableEq, Repr

end Sys2Proof.Machine
end

