-- ==== Sys2Proof/Machine/DroverTypes.lean ====
section
/-!
DEFINITION. Types of loaded graphs, active instances, tethers, faults (05, 16) and results to the host (15).
-/
namespace Sys2Proof.Machine

/-- Node kinds of Table 5.3. -/
inductive NodeKind where
  | engine | ne | laneInput | tetherWait | tetherSignal | resultOut | gateCopy
  deriving DecidableEq, Repr

/-- One overlay of a node descriptor (Table 5.2). -/
structure Overlay where
  param : Nat
  body : Nat
  len : Nat
  deriving DecidableEq, Repr

/-- One node of a loaded graph: the fields of Table 5.2 with the predecessor list resolved. -/
structure Node where
  kind : NodeKind
  producer : Bool
  consumer : Bool
  tap : Bool
  unit : Nat
  unitCount : Nat
  partner : Nat
  port : Nat
  preds : List Nat
  bound : Nat
  /-- lease entries, one per unit -/
  tags : List Nat
  endTether : Nat
  endIncrement : Nat
  calFirst : Nat
  calCount : Nat
  /-- 0xFFFF for none -/
  replayId : Nat
  overlays : List Overlay
  /-- bytes 64 to 255 of the descriptor -/
  body : List Byte
  deriving DecidableEq, Repr

/-- One calendar entry (R187). -/
structure CalEntry where
  offset : Nat
  length : Nat
  dest : Nat
  control : Bool
  maxPackets : Nat
  deriving DecidableEq, Repr

/-- Arming modes of Table 5.5. -/
inductive ArmMode where
  | everyTick | everyNth | once | onFrameStart | onTether
  deriving DecidableEq, Repr

/-- The code of an arming mode (Table 4.10). -/
def ArmMode.code : ArmMode → Nat
  | .everyTick => 0 | .everyNth => 1 | .once => 2 | .onFrameStart => 3 | .onTether => 4

/-- Operands of GRAPH_ARM (Table 4.10). -/
structure ArmSpec where
  mode : ArmMode
  /-- none: RESULT_RING 0xFF -/
  ring : Option Nat
  n : Nat
  phase : Nat
  lane : Nat
  context : Nat
  tether : Nat
  startStc : Nat
  deriving DecidableEq, Repr

/-- An arm in force. -/
structure Arm where
  spec : ArmSpec
  /-- openings counted since the arm took effect (R193) -/
  openings : Nat
  deriving DecidableEq, Repr

/-- A loaded graph. Its key in the table of graphs is 64 × tenant + slot. -/
structure Graph where
  key : Nat
  system : Bool
  peerMask : Nat
  nodes : List Node
  /-- POINT and LAST of each replay set -/
  replays : List (Nat × Nat)
  calendar : List CalEntry
  param : List Byte
  blob : List Byte
  critPath : Nat
  totalLen : Nat
  arm : Option Arm
  /-- an arm of a SYSTEM graph that waits for its START_STC (R497) -/
  systemArm : Option ArmSpec
  /-- status and TICKNO of the latest instance (R172) -/
  latest : Option (Status × BitVec 32)
  /-- an instance was activated in this window (R193) -/
  activated : Bool
  /-- triggers ignored in this window (R195) -/
  missed : Nat
  deriving DecidableEq, Repr

/-- A fault detected against one run of a node: cause of Table 16.2, instant, and DETAIL of Table 16.6. -/
structure Mark where
  cause : Nat
  time : Instant
  detail : Nat
  /-- for a Loft detection, the row -/
  row : Option Nat
  deriving DecidableEq, Repr

/-- Where a node of an active instance stands. -/
inductive NodePhase where
  | waiting
  | running (since : Instant)
  | ended
  | stopped
  | skipped
  deriving DecidableEq, Repr

/-- One node of an active instance. -/
structure NodeRun where
  phase : NodePhase
  /-- the latched body (R208) -/
  body : List Byte
  marks : List Mark
  /-- packets injected under each of the node's calendar entries (R456) -/
  calUsed : List Nat
  /-- the node was dispatched at least once -/
  started : Bool
  /-- for LANE_INPUT, the input status it ended with; for RESULT_OUT, its first Carafe page -/
  input : Option Status
  carafePage : Option Nat
  /-- for NE, the state of the weight region at dispatch, 0xF for none (R387) -/
  weightState : Nat
  /-- for GATE_COPY, packets injected and packets whose requests ended OK (R493, R494) -/
  sent : Nat
  acked : Nat
  /-- rows the node read at its dispatch: plane headers, summaries of feature sets (R334, R341) -/
  heads : List (Nat × List Byte)
  /-- output rows and sectors that have gone out as packets, by address (R313) -/
  wrote : List Nat
  /-- stream packets its port has accepted, and tap packets its Halter has (R371, R390) -/
  streamed : Nat
  tapped : Nat
  /-- stream packets its program has read, in order (R390) -/
  taken : List (List Byte)
  deriving DecidableEq, Repr

/-- One replay set of an active instance. -/
structure ReplayRun where
  used : Nat
  closed : Bool
  /-- the set is marked not started and waits for its refills (R563) -/
  waiting : Bool
  rows : List Nat
  deriving DecidableEq, Repr

/-- Pages a RESULT_OUT node gave to its result (R535, R537). -/
structure Staged where
  node : Nat
  first : Nat
  pages : Nat
  deriving DecidableEq, Repr

/-- An active instance. Its key is that of its graph. -/
structure Inst where
  activated : Instant
  order : Nat
  tickno : BitVec 32
  stc : BitVec 32
  spec : ArmSpec
  nodes : List NodeRun
  replays : List ReplayRun
  /-- a node was refused admission or stopped: no later node is considered (R46, R197) -/
  closed : Bool
  halted : Bool
  firstCut : Option Nat
  staged : List Staged
  droppedPages : Nat
  /-- one of its nodes had an unrecovered fault (R567) -/
  faulted : Bool
  /-- it is ended by an abort (R568) -/
  aborted : Bool
  deriving DecidableEq, Repr

/-- One tether (R211). -/
structure Tether where
  count : Nat
  target : Nat
  /-- instant of the latest SET_TARGET, whose cycle takes the largest VALUE (R213) -/
  setAt : Option Instant
  /-- it has triggered since it became met (R195) -/
  fired : Bool
  deriving DecidableEq, Repr

/-- Outcome of a taken fault (Table 16.6). -/
inductive FaultOutcome where
  | replayed | unrecovered | limit | recordedOnly
  deriving DecidableEq, Repr

/-- The code of a fault outcome. -/
def FaultOutcome.code : FaultOutcome → Nat
  | .replayed => 0 | .unrecovered => 1 | .limit => 2 | .recordedOnly => 3

/-- A fault record (Table 16.6). -/
structure FaultRecord where
  tickno : BitVec 32
  ns : Nat
  outcome : FaultOutcome
  replays : Nat
  slot : Nat
  cause : Nat
  node : Nat
  detail : Nat
  deriving DecidableEq, Repr

/-- Fault counters of one tenant (Table 16.5). -/
structure FaultCounts where
  taken : Nat
  replays : Nat
  closedAfterReplay : Nat
  unrecovered : Nat
  aborted : Nat
  abortsFault : Nat
  perCause : List Nat
  /-- newest first, at most 8 -/
  records : List FaultRecord
  deriving DecidableEq, Repr

/-- The local memory of one NE core (R376): 256 KiB of instructions and a buffer of 1 MiB, by byte number. -/
structure Core where
  imem : Mem
  buffer : Mem
  deriving DecidableEq, Repr

/-- The Drover's state, with that of the NE cores and stream ports. -/
structure Drover where
  graphs : Table Graph
  insts : Table Inst
  /-- activations so far, for the order of R199 -/
  activations : Nat
  tethers : List Tether
  faults : List FaultCounts
  /-- corrected errors in Drover state (R560) -/
  corrected : Nat
  /-- NE cores, 8 × cluster + core -/
  cores : List Core
  /-- packets in the FIFO of each stream port, oldest first; key 4 × cluster + port (R390) -/
  fifos : Table (List (List Byte))
  deriving DecidableEq, Repr

/-- A result waiting to be delivered (R538, R546). -/
structure Result where
  slot : Nat
  mode : Nat
  input : Status
  tickno : BitVec 32
  stc : BitVec 32
  status : Status
  firstCut : Nat
  endUs : Nat
  /-- Carafe pages not yet granted, in order -/
  pages : List Nat
  delivered : Nat
  dropped : Nat
  firstPage : Nat
  /-- a descriptor slot is reserved for it (R539) -/
  started : Bool
  /-- it was carried over an egress flush without having started (R546) -/
  backlogged : Bool
  deriving DecidableEq, Repr

/-- A result ring (R530, R531). -/
structure ResultRing where
  descLog : Nat
  vector : Nat
  resCount : Nat
  resTimeUs : Nat
  descBase : BitVec 64
  pageBase : BitVec 64
  pageCount : Nat
  tail : Nat
  head : Nat
  pagePtr : Nat
  /-- written and unreleased descriptors: first page index and number of pages, oldest first -/
  live : List (Nat × Nat)
  /-- descriptors written since creation (R543) -/
  written : Nat
  lost : Nat
  frozen : Bool
  queue : List Result
  unsignalled : Nat
  oldest : Option Instant
  deriving DecidableEq, Repr

/-- A write waiting in the endpoint queue (R540, R541): a page, or the descriptor that follows its pages. -/
inductive EndpointItem where
  | page (tenant : Nat) (ring : Nat) (addr : BitVec 64) (data : List Byte)
  | descriptor (tenant : Nat) (ring : Nat) (addr : BitVec 64) (data : List Byte)
  deriving DecidableEq, Repr

/-- Egress state (15). -/
structure Egress where
  /-- result rings of each tenant: key 64 × tenant + ring -/
  rings : Table ResultRing
  /-- next free Carafe page of each tenant in this window (R535) -/
  carafeNext : List Nat
  queue : List EndpointItem
  /-- tenant after which the round robin of R540 continues -/
  lastTenant : Nat
  deriving DecidableEq, Repr

end Sys2Proof.Machine
end

