-- ==== Sys2Proof/Machine/FabricTypes.lean ====
section
/-!
DEFINITION. Types of the Paddock fabric (12) and of the P-links (13).
-/
namespace Sys2Proof.Machine

/-- A fabric packet: header words H0 and H1 (Tables 12.2, 12.3; H1 is bytes 8 to 15, zero where a control packet has
none), and the remaining bytes: bytes 16 to 31 of a control packet, or the rows of a data packet. -/
structure Packet where
  h0 : BitVec 64
  h1 : BitVec 64
  rest : List Byte
  deriving DecidableEq, Repr

/-- Where a packet is. Input ports are numbered as the congestion map numbers outputs: 0 N, 1 E, 2 S, 3 W, 4 to 7
stall ports, 8 to 11 client ports. -/
inductive Place where
  /-- in the buffer of one input port and virtual channel of a router -/
  | buffer (router port vc : Nat)
  /-- handed to the endpoint at one stall or client port of a router, or to the gateway of a mesh edge port -/
  | endpoint (router port : Nat)
  /-- a request whose row accesses are pending; the rows read gather in it -/
  | serving (router port : Nat)
  deriving DecidableEq, Repr

/-- A packet on the device. Its key in the table of packets is its order of arrival at its place. -/
structure Flight where
  pkt : Packet
  place : Place
  /-- the gateway it entered the device by -/
  entered : Option Nat
  /-- when it came to its place -/
  since : Instant
  /-- at the head of its buffer and not advancing: the latest cycle counted for it (R459) -/
  blocked : Option Instant
  deriving DecidableEq, Repr

/-- A packet a service port or gateway waits to inject (responses, forwarded multicasts). -/
structure Outgoing where
  router : Nat
  port : Nat
  pkt : Packet
  deriving DecidableEq, Repr

/-- What issued an outstanding request. -/
inductive Issuer where
  | node (graph : Nat) (node : Nat)
  | lane (lane ctx : Nat)
  | tally
  deriving DecidableEq, Repr

/-- An outstanding request (R450). Its key is 64 × (16 × router + port) + tag. -/
structure Request where
  issuer : Issuer
  pkt : Packet
  injected : Instant
  expiry : Instant
  /-- chips that have not answered: one for a unicast, one per masked chip for a multicast (R445) -/
  waiting : List Nat
  /-- NACK reasons received, with their chips -/
  refusals : List (Nat × Nat)
  /-- Tally filter that records it (R606) -/
  filter : Option Nat
  deriving DecidableEq, Repr

/-- A link entry of a route image (Table 12.7). -/
structure LinkEntry where
  enabled : Bool
  wrap : Bool
  neighbour : Nat
  deriving DecidableEq, Repr

/-- A route-table version (Table 12.7). EGRESS codes: 0 LOCAL, 1 N, 2 E, 3 S, 4 W, 0xFF NONE. -/
structure Routes where
  timeoutUs : Nat
  links : List LinkEntry
  route : List Nat
  keys : BitVec 256
  deriving DecidableEq, Repr

/-- Fabric counters of Table 12.9. -/
structure FabricCounts where
  injected : Nat
  dataInjected : Nat
  keyRefused : Nat
  keyRefusedRx : Nat
  nacks : Nat
  noRoute : Nat
  malformed : Nat
  expired : Nat
  discarded : Nat
  quiesced : Nat
  calWaits : Nat
  windowWaits : Nat
  tagWaits : Nat
  stalls : Nat
  slips : Nat
  highest : Nat
  deriving DecidableEq, Repr

/-- What a packet waits for before it is injected (R431, R450, R456, R457). -/
inductive WaitsFor where
  | room | calendar | window | tag
  deriving DecidableEq, Repr

/-- The Paddock fabric. -/
structure Fabric where
  versions : List Routes
  epoch : Nat
  /-- version a pending EPOCH_SWITCH names (R441) -/
  switch : Option Nat
  packets : Table Flight
  nextPacket : Nat
  outgoing : List Outgoing
  reqs : Table Request
  /-- held-back tags and the expiry of their requests (R453) -/
  tagHold : Table Instant
  /-- input granted last, and consecutive control grants while data waited, key 16 × router + output (R432) -/
  lastInput : Table Nat
  controlRun : Table Nat
  /-- packets that wait for injection: for what, and the latest cycle counted, by port and client (R459) -/
  waits : Table (WaitsFor × Instant)
  /-- congestion map of this window and of the latest ended one, key 12 × router + output (R459) -/
  congestion : Table Nat
  latched : Table Nat
  counts : FabricCounts
  deriving DecidableEq, Repr

/-- P-link port states (Table 13.1). -/
inductive LinkState where
  | disabled | training | up | down
  deriving DecidableEq, Repr

/-- The code of a link state (Table 13.6). -/
def LinkState.code : LinkState → Nat
  | .disabled => 0 | .training => 1 | .up => 2 | .down => 3

/-- Causes of DOWN (R480). -/
inductive DownCause where
  | retries | noAck | partner | commanded | fecLost
  deriving DecidableEq, Repr

/-- The code of a DOWN cause (Table 13.5). -/
def DownCause.code : DownCause → Nat
  | .retries => 0 | .noAck => 1 | .partner => 2 | .commanded => 3 | .fecLost => 4

/-- Counters of one P-link port (Table 13.6). -/
structure LinkCounts where
  fecCorrected : Nat
  fecLost : Nat
  framesSent : Nat
  framesDelivered : Nat
  badFrames : Nat
  naks : Nat
  attempts : Nat
  downs : Nat
  trainFails : Nat
  confirms : Nat
  ticksIgnored : Nat
  abortsForwarded : Nat
  abortRepeats : Nat
  highestReplay : Nat
  recalJoined : Nat
  badBlocks : Nat
  /-- packets the replay buffer held at a DOWN (R481) -/
  downDiscards : Nat
  /-- ABORTs that met no active instance (R501) -/
  abortsIdle : Nat
  deriving DecidableEq, Repr

/-- One P-link port. -/
structure PLink where
  state : LinkState
  /-- instant at which the state was entered -/
  since : Instant
  /-- the port may carry packets with a nonzero key (R466) -/
  tenantOk : Bool
  neighbour : Nat
  delay : Nat
  /-- a training attempt failed since the port last left UP or DISABLED (R465) -/
  failedOnce : Bool
  /-- next training attempt, while waiting for it -/
  retryAt : Option Instant
  txSeq : Nat
  rxExpected : Nat
  /-- held packets with their sequence numbers, oldest first (R475) -/
  replay : List (Nat × Packet)
  /-- credits for the partner's virtual channels (R478) -/
  credits : List Nat
  /-- credits to return for our own virtual channels -/
  returns : List Nat
  /-- consecutive failed attempts for the oldest packet, and the number that attempt replayed first (R476) -/
  failed : Nat
  attempting : Option Nat
  progressAt : Instant
  lastRx : Instant
  lastTx : Instant
  lastNak : Option Instant
  /-- frames delivered since the last LINK_CTL sent (R474) -/
  sinceCtl : Nat
  /-- start of the latest recalibration step (R468) -/
  recal : Option Instant
  lastStc : BitVec 32
  counts : LinkCounts
  deriving DecidableEq, Repr

/-- The identity of an ABORT (R500). -/
structure AbortId where
  key : Nat
  slot : Nat
  stc : BitVec 32
  deriving DecidableEq, Repr

/-- A reroute in progress, as one device sees it (R504). -/
structure Reroute where
  port : Nat
  version : Nat
  /-- STC of the window in whose drain every device switches -/
  switchStc : Option (BitVec 32)
  confirmed : List Nat
  misses : Nat
  master : Bool
  deriving DecidableEq, Repr

/-- Blocks and frames the device sends on a P-link (Table 13.2). -/
inductive LinkOut where
  | tick (stc : BitVec 32) (depth : Nat) (holdover : Bool)
  | ctl (ackSeq : Nat) (nak ackValid : Bool) (credits : List Nat) (flush : Bool)
  | frame (seq : Nat) (pkt : Packet)
  | train (bootWait : Bool)
  | linkDown (cause : DownCause)
  | recal
  | idle
  deriving DecidableEq, Repr

end Sys2Proof.Machine
end

