-- ==== Sys2Proof/Machine/PowerTallyTypes.lean ====
section
/-!
DEFINITION. Types of power and heat (17) and of the Tally trace (18).
-/
namespace Sys2Proof.Machine

/-- Power states of Table 17.2 that a powered device can be in (R589). -/
inductive PowerState where
  | active | decaf | standbyRetain | standby
  deriving DecidableEq, Repr

/-- The code of a power state (Table 17.2). -/
def PowerState.code : PowerState → Nat
  | .active => 0 | .decaf => 1 | .standbyRetain => 2 | .standby => 3

/-- A change of Standby state in progress (R594, R596): its target and the command that waits for it. -/
structure PowerJob where
  target : PowerState
  cmd : Nat
  deriving DecidableEq, Repr

/-- Power and heat. -/
structure Power where
  state : PowerState
  /-- clock change accepted in RUNNING and not yet made, with its acceptance (R591) -/
  pending : Option (PowerState × Instant)
  job : Option PowerJob
  /-- readings of the latest sample, 1/16 °C -/
  sensors : List Int
  /-- highest reading and its sensor since the previous evaluation (R598) -/
  hottest : Option (Int × Nat)
  level : Nat
  evaluated : Instant
  tmax : Int
  highest : Int
  skippedWindows : Nat
  decafEntries : Nat
  loftScrub : Nat
  loftPromoted : Nat
  dramScrub : Nat
  dramPromoted : Nat
  passes : Nat
  slots : Nat
  deriving DecidableEq, Repr

/-- Tally states (Table 18.4). -/
inductive TallyState where
  | stopped | running | full
  deriving DecidableEq, Repr

/-- The code of a Tally state (Table 18.4). -/
def TallyState.code : TallyState → Nat
  | .stopped => 0 | .running => 1 | .full => 2

/-- One range filter (Table 18.1). -/
structure TallyFilter where
  enabled : Bool
  reads : Bool
  writes : Bool
  matchKey : Bool
  width : Nat
  offset : Nat
  key : Nat
  sources : Nat
  base : Nat
  limit : Nat
  deriving DecidableEq, Repr

/-- A Tally configuration (Table 18.1). -/
structure TallyConfig where
  ring : Bool
  port : Bool
  stopWhenFull : Bool
  tenants : Nat
  events : Nat
  plinkPorts : Nat
  plinkKey : Nat
  ringBase : Nat
  ringSize : Nat
  filters : List TallyFilter
  deriving DecidableEq, Repr

/-- The Tally unit (R609 to R620). -/
structure Tally where
  state : TallyState
  config : Option TallyConfig
  configSeq : Nat
  /-- STREAM_POS of the next byte -/
  pos : Nat
  /-- stream bytes that some sink has not taken, oldest first -/
  fifo : List Byte
  /-- of those, how many bytes each sink has already taken -/
  ringTaken : Nat
  portTaken : Nat
  /-- instant up to which the trace port has sent (R618) -/
  portTime : Instant
  lastTime : Instant
  /-- last row of each source and space, key 2 × source + space (R614) -/
  lastRow : Table Nat
  syncPos : Nat
  dropsTotal : Nat
  /-- packets dropped in the overflow episode in progress (R619) -/
  episode : Option Nat
  /-- STREAM_POS of the next byte the ring takes -/
  ringPos : Nat
  lastWrite : Option Instant
  emitted : Nat
  dropped : Nat
  episodes : Nat
  ringBytes : Nat
  portBytes : Nat
  ringLost : Nat
  highest : Nat
  deriving DecidableEq, Repr

end Sys2Proof.Machine
end

