-- ==== Sys2Proof/Machine/TickTypes.lean ====
section
/-!
DEFINITION. Types of the tick machine (02_frame_window).
-/
namespace Sys2Proof.Machine

/-- Tick states of Table 2.2 (R56). -/
inductive TickState where
  | stopped | running | paused | switching | lost
  deriving DecidableEq, Repr

/-- The code TICK_STATUS gives a tick state (Table 4.8). -/
def TickState.code : TickState → Nat
  | .stopped => 0 | .running => 1 | .paused => 2 | .switching => 3 | .lost => 4

/-- Tick sources (R27). -/
inductive TickSource where
  | internal | tickIn | plink
  deriving DecidableEq, Repr

/-- The code of a tick source (Table 4.7). -/
def TickSource.code : TickSource → Nat
  | .internal => 0 | .tickIn => 1 | .plink => 2

/-- Causes of TICK_FAULT (R68). -/
inductive TickFault where
  | early | missing | lost | noQualify
  deriving DecidableEq, Repr

/-- How far the drain of a window has come (R42). -/
inductive Phase where
  | opened | drain | guillotined | quiesced | flushed | maintained
  deriving DecidableEq, Repr

/-- The position of a phase in the order of R42. -/
def Phase.rank : Phase → Nat
  | .opened => 0 | .drain => 1 | .guillotined => 2 | .quiesced => 3 | .flushed => 4 | .maintained => 5

/-- The window that is open, with the boundaries fixed at its opening (R38). -/
structure Window where
  t0 : Instant
  td : Instant
  tg : Instant
  tf : Instant
  tm : Instant
  te : Instant
  phase : Phase
  /-- a HALT stopped dispatch in this window (R62) -/
  halted : Bool
  /-- the window is skipped for heat (R600) -/
  skipped : Bool
  deriving DecidableEq, Repr

/-- Counts of R69: nodes admitted, skipped, guillotined; instances SKIPPED, TRUNCATED, HALTED. -/
structure WindowCounts where
  admitted : Nat
  skipped : Nat
  guillotined : Nat
  instSkipped : Nat
  instTruncated : Nat
  instHalted : Nat
  deriving DecidableEq, Repr

/-- P, R and M in microseconds (R27, R28). -/
structure TickParams where
  p : Nat
  r : Nat
  m : Nat
  deriving DecidableEq, Repr

/-- A source switch accepted and not completed (R65, R66, R679). -/
structure Switch where
  source : TickSource
  port : Nat
  accepted : Instant
  /-- instant of qualification, once qualified -/
  qualified : Option Instant
  /-- edges or blocks seen while qualifying, latest first -/
  edges : List Instant
  /-- the anchor u of R679, once qualified -/
  anchor : Option Instant
  /-- t_k, once reached -/
  tk : Option Instant
  deriving DecidableEq, Repr

/-- What the device does when it reacquires (R35). -/
inductive ReturnTo where
  | running | paused
  deriving DecidableEq, Repr

end Sys2Proof.Machine
end

