-- ==== Sys2Proof/Machine/State.lean ====
section
/-!
DEFINITION. The state of the device as plain data, the reasons a step can stop, and the state after reset.
-/
namespace Sys2Proof.Machine

/-- Why the machine stops with a fault. -/
inductive Fault where
  /-- POWER_GOOD_CHANGE and PERST_N_RELEASE raise it when TEST_EN is high: no statement of the manual binds such a
  device (R654). Safe: nothing is claimed of it. -/
  | testEnabled
  deriving DecidableEq, Repr

/-- Why a step has no meaning. -/
inductive Refusal where
  /-- No command raises it: every arm of the dispatch has its meaning. Safe. -/
  | notModelled (mnemonic : String)
  deriving DecidableEq, Repr

/-- Low-speed pins the device drives (Table 20.1). -/
inductive Pin where
  | alertN | thermtripN | fsync (output : Nat) | halterA (unit : Nat) | halterB (unit : Nat) | halterSlow (unit : Nat)
  deriving DecidableEq, Repr

/-- What the device sends (assumption log 2). -/
inductive Output where
  /-- a 32 B CQ entry (Table 3.4) -/
  | cqEntry (fn : Nat) (ring : Nat) (addr : BitVec 64) (entry : BitVec 256)
  /-- an MSI-X message -/
  | msix (fn : Nat) (vector : Nat)
  /-- another memory write for a function: a host buffer, a result page, a descriptor; poisoned: EP set (R517) -/
  | hostWrite (fn : Nat) (addr : BitVec 64) (data : List Byte) (poisoned : Bool)
  /-- the read of a host buffer for a function (R142) -/
  | hostRead (fn : Nat) (addr : BitVec 64) (len : Nat)
  /-- the read of an SQ entry -/
  | sqRead (fn : Nat) (ring : Nat) (addr : BitVec 64)
  /-- the completion of a read of BAR0 or BAR2; poisoned: EP set -/
  | reply (fn : Nat) (data : List Byte) (poisoned : Bool)
  /-- a pin driven to a level; HALTER_SLOW undriven is not a level -/
  | pin (p : Pin) (high : Bool)
  | tickOut
  | link (port : Nat) (out : LinkOut)
  /-- the address, bytes and read count of an I²C record transaction -/
  | i2c (controller : Nat) (addr : Nat) (data : List Byte) (count : Nat)
  /-- bytes on the trace port -/
  | trace (data : List Byte)
  deriving DecidableEq, Repr

/-- An output with its instant. -/
structure Emit where
  time : Instant
  out : Output
  deriving DecidableEq, Repr

/-- A data movement in progress (R145, R150). -/
inductive Move where
  | memWrite (addr len : Nat)
  /-- `seen`: its detections have been taken, and it waits for refills (Table 6.5) -/
  | memRead (addr len : Nat) (buf : BitVec 64) (seen : Bool)
  | residentLoad (region : Nat)
  | graphLoad (tenant slot len : Nat)
  deriving DecidableEq, Repr

/-- A deferred effect accepted and not yet in force (R147, class D). -/
inductive Effect where
  | partition (tenant : Nat) (c : Contract)
  | gateOpen (gate : Nat) (g : Gate)
  | gateClose (gate : Nat)
  | arm (graph : Nat) (spec : ArmSpec)
  /-- the arm of a SYSTEM graph, which the graph holds until the opening of its START_STC (R497) -/
  | systemArm (graph : Nat)
  | disarm (graph : Nat)
  | param (graph : Nat) (offset : Nat) (data : List Byte)
  | fsync (output : Nat) (enable : Bool) (offset width divider : Nat)
  | xfer (controller : Nat) (x : Transfer)
  | halterConfig (unit : Nat) (record : List Byte)
  | halterEnable (unit : Nat) (on : Bool)
  | tallyConfig (c : TallyConfig)
  | tallyStart
  | tallyStop
  deriving DecidableEq, Repr

/-- The tick machine (02). -/
structure Tick where
  state : TickState
  source : TickSource
  port : Nat
  prm : TickParams
  /-- Q_f and Q_e in ns (R39) -/
  qf : Nat
  qe : Nat
  /-- the latest tick: t0 of R30 -/
  last : Option Instant
  /-- next tick of the timer, for INTERNAL and for a PLINK follower -/
  due : Option Instant
  window : Option Window
  tickno : BitVec 32
  stc : BitVec 32
  lastOpen : Instant
  holdover : Bool
  synth : Nat
  /-- earliest effect tick of a pending PAUSE (R58) -/
  pause : Option Instant
  /-- HALT scheduled the entry to PAUSED at the next tick (R62) -/
  haltPending : Bool
  resume : Option Instant
  returnTo : ReturnTo
  switch : Option Switch
  newParams : Option TickParams
  /-- acceptance of a TICK_START whose first tick has not come (R57) -/
  startedAt : Option Instant
  /-- edges or blocks of a start or a reacquisition, latest first -/
  edges : List Instant
  /-- last instant at which the latest follower tick can be confirmed (R488) -/
  confirmBy : Option Instant
  /-- a block that came before the follower's tick and confirms it if within 200 ns: its instant and STC -/
  early : Option (Instant × BitVec 32)
  /-- DEPTH the device sends (R485) -/
  depth : Nat
  win : WindowCounts
  total : WindowCounts
  faults : Nat
  edgesIgnored : Nat
  deriving DecidableEq, Repr

/-- The state of the device: everything the spec gives it, and the queue of waiting commands. -/
structure State where
  /-- device time (R22) -/
  now : Instant
  /-- commands waiting, first in first out -/
  pending : List Instr
  out : List Emit
  /-- free values drawn so far (assumption log 7) -/
  draws : Nat
  part : Part
  pins : Pins
  boot : Boot
  fw : Firmware
  linkUp : Bool
  fns : List Func
  arb : Arb
  cmds : Table Cmd
  fetchSeq : Nat
  lastAccept : Option Instant
  moves : Table Move
  flash : Option FlashJob
  alertStatus : BitVec 6
  alertMask : BitVec 6
  contracts : List Contract
  deferred : List Effect
  tick : Tick
  drover : Drover
  loft : Loft
  dram : Dram
  ports : List CamPort
  /-- contexts, 4 × lane + context -/
  ctxs : List Ctx
  lanes : List Lane
  fsync : List Fsync
  i2c : List I2c
  halters : List Halter
  fabric : Fabric
  links : List PLink
  aborts : List AbortId
  reroute : Option Reroute
  egress : Egress
  power : Power
  tally : Tally
  /-- debug words written by DEBUG_POKE, key 2^32 × unit + offset (R181) -/
  debug : Table (BitVec 32)
  deriving DecidableEq, Repr

/-- A masked MSI-X vector with nothing in it. -/
def MsixEntry.reset : MsixEntry := { addr := 0, data := 0, masked := true, pending := false }

/-- Configuration registers after reset, as PCI Express Base Specification 5.0 gives them (assumption log 78). -/
def PciConfig.reset : PciConfig :=
  { bar0 := 0, bar2 := 0, deviceControl := 0x2810, linkControl := 0, pm := .d0, uncorrectableStatus := 0,
    uncorrectableMask := 0x00400000, uncorrectableSeverity := 0x00462030, correctableStatus := 0,
    correctableMask := 0xE000, headerLog := 0 }

/-- A function after reset (Table 3.8, R114). -/
def Func.reset : Func :=
  { cfg := .reset, busMaster := false, adminSqBase := 0, adminCqBase := 0, adminSqLog := 0, adminCqLog := 0, enable := false,
    ready := false, error := false, cause := .none, intCause := 0, eventsLost := 0, timeouts := 0, bar2Outside := 0,
    bar2Dropped := 0, timeHi := 0, ticknoLatch := 0, msix := List.replicate 32 MsixEntry.reset, rings := [],
    backlog := [], dropped := 0, held := [], weight := 4, stops := [] }

/-- The reset contract of tenant n (R166). -/
def Contract.reset (n : Nat) : Contract :=
  { key := 1 + n, tetherFirst := 128 * n, tetherCount := 128, carafe := (0, 0), loft := List.replicate 4 (0, 0),
    dram := List.replicate 4 (0, 0), leases := List.replicate 16 { unit := 0xFF, start := 0, stop := 0 } }

/-- The arbiter after reset (assumption log 6). -/
def Arb.reset : Arb :=
  { adminPtr := 0, adminRun := 0, fnPtr := 0, fnRun := 0, ringPtr := [1, 1, 1, 1], ringRun := [0, 0, 0, 0],
    lastGrant := none }

/-- Window counts of zero. -/
def WindowCounts.zero : WindowCounts :=
  { admitted := 0, skipped := 0, guillotined := 0, instSkipped := 0, instTruncated := 0, instHalted := 0 }

/-- The tick machine after reset (R27, R56). -/
def Tick.reset : Tick :=
  { state := .stopped, source := .internal, port := 0, prm := { p := 16667, r := 100, m := 5 }, qf := 4000, qe := 3000,
    last := none, due := none, window := none, tickno := 0, stc := 0, lastOpen := 0, holdover := false, synth := 0,
    pause := none, haltPending := false, resume := none, returnTo := .running, switch := none, newParams := none,
    startedAt := none, edges := [], confirmBy := none, early := none, depth := 0, win := .zero, total := .zero,
    faults := 0, edgesIgnored := 0 }

/-- A tether at zero (R54). -/
def Tether.reset : Tether := { count := 0, target := 0, setAt := none, fired := false }

/-- Fault counters of zero. -/
def FaultCounts.zero : FaultCounts :=
  { taken := 0, replays := 0, closedAfterReplay := 0, unrecovered := 0, aborted := 0, abortsFault := 0,
    perCause := List.replicate 17 0, records := [] }

/-- The Drover after reset (R625). -/
def Drover.reset : Drover :=
  { graphs := [], insts := [], activations := 0, tethers := List.replicate 512 .reset,
    faults := List.replicate 4 .zero, corrected := 0,
    cores := (List.range 16).map fun k =>
      { imem := { cells := [], undef := [{ base := 0, len := 262144, stamp := 2 + 2 * k }] },
        buffer := { cells := [], undef := [{ base := 0, len := 1048576, stamp := 3 + 2 * k }] } },
    fifos := [] }

/-- Loft counters of zero. -/
def LoftCounts.zero : LoftCounts :=
  { detections := 0, byNode := 0, byScrub := 0, byHost := 0, byGate := 0, refills := 0, readBack := 0, mapOuts := 0,
    notListed := 0, writesRefused := 0, outside := 0, gateRefusals := 0, poisonedBar2 := 0, lost := List.replicate 6 0,
    largestWait := 0 }

/-- A memory in which nothing is listed. -/
def Mem.empty : Mem := { cells := [], undef := [] }

/-- The Loft after reset (R625; assumption log 4). -/
def Loft.reset : Loft :=
  { mem := .empty, crcs := [], suspect := [], badRows := [], map := [], deadSpares := [], regions := [], gates := [],
    refills := [], waiting := [], held := [], nextRead := 0, lastClient := [], granted := [], tries := [],
    gateRows := [], scrubNext := 0, scrubDone := 0,
    counts := .zero }

/-- DRAM counters of zero. -/
def DramCounts.zero : DramCounts :=
  { read := 0, written := 0, merged := 0, corrClient := 0, corrScrub := 0, uncorrectable := 0, poisonReads := 0,
    refused := 0, cleared := 0, notListed := 0, refreshes := 0, retrains := 0, trainings := 0 }

/-- A DRAM channel after reset. -/
def Channel.reset : Channel := { counts := .zero, corrected := 0, drift := false, training := none }

/-- DRAM after reset (R522, Table 19.2; assumption log 4). -/
def Dram.reset : Dram :=
  { mem := .empty, ecc := [], poison := [], listed := [], repeated := [], channels := List.replicate 4 .reset,
    retrainTurn := 0, retrainAt := 0, scrubNext := 0, scrubDone := 0, hostWrote := [] }

/-- Port counters of zero. -/
def PortCounts.zero : PortCounts :=
  { longPackets := 0, hdrCorrected := 0, hdrBad := 0, crcErrors := 0, unsupported := 0, unmatched := 0, phySync := 0,
    outOfWindow := 0, extra := 0, noFrame := 0, cutAtTg := 0 }

/-- A camera port after reset (R266). -/
def CamPort.reset : CamPort :=
  { enabled := false, cphy := false, width := 1, rate := 80, quietUntil := none, counts := .zero, errors := 0 }

/-- An unbound context. -/
def Ctx.reset : Ctx :=
  { binding := none, image := none, pending := [], frame := none, opened := false, recorded := none, faulted := false,
    discarding := false }

/-- A lane after reset. -/
def Lane.reset : Lane :=
  { framesOk := 0, framesDamaged := 0, framesLate := 0, absent := 0, dropped := 0, pixels := 0, refused := 0,
    unset := 0, defects := 0, embedDropped := 0, highest := 0, buffer := [], lastCtx := none }

/-- An FSYNC output after reset (R303). -/
def Fsync.reset : Fsync :=
  { enabled := false, offset := 0, width := 0, divider := 0, level := false, skipPosted := false, skipped := false }

/-- An I²C controller after reset. -/
def I2c.reset : I2c := { queue := [], current := none, ended := 0, done := 0, failed := 0 }

/-- Halter counters of zero. -/
def HalterCounts.zero : HalterCounts :=
  { evaluated := 0, ignored := 0, complete := 0, clear := 0, stops := 0, slows := 0, stopsOther := 0, acks := 0,
    acksIgnored := 0, stoppedNs := 0, whileStopped := 0, verdictNs := 0, pinsNs := 0 }

/-- A pair nobody owns. -/
def Pair.reset : Pair := { owner := none, last := none, lastTile := none, done := false }

/-- A Halter unit after reset (R413, R415, R625). -/
def Halter.reset : Halter :=
  { state := .disabled, config := none, clearFrames := 0, awaitAck := none, pts := List.replicate 16 0,
    unk := List.replicate 16 0, triggered := List.replicate 16 false, pairs := List.replicate 4 .reset,
    frameDone := false, reason := none, gapFrom := 0, stoppedSince := 0, pinA := false, pinB := false, pinSlow := true,
    edgeDue := none, counts := .zero }

/-- The reset route table of a chip (R439). -/
def Routes.reset (chip : Nat) : Routes :=
  { timeoutUs := 200, links := List.replicate 4 { enabled := false, wrap := false, neighbour := 0 },
    route := (List.range 16).map fun c => if c = chip then 0 else 0xFF, keys := 0 }

/-- Fabric counters of zero. -/
def FabricCounts.zero : FabricCounts :=
  { injected := 0, dataInjected := 0, keyRefused := 0, keyRefusedRx := 0, nacks := 0, noRoute := 0, malformed := 0,
    expired := 0, discarded := 0, quiesced := 0, calWaits := 0, windowWaits := 0, tagWaits := 0, stalls := 0, slips := 0,
    highest := 0 }

/-- The fabric after reset (R439). -/
def Fabric.reset (chip : Nat) : Fabric :=
  { versions := [.reset chip, .reset chip], epoch := 0, switch := none, packets := [], nextPacket := 0, outgoing := [],
    reqs := [], tagHold := [], lastInput := [], controlRun := [], waits := [], congestion := [], latched := [], counts := .zero }

/-- P-link counters of zero. -/
def LinkCounts.zero : LinkCounts :=
  { fecCorrected := 0, fecLost := 0, framesSent := 0, framesDelivered := 0, badFrames := 0, naks := 0, attempts := 0,
    downs := 0, trainFails := 0, confirms := 0, ticksIgnored := 0, abortsForwarded := 0, abortRepeats := 0,
    highestReplay := 0, recalJoined := 0, badBlocks := 0, downDiscards := 0,
    abortsIdle := 0 }

/-- A P-link port after reset (R464). -/
def PLink.reset : PLink :=
  { state := .disabled, since := 0, tenantOk := false, neighbour := 0, delay := 0, failedOnce := false, retryAt := none,
    txSeq := 0, rxExpected := 0, replay := [], credits := [129, 129, 129, 129], returns := [0, 0, 0, 0], failed := 0,
    attempting := none, progressAt := 0, lastRx := 0, lastTx := 0, lastNak := none, sinceCtl := 0, recal := none,
    lastStc := 0, counts := .zero }

/-- Egress after reset. -/
def Egress.reset : Egress := { rings := [], carafeNext := [0, 0, 0, 0], queue := [], lastTenant := 3 }

/-- Power and heat after reset (R589, R598). -/
def Power.reset : Power :=
  { state := .active, pending := none, job := none, sensors := List.replicate 8 400, hottest := none, level := 0,
    evaluated := 0, tmax := 400, highest := 400, skippedWindows := 0, decafEntries := 0, loftScrub := 0,
    loftPromoted := 0, dramScrub := 0, dramPromoted := 0, passes := 0, slots := 0 }

/-- Tally after reset. -/
def Tally.reset : Tally :=
  { state := .stopped, config := none, configSeq := 0, pos := 0, fifo := [], ringTaken := 0, portTaken := 0,
    portTime := 0, lastTime := 0, lastRow := [], syncPos := 0, dropsTotal := 0, episode := none, ringPos := 0, lastWrite := none,
    emitted := 0, dropped := 0, episodes := 0, ringBytes := 0, portBytes := 0, ringLost := 0, highest := 0 }

/-- Fuses as the model presumes them (assumption log 6). -/
def Part.reset : Part := { grade := .ilh2400, serial := 0, keyHash := 0, rollback := 0 }

/-- Pins right after PERST_N has been released with straps unconnected (R655; assumption log 5). -/
def Pins.reset : Pins :=
  { pwrgdAon := true, pwrgdCore := true, pwrgdIo := true, vddIo18 := true, perstN := true,
    bootSel := 0, pcieWidth := false, thermtrip := false, jtag := .bypass, jtagData := none }

/-- The boot configuration before any package has booted (assumption log 6). -/
def BootConfig.reset : BootConfig :=
  { chip := 0, devices := 1, ringX := 1, ringY := 1, hSys := 0, autoReroute := false, links := 0, dramRate := 2,
    dramGib := 4 }

/-- The device ID of a grade (R3). -/
def Grade.deviceId : Grade → BitVec 16
  | .ilh2400 => 0x2400
  | .ilh2400x => 0x2401

/-- The boot process when the boot ROM starts (R635). -/
def Boot.reset : Boot :=
  { romRunning := true, endpointReady := false, selfTested := false, dramTrained := false, dramFailed := false,
    installedGib := 0,
    started := false, candidates := [0, 1], waitHost := false, waitPlink := false, slots := [none, none],
    bootedFrom := none, package := [], config := .reset, subsysVendor := 0x1CE1, subsysId := 0x2400, badRows := [],
    subsysFixed := false }

/-- Acrega when the boot ROM starts (Table 3.8). -/
def Firmware.reset : Firmware :=
  { state := .booting, restarts := 0, version := 0, imageVersion := 0, unrequested := [], restartDue := false,
    resetDue := false, restartSince := none, crashed := false, wasReady := false }

/-- The device right after reset: power is good, PERST_N has just been released, the boot ROM has started. The contents of
both memories are undefined (Table 19.2): they are the free values of draws 0 and 1. The manual gives the memories of the NE
cores no reset contents: they are those of draws 2 to 33. -/
def State.reset : State :=
  { now := 0, pending := [], out := [], draws := 34, part := .reset, pins := .reset, boot := .reset, fw := .reset,
    linkUp := true, fns := List.replicate 4 .reset, arb := .reset, cmds := [], fetchSeq := 0, lastAccept := none,
    moves := [], flash := none, alertStatus := 0, alertMask := 0, contracts := (List.range 4).map Contract.reset,
    deferred := [], tick := .reset, drover := .reset,
    loft := { Loft.reset with mem := { cells := [], undef := [{ base := 0, len := 402653184, stamp := 0 }] } },
    dram := { Dram.reset with mem := { cells := [], undef := [{ base := 0x1000000000, len := 34359738368, stamp := 1 }] } },
    ports := List.replicate 8 .reset, ctxs := List.replicate 32 .reset, lanes := List.replicate 8 .reset,
    fsync := List.replicate 8 .reset, i2c := List.replicate 8 .reset, halters := [.reset, .reset],
    fabric := .reset 0, links := List.replicate 4 .reset, aborts := [], reroute := none, egress := .reset,
    power := .reset, tally := .reset, debug := [] }

end Sys2Proof.Machine
end

