-- ==== Sys2Proof/Machine/Ops.lean ====
section
/-!
DEFINITION. The shared operations over the state: time, indexed access, outputs, alerts, events, completions.
-/
namespace Sys2Proof.Machine

/-! ### Time -/

/-- Device time comes to the instant of a command; it never runs back (R22; assumption log 1). -/
def advance (t : Instant) (s : State) : State := { s with now := max s.now t }

/-- Every power-good input is high, PERST_N is high and no sensor has tripped: clocks run (R601, R623, R626). -/
def State.alive (s : State) : Bool :=
  s.pins.pwrgdAon && s.pins.pwrgdCore && s.pins.pwrgdIo && s.pins.perstN && !s.pins.thermtrip

/-- The effect of an event that needs running clocks: nothing but the passing of time without them. -/
def event (t : Instant) (f : State → State) (s : State) : Host.Outcome State Fault Refusal :=
  if (advance t s).alive then .next (f (advance t s)) else .next (advance t s)

/-- A tick of the device's own timer is due: of what happens in its nanosecond it comes first (R70). -/
def State.tickDue (s : State) (now : Instant) : Bool := s.tick.due.any fun d => decide (d ≤ now)

/-- The tick that is due opens a window (R56 to R66). -/
def Tick.dueOpens (t : Tick) : Bool :=
  match t.due with
  | none => false
  | some d =>
    let pauseDue := t.pause.any fun p => decide (p ≤ d)
    (if t.state = .paused then t.resume.any (fun r => decide (r ≤ d)) && !pauseDue else !(t.haltPending || pauseDue)) &&
      match t.switch with
      | none => true
      | some sw =>
        match sw.tk, sw.qualified, sw.source with
        | none, some q, .tickIn => decide (sw.anchor = some d) && decide (q ≠ d)
        | none, some _, .plink => false
        | _, _, _ => true

/-- The TICKNO that a sample taken now carries: one taken as a window opens has the new one (R24). -/
def State.ticknoNow (s : State) : BitVec 32 :=
  if s.tickDue s.now && s.tick.dueOpens then s.tick.tickno + 1 else s.tick.tickno

/-- A fresh free value's index; the counter advances (assumption log 7). -/
def drawn (s : State) : State := { s with draws := s.draws + 1 }

/-! ### Indexed parts of the state -/

def State.fn (s : State) (i : Nat) : Func := s.fns.getD i .reset
def State.modFn (s : State) (i : Nat) (f : Func → Func) : State := { s with fns := lmod s.fns i f }
def State.ring (s : State) (f r : Nat) : Option Ring := tget (s.fn f).rings r
def State.modRing (s : State) (f r : Nat) (g : Ring → Ring) : State :=
  s.modFn f fun x => { x with rings := tmod x.rings r g }
def State.port (s : State) (i : Nat) : CamPort := s.ports.getD i .reset
def State.modPort (s : State) (i : Nat) (f : CamPort → CamPort) : State := { s with ports := lmod s.ports i f }
def State.ctx (s : State) (i : Nat) : Ctx := s.ctxs.getD i .reset
def State.modCtx (s : State) (i : Nat) (f : Ctx → Ctx) : State := { s with ctxs := lmod s.ctxs i f }
def State.lane (s : State) (i : Nat) : Lane := s.lanes.getD i .reset
def State.modLane (s : State) (i : Nat) (f : Lane → Lane) : State := { s with lanes := lmod s.lanes i f }
def State.fsyncOut (s : State) (i : Nat) : Fsync := s.fsync.getD i .reset
def State.modFsync (s : State) (i : Nat) (f : Fsync → Fsync) : State := { s with fsync := lmod s.fsync i f }
def State.i2cCtl (s : State) (i : Nat) : I2c := s.i2c.getD i .reset
def State.modI2c (s : State) (i : Nat) (f : I2c → I2c) : State := { s with i2c := lmod s.i2c i f }
def State.halter (s : State) (u : Nat) : Halter := s.halters.getD u .reset
def State.modHalter (s : State) (u : Nat) (f : Halter → Halter) : State := { s with halters := lmod s.halters u f }
def State.plink (s : State) (p : Nat) : PLink := s.links.getD p .reset
def State.modLink (s : State) (p : Nat) (f : PLink → PLink) : State := { s with links := lmod s.links p f }
def State.contract (s : State) (n : Nat) : Contract := s.contracts.getD n (.reset n)
def State.modTick (s : State) (f : Tick → Tick) : State := { s with tick := f s.tick }
def State.modDrover (s : State) (f : Drover → Drover) : State := { s with drover := f s.drover }
def State.modLoft (s : State) (f : Loft → Loft) : State := { s with loft := f s.loft }
def State.modDram (s : State) (f : Dram → Dram) : State := { s with dram := f s.dram }
def State.modFabric (s : State) (f : Fabric → Fabric) : State := { s with fabric := f s.fabric }
def State.modEgress (s : State) (f : Egress → Egress) : State := { s with egress := f s.egress }
def State.modPower (s : State) (f : Power → Power) : State := { s with power := f s.power }
def State.graph (s : State) (g : Nat) : Option Graph := tget s.drover.graphs g
def State.modGraph (s : State) (g : Nat) (f : Graph → Graph) : State :=
  s.modDrover fun d => { d with graphs := tmod d.graphs g f }
def State.inst (s : State) (g : Nat) : Option Inst := tget s.drover.insts g
def State.modInst (s : State) (g : Nat) (f : Inst → Inst) : State :=
  s.modDrover fun d => { d with insts := tmod d.insts g f }
def State.tether (s : State) (n : Nat) : Tether := s.drover.tethers.getD n .reset
def State.modTether (s : State) (n : Nat) (f : Tether → Tether) : State :=
  s.modDrover fun d => { d with tethers := lmod d.tethers n f }

/-- The key of a graph slot in the tables of graphs and instances. -/
def graphKey (tenant slot : Nat) : Nat := 64 * tenant + slot

/-- The key of a graph reference. -/
def refKey (g : GraphRef) : Nat := graphKey g.tenant g.slot

/-! ### Outputs -/

/-- The device sends something now. -/
def emit (o : Output) (s : State) : State := { s with out := s.out ++ [{ time := s.now, out := o }] }

/-- A function may issue memory requests: Bus Master Enable is set and the link is up (R78, R549). -/
def State.mayRequest (s : State) (f : Nat) : Bool := (s.fn f).busMaster && s.linkUp

/-- Max_Payload_Size of a function: what its Device Control register gives, up to 512 B (R74). -/
def State.maxPayload (s : State) (f : Nat) : Nat := min 512 (128 * 2 ^ bits (s.fn f).cfg.deviceControl.toNat 7 5)

/-- Max_Read_Request_Size of a function, up to 4,096 B (R74). -/
def State.maxRead (s : State) (f : Nat) : Nat := min 4096 (128 * 2 ^ bits (s.fn f).cfg.deviceControl.toNat 14 12)

/-- A memory write on a function's behalf, in requests of at most its Max_Payload_Size (R74). -/
def emitWrite (f : Nat) (addr : BitVec 64) (data : List Byte) (poisoned : Bool) (s : State) : State :=
  let n := s.maxPayload f
  { s with out := s.out ++ (List.range (ceilDiv data.length n)).map fun k =>
      { time := s.now, out := .hostWrite f (addr + BitVec.ofNat 64 (n * k)) ((data.drop (n * k)).take n) poisoned } }

/-- A host buffer is read on a function's behalf, in requests of at most its Max_Read_Request_Size (R74, R142). -/
def emitRead (f : Nat) (addr : BitVec 64) (len : Nat) (s : State) : State :=
  let n := s.maxRead f
  { s with out := s.out ++ (List.range (ceilDiv len n)).map fun k =>
      { time := s.now, out := .hostRead f (addr + BitVec.ofNat 64 (n * k)) (min n (len - n * k)) } }

/-- A memory write on a function's behalf, held while the function may issue no request (R78). -/
def hostWriteEp (f : Nat) (addr : BitVec 64) (data : List Byte) (poisoned : Bool) (s : State) : State :=
  if s.mayRequest f then emitWrite f addr data poisoned s
  else s.modFn f fun x => { x with held := x.held ++ [.write addr data poisoned] }

/-- A memory write without poison. -/
def hostWrite (f : Nat) (addr : BitVec 64) (data : List Byte) (s : State) : State := hostWriteEp f addr data false s

/-- The message of a vector: held in the PBA while masked (R125), sent otherwise, or held while the function may issue
no request. -/
def sendVector (f v : Nat) (s : State) : State :=
  if ((s.fn f).msix.getD v .reset).masked then
    s.modFn f fun x => { x with msix := lmod x.msix v fun m => { m with pending := true } }
  else if s.mayRequest f then emit (.msix f v) s
  else s.modFn f fun x => { x with held := x.held ++ [.message v] }

/-- INT_CAUSE bits set on their events whether or not a vector is masked (R125). -/
def setCause (f : Nat) (mask : BitVec 6) (s : State) : State :=
  s.modFn f fun x => { x with intCause := x.intCause ||| mask }

/-! ### ALERT_N -/

/-- ALERT_N is driven low exactly while (ALERT_STATUS AND NOT ALERT_MASK) is nonzero (R126). -/
def State.alertLow (s : State) : Bool := s.alertStatus &&& ~~~s.alertMask != 0

/-- New alert registers; the pin follows them (R126). -/
def setAlerts (status mask : BitVec 6) (s : State) : State :=
  let s' := { s with alertStatus := status, alertMask := mask }
  if s'.alertLow = s.alertLow then s' else emit (.pin .alertN (!s'.alertLow)) s'

/-- Bits of ALERT_STATUS (Table 3.8). -/
def alertFwDown : BitVec 6 := 1
def alertTickLost : BitVec 6 := 2
def alertThermal : BitVec 6 := 4
def alertMem : BitVec 6 := 8
def alertPlink : BitVec 6 := 16
def alertPcie : BitVec 6 := 32

/-- A condition of ALERT_STATUS arises (R127). -/
def raiseAlert (bit : BitVec 6) (s : State) : State := setAlerts (s.alertStatus ||| bit) s.alertMask s

/-! ### Completion queues -/

/-- The depth a log code gives (Table 3.8). -/
def depth (log : Nat) : Nat := 2 ^ (log + 4)

/-- CQ entries written and not yet released. -/
def Ring.unreleased (r : Ring) : Nat := (r.cqTail + depth r.cqLog - r.cqHead) % depth r.cqLog

/-- CQ slots that are neither written nor reserved: at most depth − 1 entries are kept (R89). -/
def Ring.free (r : Ring) : Nat := depth r.cqLog - 1 - r.unreleased - r.reserved

/-- Entries the device may still fetch (R84). -/
def Ring.unfetched (r : Ring) : Nat := (r.sqTail + depth r.sqLog - r.sqHead) % depth r.sqLog

/-- The 32 B entry of a completion (Table 3.4). -/
def Completion.entry (c : Completion) (phase : Bool) : BitVec 256 :=
  BitVec.ofNat 256 (leNat (le 2 c.cmdId.toNat ++ le 2 c.ring ++ le 2 c.sqHead ++ le 2 c.status.code ++
    le 8 c.time ++ le 4 c.tickno.toNat ++ le 8 c.result.toNat ++ le 2 0 ++ le 2 (b2n phase)))

/-- The 32 B entry of an event (Table 3.4). -/
def Event.entry (e : Event) (phase : Bool) : BitVec 256 :=
  BitVec.ofNat 256 (leNat (le 2 0xFFFF ++ le 2 e.cls ++ le 2 e.cause ++ le 2 Status.event.code ++
    le 8 e.time ++ le 4 e.tickno.toNat ++ le 8 e.detail.toNat ++ le 2 e.scope.toNat ++ le 2 (b2n phase + 2)))

/-- One entry written at a ring's CQ tail, whose phase inverts at each lap (R88, R89). -/
def writeCq (f r : Nat) (entry : Bool → BitVec 256) (s : State) : State :=
  match s.ring f r with
  | none => s
  | some g =>
    let last := g.cqTail + 1 = depth g.cqLog
    (emit (.cqEntry f r (g.cqBase + BitVec.ofNat 64 (32 * g.cqTail)) (entry g.phase)) s).modRing f r fun g =>
      { g with cqTail := if last then 0 else g.cqTail + 1, phase := if last then !g.phase else g.phase }

/-- An unsignalled entry of a CQ: the message goes out at CQ_COUNT entries or when CQ_TIME is 0 (R124). -/
def signalCq (f r : Nat) (s : State) : State :=
  match s.ring f r with
  | none => s
  | some g =>
    if g.cqCount ≤ g.unsignalled + 1 ∨ g.cqTimeUs = 0 then
      sendVector f g.vector (s.modRing f r fun g => { g with unsignalled := 0, oldest := none })
    else s.modRing f r fun g =>
      { g with unsignalled := g.unsignalled + 1, oldest := some (g.oldest.getD s.now) }

/-- A completion written to its CQ, using the slot reserved for it, and signalled after it (R90, R108). -/
def writeCompletion (f r : Nat) (c : Completion) (s : State) : State :=
  signalCq f r (setCause f (if r = 0 then 1 else 2)
    ((writeCq f r c.entry s).modRing f r fun g => { g with reserved := g.reserved - 1 }))

/-- The completion of the command with a fetch number, written, or held while the function may issue no request (R78). -/
def complete (f r seq : Nat) (c : Completion) (s : State) : State :=
  if s.mayRequest f then writeCompletion f r c s
  else s.modFn f fun x => { x with held := x.held ++ [.completion seq r c] }

/-! ### Events -/

/-- Events of a function can be written now: its admin ring is READY, it may issue requests, and no restart is
in progress (R78, R122, R129). -/
def State.eventsFlow (s : State) (f : Nat) : Bool :=
  s.mayRequest f && (s.fn f).ready && decide (s.fw.state ≠ .restarting) &&
    (match s.ring f 0 with | some g => decide (0 < g.free) && !g.closing | none => false)

/-- One event written to the admin CQ, with its cause bits and vector 0 (R123, R124). -/
def writeEvent (f : Nat) (e : Event) (s : State) : State :=
  sendVector f 0 (setCause f 0b001001 (writeCq f 0 e.entry s))

/-- The EVENTS_LOST event (Table 3.6). -/
def lostEvent (s : State) (n : Nat) : Event :=
  { cls := 0x000A, cause := 1, time := s.now, tickno := s.ticknoNow, detail := BitVec.ofNat 64 (n % 2 ^ 32), scope := 0 }

/-- Waiting events go out as slots allow, an EVENTS_LOST event ahead of the backlog (R122). -/
def flushEvents (f : Nat) : Nat → State → State
  | 0, s => s
  | n + 1, s =>
    if s.eventsFlow f then
      if 0 < (s.fn f).dropped then
        flushEvents f n (writeEvent f { lostEvent s (s.fn f).dropped with scope := BitVec.ofNat 16 f }
          (s.modFn f fun x => { x with dropped := 0 }))
      else
        match (s.fn f).backlog with
        | [] => s
        | e :: l => flushEvents f n (writeEvent f e (s.modFn f fun x => { x with backlog := l }))
    else s

/-- An event for one function: into the backlog, behind what waits there, from where it goes out at once if a slot is free;
dropped and counted if the backlog of 64 is full (R119, R122). -/
def postOn (f : Nat) (e : Event) (s : State) : State :=
  let s := flushEvents f 66 s
  if 64 ≤ (s.fn f).backlog.length then
    s.modFn f fun x => { x with dropped := x.dropped + 1, eventsLost := x.eventsLost + 1 }
  else flushEvents f 66 (s.modFn f fun x => { x with backlog := x.backlog ++ [e] })

/-- A tenant-scoped event (R119). -/
def postTenant (tenant cls cause : Nat) (detail : BitVec 64) (s : State) : State :=
  postOn tenant { cls := cls, cause := cause, time := s.now, tickno := s.ticknoNow, detail := detail,
                  scope := BitVec.ofNat 16 tenant } s

/-- A device-wide event, on the admin CQ of every function whose ADMIN_STATUS.READY is 1 (R119). -/
def postAll (cls cause : Nat) (detail : BitVec 64) (s : State) : State :=
  let e : Event := { cls := cls, cause := cause, time := s.now, tickno := s.ticknoNow, detail := detail,
                     scope := 0x8000 }
  [0, 1, 2, 3].foldl (fun s f => if (s.fn f).ready then postOn f e s else s) s

/-- An event for a tenant if one is named, else device-wide. -/
def postTo (tenant : Option Nat) (cls cause : Nat) (detail : BitVec 64) (s : State) : State :=
  match tenant with
  | some n => postTenant n cls cause detail s
  | none => postAll cls cause detail s

/-- DETAIL from fields placed at bit positions. -/
def detail (l : List (Nat × Nat)) : BitVec 64 := BitVec.ofNat 64 (l.foldl (fun acc p => acc + p.2 * 2 ^ p.1) 0)

/-- Event classes (Table 3.6). -/
def clsTick : Nat := 1
def clsGraph : Nat := 2
def clsCamera : Nat := 3
def clsMemory : Nat := 4
def clsLink : Nat := 5
def clsPower : Nat := 6
def clsHalter : Nat := 7
def clsFirmware : Nat := 8
def clsRing : Nat := 9

/-! ### Ring errors -/

/-- A RING event with the index of the ring concerned (R96). -/
def postRing (f r : Nat) (c : RingCause) (s : State) : State :=
  postTenant f clsRing c.code (BitVec.ofNat 64 r) s

/-- A ring enters ERROR with its cause, stops being fetched, sends vector 0, and posts a RING event unless it is ring 0 (R96,
R123). A ring already in ERROR takes the later cause and no more (Table 3.8; assumption log 75). -/
def ringError (f r : Nat) (c : RingCause) (s : State) : State :=
  match s.ring f r with
  | none => s
  | some g =>
    let s := s.modRing f r fun g => { g with error := true, cause := c }
    let s := if r = 0 then s.modFn f fun x => { x with error := true, cause := c } else s
    if g.error then s
    else
      let s := sendVector f 0 (setCause f 0b010000 s)
      if r = 0 then s else postRing f r c s

/-! ### Commands in flight -/

/-- A command completes: it leaves the table of commands, and its CQ entry is written unless its ring is gone or is
being reset or deleted (R77, R157). -/
def finish (seq : Nat) (st : Status) (result : BitVec 64) (s : State) : State :=
  match tget s.cmds seq with
  | none => s
  | some c =>
    let s := { s with cmds := tdel s.cmds seq }
    if c.muted || (match s.ring c.fn c.ring with | some g => g.stop.isSome | none => true) then s
    else
      let a := match c.phase with
        | .accepted t n => (t, n)
        | _ => (s.now, s.ticknoNow)
      complete c.fn c.ring seq
        { cmdId := BitVec.ofNat 16 (efld c.entry 4 2), ring := c.ring, sqHead := c.sqHead, status := st, time := a.1,
          tickno := a.2, result := if st = .ok ∨ st = .deferred then result else 0 } s

end Sys2Proof.Machine
end

