-- ==== Sys2Proof/Machine/Trace.lean ====
section
/-!
DEFINITION. The Tally stream (18): packets, synchronisation points, the FIFO and the trace port.
-/
namespace Sys2Proof.Machine

def State.modTally (s : State) (f : Tally → Tally) : State := { s with tally := f s.tally }

/-- FIFO capacity in bytes. -/
def tallyFifo : Nat := 65536

/-- Unsigned LEB128 (R613), at most ten bytes. -/
def varint : Nat → Nat → List Byte
  | 0, _ => []
  | n + 1, v => if v < 128 then [BitVec.ofNat 8 v] else BitVec.ofNat 8 (v % 128 + 128) :: varint n (v / 128)

/-- Zigzag code of a signed 64-bit value (R613). -/
def zigzag (d : Int) : Nat := if 0 ≤ d then (2 * d).toNat else (-2 * d - 1).toNat

/-- Bytes every selected sink has taken leave the FIFO (R618). In FULL only the trace port receives the stream
(R612). -/
def Tally.free (t : Tally) : Tally :=
  match t.config with
  | none => t
  | some c =>
    let ring := c.ring && decide (t.state ≠ .full)
    let k := if ring && c.port then min t.ringTaken t.portTaken else if ring then t.ringTaken else if c.port then t.portTaken else 0
    { t with fifo := t.fifo.drop k, ringTaken := t.ringTaken - k, portTaken := t.portTaken - k }

/-- The trace port sends one byte every 5 ns while it has bytes to send (R618). -/
def tracePort (s : State) : State :=
  match s.tally.config with
  | some c =>
    if c.port then
      let n := min ((s.now - s.tally.portTime) / 5) (s.tally.fifo.length - s.tally.portTaken)
      let sent := (s.tally.fifo.drop s.tally.portTaken).take n
      let s' := s.modTally fun t =>
        ({ t with portTaken := t.portTaken + n, portBytes := t.portBytes + n, portTime := t.portTime + 5 * ((s.now - t.portTime) / 5) } : Tally).free
      if n = 0 then s' else emit (.trace sent) s'
    else s
  | none => s

/-- A packet joins the stream, or is dropped and counted when it does not fit whole or an overflow episode is in
progress (R619). -/
def tallyBytes (d : List Byte) (s : State) : State :=
  let t := s.tally
  match t.episode with
  | some n => s.modTally fun t => { t with episode := some (n + 1), dropped := t.dropped + 1,
                                           dropsTotal := min 0xFFFFFFFF (t.dropsTotal + 1) }
  | none =>
    if t.fifo.length + d.length ≤ tallyFifo then
      s.modTally fun t =>
        { t with fifo := t.fifo ++ d, pos := t.pos + d.length, emitted := t.emitted + 1,
                 highest := max t.highest (t.fifo.length + d.length) }
    else s.modTally fun t => { t with episode := some 1, dropped := t.dropped + 1, episodes := t.episodes + 1,
                                      dropsTotal := min 0xFFFFFFFF (t.dropsTotal + 1) }

/-- PAD bytes up to the next multiple of 512 of a stream position (R616). -/
def tallyPad (pos : Nat) : List Byte := List.replicate ((512 - pos % 512) % 512) 0

/-- A SYNC on the next 512 B boundary, with absolute values; it resets every delta (R613, R616). -/
def tallySync (s : State) : State :=
  let t := s.tally
  let pad := tallyPad t.pos
  let at_ := t.pos + pad.length
  let d := pad ++ [0x10, 0x54, 0x4C, 0x59] ++ le 4 s.tick.tickno.toNat ++ le 8 s.now ++ le 8 at_ ++ le 4 t.dropsTotal ++
    le 4 t.configSeq
  let s' := tallyBytes d s
  if s'.tally.pos = t.pos then s'
  else s'.modTally fun t => { t with lastTime := s.now, lastRow := [], syncPos := at_ }

/-- A packet that carries a time: a SYNC first where it would begin 8,192 B or more after the previous one (R616), then
the bytes the packet has for its time delta (R614). -/
def tallyPacket (mk : Tally → Nat → List Byte) (s : State) : State :=
  let s := tracePort s
  let s := if s.tally.syncPos + 8192 ≤ s.tally.pos ∧ s.tally.episode = none then tallySync s else s
  let p := s.tally.pos
  let s' := tallyBytes (mk s.tally (s.now - s.tally.lastTime)) s
  if s'.tally.pos = p then s' else s'.modTally fun t => { t with lastTime := s.now }

/-- Tally captures: the trace runs, or it is FULL and the trace port still receives the stream (R612). -/
def Tally.capturing (t : Tally) : Bool :=
  match t.state with
  | .running => true
  | .full => match t.config with | some c => c.port | none => false
  | .stopped => false

/-- A Drover event of Table 18.3 (R608). -/
def tallyDrover (code tenant slot node arg : Nat) (s : State) : State :=
  match s.tally.config with
  | some c =>
    if s.tally.capturing && bit c.tenants tenant && bit c.events code then
      tallyPacket (fun _ dt => [BitVec.ofNat 8 (0x30 + code)] ++ varint 10 dt ++
        [BitVec.ofNat 8 (slot + 64 * tenant)] ++ le 2 node ++ [BitVec.ofNat 8 arg]) s
    else s
  | none => s

/-- Value bytes per row for a WIDTH code (Table 18.1). -/
def tallyWidth : Nat → Nat
  | 1 => 4 | 2 => 8 | 3 => 16 | 4 => 32 | 5 => 64 | _ => 0

/-- The source number of a client port, if Tally observes it (R604, Table 12.1). -/
def tallySource (router port : Nat) : Option Nat :=
  match router, port with
  | 4, 4 => some 0 | 4, 5 => some 2 | 4, 6 => some 4 | 4, 7 => some 6
  | 8, 4 => some 1 | 8, 5 => some 3 | 8, 6 => some 5 | 8, 7 => some 7
  | 7, 4 => some 8 | 11, 4 => some 9
  | 5, p => if 4 ≤ p then some (12 + p) else none
  | 6, p => if 4 ≤ p then some (16 + p) else none
  | 9, p => if 4 ≤ p then some (20 + p) else none
  | 10, p => if 4 ≤ p then some (24 + p) else none
  | _, _ => none

/-- The lowest-numbered filter that a request matches (R606). -/
def tallyMatch (c : TallyConfig) (src : Nat) (write : Bool) (addr rows key : Nat) : Option Nat :=
  (List.range 8).find? fun i =>
    match c.filters[i]? with
    | some f => f.enabled && bit f.sources src && (if write then f.writes else f.reads) &&
        overlap (addr, 512 * rows) (f.base, f.limit - f.base) && (!f.matchKey || decide (f.key = key))
    | none => false

/-- An ACCESS packet (Table 18.2): `values` is none for a request that failed. -/
def tallyAccess (src filter : Nat) (write : Bool) (addr rows : Nat) (flagged : Bool) (values : Option (List Byte))
    (s : State) : State :=
  match s.tally.config with
  | none => s
  | some c =>
    if !s.tally.capturing then s else
    match c.filters[filter]? with
    | none => s
    | some f =>
      let dram := decide (0x10_0000_0000 ≤ addr)
      let row := (if dram then addr - 0x10_0000_0000 else addr) / 512
      let w := tallyWidth f.width
      let vals := match values with
        | some d => (List.range rows).flatMap fun i => slice d (512 * i + f.offset) w
        | none => []
      let s' := tallyPacket (fun ta dt =>
        let last := (tget ta.lastRow (2 * src + b2n dram)).getD 0
        [BitVec.ofNat 8 (0x20 + 8 * b2n write + (rows - 1)), BitVec.ofNat 8 (src + 64 * b2n dram),
         BitVec.ofNat 8 (filter + 8 * b2n values.isNone + 16 * b2n flagged)] ++ varint 10 dt ++
        varint 10 (zigzag ((row : Int) - (last : Int))) ++ vals) s
      if s'.tally.episode.isSome then s'
      else s'.modTally fun t => { t with lastRow := tset t.lastRow (2 * src + b2n dram) row }

/-- An INGRESS packet (Table 18.2) for a fabric packet delivered by a P-link port (R608). -/
def tallyIngress (port : Nat) (h0 h1 : BitVec 64) (hasH1 : Bool) (key : Nat) (s : State) : State :=
  match s.tally.config with
  | some c =>
    if s.tally.capturing && bit c.plinkPorts port && (decide (c.plinkKey = 0) || decide (c.plinkKey = key)) then
      tallyPacket (fun _ dt => [BitVec.ofNat 8 (0x40 + port + 4 * b2n hasH1)] ++ varint 10 dt ++ le 8 h0.toNat ++
        (if hasH1 then le 8 h1.toNat else [])) s
    else s
  | none => s

end Sys2Proof.Machine
end

