-- ==== Sys2Proof/Machine/HalterOps.lean ====
section
/-!
DEFINITION. The verdict logic, pins and watchdog entries of the Halter units (11).
-/
namespace Sys2Proof.Machine

/-- The tenant whose contract in force holds a lease on unit HLTu (R401). -/
def halterTenant (s : State) (u : Nat) : Option Nat :=
  (List.range 4).find? fun n => (s.contract n).leases.any fun l => decide (l.unit = 0x30 + u)

/-- A HALTER event, to the tenant that leases the unit, else device-wide (R401, R419). -/
def postHalter (u cause : Nat) (fields : List (Nat × Nat)) (s : State) : State :=
  postTo (halterTenant s u) clsHalter cause (detail ((0, u) :: fields)) s

/-- One Halter pin driven to a level; only changes are seen outside. HALTER_SLOW is undriven without VDD_IO18 (R652). -/
def drivePins (u : Nat) (a b slow : Bool) (s : State) : State :=
  let h := s.halter u
  let s1 := if h.pinA = a then s else emit (.pin (.halterA u) a) s
  let s2 := if h.pinB = b then s1 else emit (.pin (.halterB u) b) s1
  let s3 := if h.pinSlow = slow ∨ s.pins.vddIo18 = false then s2 else emit (.pin (.halterSlow u) slow) s2
  s3.modHalter u fun h => { h with pinA := a, pinB := b, pinSlow := slow }

/-- STOP and DISABLED stop the heartbeat. -/
def HalterState.dark : HalterState → Bool
  | .stop | .disabled => true
  | _ => false

/-- The unit takes a state, and its pins and time count follow it (R413 to R415, Table 11.5 byte 72). -/
def setHalterState (u : Nat) (st : HalterState) (s : State) : State :=
  let h := s.halter u
  let s := s.modHalter u fun h =>
    { h with state := st,
             stoppedSince := if st.dark && !h.state.dark then s.now else h.stoppedSince,
             edgeDue := if st.dark then none else if h.state.dark then some s.now else h.edgeDue,
             counts := if h.state.dark && !st.dark then
               { h.counts with stoppedNs := h.counts.stoppedNs + (s.now - h.stoppedSince) } else h.counts }
  if st.dark then drivePins u false false true s
  else if h.state.dark then drivePins u true false (decide (st = .slow))
    (s.modHalter u fun h => { h with edgeDue := some (s.now + 50000) })
  else drivePins u h.pinA h.pinB (decide (st = .slow)) s

/-- enter_stop (R411): in every state except DISABLED; one STOP_ENTER per transition (R417, R419). -/
def enterStop (u : Nat) (reason : StopReason) (volume : Option Nat) (s : State) : State :=
  let h := s.halter u
  if h.config.isNone ∨ (h.state = .disabled ∧ reason ≠ .startup) then s
  else
    let s := s.modHalter u fun h => { h with clearFrames := 0, awaitAck := none }
    if h.state = .stop then s
    else
      let s := s.modHalter u fun h =>
        { h with reason := some reason, gapFrom := s.now,
                 counts := { h.counts with
                   stops := h.counts.stops + 1, stopsOther := h.counts.stopsOther + b2n (decide (2 ≤ reason.code)) } }
      postHalter u 1 [(4, volume.getD 0xF), (8, reason.code)] (setHalterState u .stop s)

/-- A configuration field of the record in force. -/
def hcfg (h : Halter) (off n : Nat) : Nat := fld (h.config.getD []) off n

/-- The bytes of volume v of a record (Table 11.2). -/
def volume (record : List Byte) (v : Nat) : List Byte := slice record (64 + 40 * v) 40

/-- An enabled volume. -/
def volOn (record : List Byte) (v : Nat) : Bool := bit (fld (volume record v) 0 1) 0

/-- A SLOW volume (kind bit 1). -/
def volSlow (record : List Byte) (v : Nat) : Bool := bit (fld (volume record v) 0 1) 1

/-- The pair a volume watches. -/
def volPair (record : List Byte) (v : Nat) : Nat := fld (volume record v) 1 1

/-- The watched pairs: PAIR of every enabled volume (R405). -/
def watched (record : List Byte) : List Nat :=
  (List.range 4).filter fun p => (List.range 16).any fun v => volOn record v && decide (volPair record v = p)

/-- Some volume of a kind has triggered in this window. -/
def anyTriggered (h : Halter) (slow : Bool) : Bool :=
  (List.range 16).any fun v => h.triggered.getD v false && (volSlow (h.config.getD []) v == slow)

/-- The lowest-numbered triggered SLOW volume. -/
def lowestSlow (h : Halter) : Nat :=
  ((List.range 16).find? fun v => h.triggered.getD v false && volSlow (h.config.getD []) v).getD 0xF

/-- Enter SLOW from CLEAR or from STOP; counted and posted (R411, R419). -/
def slowEntered (u v : Nat) (s : State) : State :=
  postHalter u 3 [(4, v)] (s.modHalter u fun h => { h with counts := { h.counts with slows := h.counts.slows + 1 } })

/-- leave_stop (R411, R419). -/
def leaveStop (u : Nat) (byAck : Bool) (s : State) : State :=
  let h := s.halter u
  let slow := anyTriggered h true
  let s := s.modHalter u fun h => { h with awaitAck := none }
  let s := postHalter u 2 [(1, b2n byAck)] (setHalterState u (if slow then .slow else .clear) s)
  if slow then slowEntered u (lowestSlow h) s else s

/-- The unit enters DISABLED (R403, R404, R594). -/
def disableHalter (u : Nat) (leaseLost : Bool) (s : State) : State :=
  if (s.halter u).state = .disabled then s
  else postHalter u 6 [(1, b2n leaseLost)]
    (setHalterState u .disabled (s.modHalter u fun h => { h with awaitAck := none }))

/-- Whether one clip of a volume holds at a point (R408): A × x + B × y + C × D + E ≥ 0. -/
def clipHolds (v : List Byte) (k x y d : Nat) : Bool :=
  let o := 20 + 10 * k
  decide (0 ≤ sext 16 (fld v o 2) * x + sext 16 (fld v (o + 2) 2) * y + sext 16 (fld v (o + 4) 2) * d +
    sext 32 (fld v (o + 6) 4))

/-- The counts one pixel adds to a volume: points and unknowns, and whether it falls in the volume at all (R408). -/
def pixelIn (v : List Byte) (minConf x y d c : Nat) : Nat × Nat × Bool :=
  if fld v 6 2 ≤ x ∧ x ≤ fld v 8 2 ∧ fld v 10 2 ≤ y ∧ y ≤ fld v 12 2 then
    if d = 0xFFFF ∨ c < minConf then (0, 1, true)
    else if fld v 14 2 ≤ d ∧ d ≤ fld v 16 2 ∧ (bit (fld v 0 1) 2 = true → clipHolds v 0 x y d = true) ∧
        (bit (fld v 0 1) 3 = true → clipHolds v 1 x y d = true) then (1, 0, true)
    else (0, 0, true)
  else (0, 0, false)

/-- The counts a tile adds to a volume (R408, R409). -/
def tileIn (v : List Byte) (minConf tx ty edge : Nat) (disp : List (BitVec 16)) (conf : List Byte) : Nat × Nat :=
  let r := (List.range 2048).foldl (fun (acc : Nat × Nat × Bool) k =>
    let q := pixelIn v minConf (64 * tx + k % 64) (32 * ty + k / 64) (disp.getD k 0xFFFF).toNat (conf.getD k 0).toNat
    (acc.1 + q.1, acc.2.1 + q.2.1, acc.2.2 || q.2.2)) (0, 0, false)
  (r.1, r.2.1 + (if r.2.2 then edge else 0))

/-- Whether a volume triggers at given counts, and by points (R410, R417). -/
def triggers (v : List Byte) (pts unk : Nat) : Option StopReason :=
  if fld v 2 2 ≤ pts then some .points
  else if fld v 4 2 ≠ 0xFFFF ∧ fld v 4 2 < unk then some .unknown else none

/-- The counts of one volume after a tile, and whether it newly triggered (R408 to R410). -/
def countVolume (u : Nat) (pair tx ty edge : Nat) (disp : List (BitVec 16)) (conf : List Byte) (k : Nat) (s : State) :
    State :=
  let h := s.halter u
  let rec_ := h.config.getD []
  let v := volume rec_ k
  if volOn rec_ k && decide (volPair rec_ k = pair) then
    let q := tileIn v (fld rec_ 6 1) tx ty edge disp conf
    let pts := h.pts.getD k 0 + q.1
    let unk := h.unk.getD k 0 + q.2
    let s := s.modHalter u fun h => { h with pts := h.pts.set k pts, unk := h.unk.set k unk }
    match triggers v pts unk with
    | some _ => if h.triggered.getD k false then s
        else s.modHalter u fun h => { h with triggered := h.triggered.set k true }
    | none => s
  else s

/-- A newly triggered volume acts: a STOP volume stops the unit, a SLOW volume slows a CLEAR one (R411). -/
def actTrigger (u : Nat) (wasStop : Bool) (k : Nat) (s : State) : State :=
  let h := s.halter u
  let s := if wasStop then s.modHalter u fun h =>
      { h with counts := { h.counts with whileStopped := h.counts.whileStopped + 1 } } else s
  if volSlow (h.config.getD []) k then
    if h.state = .clear then slowEntered u k (setHalterState u .slow s) else s
  else enterStop u ((triggers (volume (h.config.getD []) k) (h.pts.getD k 0) (h.unk.getD k 0)).getD .points) (some k) s

/-- A frame is complete (R407, R411). -/
def frameComplete (u : Nat) (s : State) : State :=
  let s := s.modHalter u fun h =>
    { h with frameDone := true, gapFrom := s.now, counts := { h.counts with complete := h.counts.complete + 1 } }
  let h := s.halter u
  if anyTriggered h false then s.modHalter u fun h => { h with clearFrames := 0 }
  else
    let s := s.modHalter u fun h =>
      { h with clearFrames := h.clearFrames + 1, counts := { h.counts with clear := h.counts.clear + 1 } }
    let h := s.halter u
    if h.state = .stop ∧ hcfg h 20 1 ≤ h.clearFrames then
      if hcfg h 7 1 = 0 then leaveStop u false s
      else if h.awaitAck.isSome then s else s.modHalter u fun h => { h with awaitAck := some s.now }
    else if h.state = .slow ∧ anyTriggered h true = false then postHalter u 4 [] (setHalterState u .clear s)
    else s

/-- A tile breaks the raster sequence of its pair, or carries another TICKNO (R406). -/
def tileBreaks (s : State) (p : Pair) (tickno ty tx : Nat) : Bool :=
  decide (tickno ≠ s.tick.tickno.toNat) || p.done ||
    (match p.last with | some (y, x) => decide (ty < y) || (decide (ty = y) && decide (tx ≤ x)) | none => false)

/-- The delays of a tile's verdict and of its pins, which the bounds of R412 leave open within 2 µs and 3 µs, enter the
largest ones (Table 11.5). -/
def timeTile (u : Nat) (s : State) : State :=
  drawn (drawn (s.modHalter u fun h =>
    { h with counts := { h.counts with verdictNs := max h.counts.verdictNs (Config.draw s.draws % 2001),
                                       pinsNs := max h.counts.pinsNs (Config.draw (s.draws + 1) % 3001) } }))

/-- A tile accepted from the owner of its pair (R405 to R411). -/
def takeTile (u pair tx ty edge : Nat) (last breaks : Bool) (disp : List (BitVec 16)) (conf : List Byte) (s : State) :
    State :=
  let s := s.modHalter u fun h =>
    { h with counts := { h.counts with evaluated := h.counts.evaluated + 1 } }
  let s := timeTile u s
  if breaks then
    enterStop u .sequence none (s.modHalter u fun h =>
      { h with pairs := lmod h.pairs pair fun p => { p with lastTile := if p.done then none else some s.now } })
  else
    let before := (s.halter u).triggered
    let wasStop := decide ((s.halter u).state = .stop)
    let s := s.modHalter u fun h =>
      { h with pairs := lmod h.pairs pair fun p =>
          { p with last := some (ty, tx), done := last, lastTile := if last then none else some s.now } }
    let s := (List.range 16).foldl (fun s k => countVolume u pair tx ty edge disp conf k s) s
    let newly := (List.range 16).filter fun k => (s.halter u).triggered.getD k false && !before.getD k false
    let s := newly.foldl (fun s k => actTrigger u wasStop k s) s
    let h := s.halter u
    if !h.frameDone && (watched (h.config.getD [])).all fun p => (h.pairs.getD p .reset).done then frameComplete u s
    else s

/-- A node that owns a watched pair ends before the pair's last tile: CUT (Table 11.3). -/
def halterCut (graph node : Nat) (s : State) : State :=
  [0, 1].foldl (fun s u =>
    let h := s.halter u
    if h.pairs.any fun p => decide (p.owner = some (graph, node)) && !p.done then
      enterStop u .cut none (s.modHalter u fun h =>
        { h with pairs := h.pairs.map fun p => if p.owner = some (graph, node) then { p with lastTile := none } else p })
    else s) s

/-- The unit at a window opening: counts to zero, the lease and the configuration CRC checked (R404, R407, R417). -/
def halterOpening (u : Nat) (upset : Bool) (s : State) : State :=
  let s := s.modHalter u fun h =>
    { h with pts := List.replicate 16 0, unk := List.replicate 16 0, triggered := List.replicate 16 false,
             pairs := List.replicate 4 .reset, frameDone := false }
  if (halterTenant s u).isNone then disableHalter u true s
  else if upset then enterStop u .selfCheck none s else s

end Sys2Proof.Machine
end

