-- ==== Sys2Proof/Machine/LinkOps.lean ====
section
/-!
DEFINITION. Fabric packets as words (12) and the sending side of the P-links (13).
-/
namespace Sys2Proof.Machine

/-! ### Header fields (Tables 12.2, 12.3) -/

/-- A bit field of a header word. -/
def hbits (h : BitVec 64) (hi lo : Nat) : Nat := bits h.toNat hi lo

def Packet.dest (p : Packet) : Nat := hbits p.h0 7 0
def Packet.dport (p : Packet) : Nat := hbits p.h0 10 8
def Packet.epoch (p : Packet) : Nat := hbits p.h0 11 11
def Packet.isData (p : Packet) : Bool := p.h0.getLsbD 12
def Packet.dl (p : Packet) : Bool := p.h0.getLsbD 13
def Packet.mcast (p : Packet) : Bool := p.h0.getLsbD 14
def Packet.axis (p : Packet) : Nat := hbits p.h0 15 15
def Packet.src (p : Packet) : Nat := hbits p.h0 23 16
def Packet.sport (p : Packet) : Nat := hbits p.h0 26 24
def Packet.op (p : Packet) : Nat := hbits p.h0 31 27
def Packet.key (p : Packet) : Nat := hbits p.h0 39 32
def Packet.tag (p : Packet) : Nat := hbits p.h0 45 40
def Packet.mask (p : Packet) : Nat := hbits p.h0 51 48
def Packet.hops (p : Packet) : Nat := hbits p.h0 55 52
def Packet.addr (p : Packet) : Nat := hbits p.h1 39 0
def Packet.mode (p : Packet) : Nat := hbits p.h1 40 40
def Packet.rows (p : Packet) : Nat := hbits p.h1 43 41 + 1
def Packet.gate (p : Packet) : Nat := hbits p.h1 5 0
def Packet.rowOffset (p : Packet) : Nat := hbits p.h1 25 6

/-- Chip of a node ID (R424). -/
def chipOf (node : Nat) : Nat := node / 16

/-- Virtual channel a packet uses (R430). -/
def Packet.vc (p : Packet) : Nat := 2 * b2n p.isData + b2n p.dl

/-- Flits of a packet (R427). -/
def Packet.flits (p : Packet) : Nat := if p.isData then 16 * p.rows + 1 else 1

/-- A request: RD_REQ or WR. -/
def Packet.isRequest (p : Packet) : Bool := decide (p.op = 0x01) || decide (p.op = 0x10)

/-- A response: WR_ACK, NACK or RD_DATA. -/
def Packet.isResponse (p : Packet) : Bool := decide (p.op = 0x02) || decide (p.op = 0x03) || decide (p.op = 0x11)

/-- The fields of H0. -/
structure H0 where
  dest : Nat
  dport : Nat
  epoch : Nat
  data : Bool
  dl : Bool
  mcast : Bool
  axis : Nat
  src : Nat
  sport : Nat
  op : Nat
  key : Nat
  tag : Nat
  mask : Nat
  hops : Nat
  deriving DecidableEq, Repr

/-- H0 as a word (Table 12.2). -/
def H0.word (h : H0) : BitVec 64 :=
  BitVec.ofNat 64 (h.dest % 256 + (h.dport % 8) * 2 ^ 8 + (h.epoch % 2) * 2 ^ 11 + b2n h.data * 2 ^ 12 +
    b2n h.dl * 2 ^ 13 + b2n h.mcast * 2 ^ 14 + (h.axis % 2) * 2 ^ 15 + (h.src % 256) * 2 ^ 16 +
    (h.sport % 8) * 2 ^ 24 + (h.op % 32) * 2 ^ 27 + (h.key % 256) * 2 ^ 32 + (h.tag % 64) * 2 ^ 40 +
    (h.mask % 16) * 2 ^ 48 + (h.hops % 16) * 2 ^ 52)

/-- The fields of a packet's H0. -/
def Packet.head (p : Packet) : H0 :=
  { dest := p.dest, dport := p.dport, epoch := p.epoch, data := p.isData, dl := p.dl, mcast := p.mcast, axis := p.axis,
    src := p.src, sport := p.sport, op := p.op, key := p.key, tag := p.tag, mask := p.mask, hops := p.hops }

/-- H1 of a request or response on rows (Table 12.3). -/
def h1Rows (addr mode rows detect poison : Nat) : BitVec 64 :=
  BitVec.ofNat 64 (addr % 2 ^ 40 + (mode % 2) * 2 ^ 40 + ((rows - 1) % 8) * 2 ^ 41 + (detect % 256) * 2 ^ 48 +
    (poison % 256) * 2 ^ 56)

/-- ADDR of a gate request (Table 12.3, MODE 1). -/
def gateAddr (gate offset : Nat) : Nat := gate % 64 + (offset % 2 ^ 20) * 64

/-- The 16 zero bytes of a control packet after its first payload word. -/
def ctlRest : List Byte := List.replicate 16 0

/-- A control payload carries something where Table 12.5 and R499 leave zeros; that of a firmware message is not described. -/
def Packet.padded (p : Packet) : Bool :=
  match p.op with
  | 0x01 => decide (hbits p.h1 63 44 ≠ 0) || decide (p.rest ≠ ctlRest)
  | 0x02 | 0x03 => decide (hbits p.h1 63 32 ≠ 0) || decide (p.rest ≠ ctlRest)
  | 0x04 => decide (hbits p.h1 31 24 ≠ 0) || decide (p.rest ≠ ctlRest)
  | _ => false

/-- A malformed packet (R428): reserved OP, CLASS that does not match OP, nonzero reserved bits, a DPORT that names an
unused port, or a length that does not match NROW. `portUsed` tells which ports exist. -/
def Packet.malformed (portUsed : Nat → Nat → Bool) (p : Packet) : Bool :=
  let data := decide (p.op = 0x10) || decide (p.op = 0x11)
  let control := decide (1 ≤ p.op) && decide (p.op ≤ 5)
  !(data || control) || (data != p.isData) || decide (hbits p.h0 47 46 ≠ 0) || decide (hbits p.h0 63 56 ≠ 0) ||
  (!p.mcast && (decide (p.axis ≠ 0) || decide (p.mask ≠ 0))) ||
  (p.isData && (decide (hbits p.h1 47 44 ≠ 0) || decide (p.rest.length ≠ 512 * p.rows))) ||
  (!p.isData && decide (p.rest.length ≠ 16)) ||
  p.padded ||
  (decide (p.op = 0x10) && decide (hbits p.h1 63 48 ≠ 0)) ||
  ((p.isData || decide (p.op = 0x01)) &&
    (if p.mode = 0 then decide (p.addr % 512 ≠ 0) else decide (hbits p.h1 39 26 ≠ 0))) ||
  !portUsed (p.dest % 16) p.dport

/-- Client ports of Table 12.1 that exist; every stall port does. -/
def portUsed (router port : Nat) : Bool :=
  if port < 4 then true
  else match router with
    | 0 | 1 | 2 | 4 | 5 | 6 | 8 | 9 | 10 => true
    | 3 => decide (port < 6)
    | 7 => decide (port ≠ 6)
    | 11 => decide (port = 4)
    | 12 => decide (port = 4) || decide (port = 7)
    | 14 => decide (port = 7)
    | _ => false

/-! ### Gateways -/

/-- Router of a gateway: N, E, S, W (Table 12.1). -/
def gatewayRouter (p : Nat) : Nat := match p with | 0 => 1 | 1 => 7 | 2 => 14 | _ => 12

/-- The gateway at a router's mesh edge port, if Table 12.1 gives it one. -/
def gatewayAt (router port : Nat) : Option Nat :=
  (List.range 4).find? fun p => decide (gatewayRouter p = router) && decide (p = port)

/-- The route-table version of an epoch bit. -/
def State.routes (s : State) (epoch : Nat) : Routes := s.fabric.versions.getD (epoch % 2) (.reset s.boot.config.chip)

/-- The device's chip ID (R484). -/
def State.chip (s : State) : Nat := s.boot.config.chip

/-! ### Sending -/

/-- Bytes the replay buffer of a port holds. -/
def replayBytes (l : PLink) : Nat := l.replay.foldl (fun n q => n + 32 * q.2.flits) 0

/-- The sender may start a new frame: no recalibration step, at most 1 µs long, is under way (R468), fewer than 2,047 packets held, the replay buffer below 256 KiB with it, and
credits for all its flits (R475, R478). -/
def linkReady (now : Instant) (l : PLink) (p : Packet) : Bool :=
  decide (l.state = .up) && (l.recal.all fun r => decide (r + 1000 ≤ now)) && decide (l.replay.length < 2047) &&
    decide (replayBytes l + 32 * p.flits ≤ 262144) && decide (p.flits ≤ l.credits.getD p.vc 0)

/-- A packet is sent on a link in a frame with the next sequence number and held for replay (R471, R475). -/
def linkSend (port : Nat) (p : Packet) (s : State) : State :=
  let l := s.plink port
  emit (.link port (.frame l.txSeq p)) (s.modLink port fun l =>
    { l with txSeq := (l.txSeq + 1) % 4096, replay := l.replay ++ [(l.txSeq, p)],
             credits := lmod l.credits p.vc (· - p.flits),
             progressAt := if l.replay = [] then s.now else l.progressAt,
             counts := { l.counts with framesSent := l.counts.framesSent + 1,
                                       highestReplay := max l.counts.highestReplay (l.replay.length + 1) } })

/-- A LINK_CTL with the receiver's acknowledgement and the credits to return (R474, R478). -/
def sendCtl (port : Nat) (nak flush : Bool) (s : State) : State :=
  let l := s.plink port
  emit (.link port (.ctl ((l.rxExpected + 4095) % 4096) nak true l.returns flush)) (s.modLink port fun l =>
    { l with returns := [0, 0, 0, 0], sinceCtl := 0, lastTx := s.now,
             counts := { l.counts with naks := l.counts.naks + b2n nak } })

/-- TICK blocks on every UP port (R485). -/
def sendTicks (s : State) : State :=
  [0, 1, 2, 3].foldl (fun s p =>
    if (s.plink p).state = .up then emit (.link p (.tick s.tick.stc s.tick.depth s.tick.holdover)) s else s) s

/-- DL after leaving by a gateway: cleared at a change of axis, set on a WRAP link (R435). -/
def dlAfter (s : State) (p : Packet) (entered : Option Nat) (egress : Nat) : Bool :=
  let dl := if entered.all fun g => decide (g % 2 = egress % 2) then p.dl else false
  dl || (match (s.routes p.epoch).links[egress]? with | some e => e.wrap | none => false)

/-- The head of a packet as it crosses a P-link: one more hop, and its DL (R435, R436). -/
def crossed (s : State) (p : Packet) (entered : Option Nat) (egress : Nat) : Packet :=
  { p with h0 := ({ p.head with hops := p.hops + 1, dl := dlAfter s p entered egress } : H0).word }

/-- A packet that can go no further is counted and posted (R434, R436). -/
def lostPacket (p : Packet) (hopLimit : Bool) (s : State) : State :=
  postAll clsLink 3 (detail [(0, chipOf p.dest), (4, p.epoch), (5, b2n hopLimit)])
    (s.modFabric fun x => { x with counts := { x.counts with noRoute := x.counts.noRoute + 1 } })

/-- The ABORT packet (R499), as this device originates it. -/
def abortPacket (s : State) (port key slot reason origin : Nat) (stc : BitVec 32) : Packet :=
  { h0 := ({ dest := 16 * (s.plink port).neighbour, dport := 0, epoch := s.fabric.epoch, data := false, dl := false,
             mcast := false, axis := 0, src := 16 * s.chip + gatewayRouter port, sport := 7, op := 0x04, key := key,
             tag := 0, mask := 0, hops := 0 } : H0).word,
    h1 := BitVec.ofNat 64 (slot + reason * 2 ^ 8 + origin * 2 ^ 16 + stc.toNat * 2 ^ 32), rest := ctlRest }

/-- An ABORT leaves by one port, with the hops and the DL of the packet it came in, unless it has come too far (R435, R436).
-/
def passAbort (port : Nat) (p : Packet) (via : Option (Nat × Packet)) (s : State) : State :=
  let p := match via with
    | some (_, q) => { p with h0 := ({ p.head with hops := q.hops, dl := q.dl } : H0).word }
    | none => p
  if s.boot.config.hSys < p.hops + 1 then lostPacket p true s
  else
    (linkSend port (crossed s p (via.map (·.1)) port) s).modLink port fun l =>
      { l with counts := { l.counts with abortsForwarded := l.counts.abortsForwarded + b2n via.isSome } }

/-- An ABORT goes once over every UP port but the one it came by; the identities of the last 64 are kept, and a repeat
is dropped and counted (R500). `via`: the gateway it came by and the packet. The answer tells whether it is new. -/
def floodAbort (key slot reason origin : Nat) (stc : BitVec 32) (via : Option (Nat × Packet)) (s : State) :
    State × Bool :=
  let id : AbortId := { key := key, slot := slot, stc := stc }
  if s.aborts.contains id then
    (match via with
     | some (p, _) => s.modLink p fun l => { l with counts := { l.counts with abortRepeats := l.counts.abortRepeats + 1 } }
     | none => s, false)
  else
    ([0, 1, 2, 3].foldl (fun s p =>
      if (s.plink p).state = .up ∧ via.map (·.1) ≠ some p then
        passAbort p (abortPacket s p key slot reason origin stc) via s
      else s) { s with aborts := (id :: s.aborts).take 64 }, true)

end Sys2Proof.Machine
end

