-- ==== Sys2Proof/Machine/Crc.lean ====
section
/-!
DEFINITION. CRC-32 with the IEEE 802.3 polynomial, as every image, row and link frame uses it.
-/
namespace Sys2Proof.Machine

/-- One bit of the reflected CRC-32 register. -/
def crcBit (c : BitVec 32) : BitVec 32 := if c.getLsbD 0 then (c >>> 1) ^^^ 0xEDB88320#32 else c >>> 1

/-- One byte into the CRC-32 register. -/
def crcByte (c : BitVec 32) (b : Byte) : BitVec 32 :=
  crcBit (crcBit (crcBit (crcBit (crcBit (crcBit (crcBit (crcBit (c ^^^ b.setWidth 32))))))))

/-- CRC-32, IEEE 802.3 polynomial (R182, R252, R438, R472, R632). -/
def crc32 (l : List Byte) : Nat := (l.foldl crcByte 0xFFFFFFFF#32 ^^^ 0xFFFFFFFF#32).toNat

/-- CRC-32 of a list with the four bytes at an offset taken as zero. -/
def crcSkip (l : List Byte) (off : Nat) : Nat := crc32 (patch l off [0, 0, 0, 0])

end Sys2Proof.Machine
end

