-- ==== Sys2Proof/Machine/Memory.lean ====
section
/-!
DEFINITION. Reading and writing a memory in its canonical form (assumption log 4).
-/
namespace Sys2Proof.Machine

/-- What an unlisted address reads as (assumption log 4, DESIGN CHOICE: zero). -/
def unlisted : Byte := 0

/-- The byte the cells hold at an address. -/
def cellAt : List Host.Cell → Nat → Byte
  | [], _ => unlisted
  | (a, b) :: l, x => if a = x then b else if x < a then unlisted else cellAt l x

/-- The cells with one byte written; the canonical form is kept: rising addresses, no cell equal to what an unlisted
address reads as. -/
def cellPut : List Host.Cell → Nat → Byte → List Host.Cell
  | [], x, v => if v = unlisted then [] else [(x, v)]
  | (a, b) :: l, x, v =>
    if x < a then (if v = unlisted then (a, b) :: l else (x, v) :: (a, b) :: l)
    else if a = x then (if v = unlisted then l else (x, v) :: l)
    else (a, b) :: cellPut l x v

/-- Every address of the cells lies above a bound. -/
def cellsAbove (x : Nat) (l : List Host.Cell) : Bool := l.all fun c => decide (x < c.1)

/-- The canonical form of the cells: addresses strictly rising, no byte equal to what an unlisted address reads as. -/
def cellsWf : List Host.Cell → Bool
  | [] => true
  | (a, b) :: l => decide (b ≠ unlisted) && cellsAbove a l && cellsWf l

/-- The canonical form of a memory. -/
def Mem.wf (m : Mem) : Bool := cellsWf m.cells

/-- The undefined range that covers an address, if any. -/
def undefAt (m : Mem) (x : Nat) : Option Undef := m.undef.find? fun u => decide (u.base ≤ x) && decide (x < u.base + u.len)

/-- The byte at an address: a free value in an undefined range, else what the cells hold. -/
def Mem.get (m : Mem) (x : Nat) : Byte :=
  match undefAt m x with
  | some u => Config.freeByte u.stamp x
  | none => cellAt m.cells x

/-- The undefined ranges with one range of addresses taken out. -/
def carve (base len : Nat) (us : List Undef) : List Undef :=
  us.flatMap fun u =>
    [{ base := u.base, len := min u.len (base - u.base), stamp := u.stamp : Undef },
     { base := max u.base (base + len), len := u.base + u.len - max u.base (base + len), stamp := u.stamp }].filter
      fun v => decide (0 < v.len)

/-- The cells with a list of bytes written from an address up. -/
def cellsPut (cells : List Host.Cell) (x : Nat) : List Byte → List Host.Cell
  | [] => cells
  | b :: l => cellsPut (cellPut cells x b) (x + 1) l

/-- A memory with bytes written from an address up. -/
def Mem.write (m : Mem) (x : Nat) (d : List Byte) : Mem :=
  { cells := cellsPut m.cells x d, undef := carve x d.length m.undef }

/-- The n bytes from an address up. -/
def Mem.read (m : Mem) (x : Nat) : Nat → List Byte
  | 0 => []
  | n + 1 => m.get x :: m.read (x + 1) n

/-- A memory in which a range holds undefined contents from now on; cells inside it are dropped. -/
def Mem.undefine (m : Mem) (base len stamp : Nat) : Mem :=
  { cells := m.cells.filter fun c => decide (c.1 < base) || decide (base + len ≤ c.1),
    undef := if len = 0 then m.undef else { base := base, len := len, stamp := stamp } :: carve base len m.undef }

/-- A memory in which every byte of a range is zero. -/
def Mem.zero (m : Mem) (base len : Nat) : Mem :=
  { cells := m.cells.filter fun c => decide (c.1 < base) || decide (base + len ≤ c.1), undef := carve base len m.undef }

end Sys2Proof.Machine
end

