-- ==== Sys2Proof/Machine/LoftOps.lean ====
section
/-!
DEFINITION. Shared operations on the Loft (06): addresses, rows, kinds of row, detections, refill, events.
-/
namespace Sys2Proof.Machine

/-- Rows of the Loft (R219, R220). -/
def loftRows : Nat := 786432

/-- First DRAM address (R16). -/
def dramBase : Nat := 0x10_0000_0000

/-- Row index of a Loft address (R219). -/
def rowOf (x : Nat) : Nat := x / 512

/-- Stall of a row (R219). -/
def stallOf (row : Nat) : Nat := row % 64

/-- Router and stall port (0 to 3) of a row's stall (R221). -/
def stallPlace (row : Nat) : Nat × Nat := (stallOf row % 16, stallOf row / 16)

/-- The tenant whose contract in force holds a row (R231). -/
def rowTenant (s : State) (row : Nat) : Option Nat :=
  (List.range 4).find? fun n => (s.contract n).loft.any fun e => inside (row, 1) e

/-- The region that holds a row (R232). -/
def regionAt (s : State) (row : Nat) : Option (Nat × Region) :=
  s.loft.regions.find? fun p => inside (row, 1) (p.2.first, p.2.count)

/-- The gate that holds a row (R232). -/
def gateAt (s : State) (row : Nat) : Option (Nat × Gate) :=
  s.loft.gates.find? fun p => inside (row, 1) (p.2.first, p.2.count)

/-- The tenant whose Carafe holds a row (R232). -/
def carafeOf (s : State) (row : Nat) : Option Nat :=
  (List.range 4).find? fun n => inside (row, 1) (s.contract n).carafe

/-- Kind code of a row as LOFT_DETECT gives it: 0 working, 1 LOADED region, 2 other region, 3 Carafe, 4 gate
(Table 6.6). -/
def rowKind (s : State) (row : Nat) : Nat :=
  match regionAt s row with
  | some (_, r) => if r.state = .loaded then 1 else 2
  | none => if (carafeOf s row).isSome then 3 else if (gateAt s row).isSome then 4 else 0

/-- The 512 B of a row as stored. -/
def rowData (s : State) (row : Nat) : List Byte := s.loft.mem.read (512 * row) 512

/-- Whether a row's contents read as undefined because of its region's state (R242): in DEFINED and LOADING, and in
FAILED the rows that failed. -/
def rowUndefined (s : State) (row : Nat) : Bool :=
  match regionAt s row with
  | some (_, r) =>
    match r.state with
    | .defined | .loading => true
    | .failed => r.failedRows.contains row
    | _ => false
  | none => false

/-- A MEM_WRITE that has not completed names the row: what a node reads there is undefined (06, When a window opens during
RESIDENT_LOAD or a Loft MEM_WRITE). -/
def rowWriting (s : State) (row : Nat) : Bool :=
  s.moves.any fun m => match m.2 with | .memWrite x n => inside (512 * row, 512) (x, n) | _ => false

/-- Free values for the bytes of a row (R6). -/
def freeRow (s : State) (row : Nat) : List Byte := (List.range 512).map fun i => Config.freeByte s.draws (512 * row + i)

/-- Bytes of a row as a node reads them: undefined in a region's state that says so, and under a MEM_WRITE (R242). -/
def rowRead (s : State) (row : Nat) : List Byte :=
  if rowUndefined s row || rowWriting s row then freeRow s row else rowData s row

/-- Bytes of a row as the host reads them: undefined in a region that is DEFINED or LOADING, else as stored (R242,
Table 6.5). -/
def storedRow (s : State) (row : Nat) : List Byte :=
  match regionAt s row with
  | some (_, r) => if r.state = .failed then rowData s row else if rowUndefined s row then freeRow s row else rowData s row
  | none => rowData s row

/-- A table without the keys of a range. -/
def outside {α : Type} (first count : Nat) (m : Table α) : Table α :=
  tfilter m fun k _ => decide (k < first) || decide (first + count ≤ k)

/-- A whole row written with a fresh CRC: a detection there is cleared, except on a BAD row (R224, R252, R257, R261). -/
def putRow (row : Nat) (d : List Byte) (s : State) : State :=
  s.modLoft fun l => { l with mem := l.mem.write (512 * row) (fit 512 d), crcs := tdel l.crcs row }

/-- Consecutive rows written, each with a fresh CRC, from a list of bytes that is a multiple of 512 B. -/
def putRows (first : Nat) (d : List Byte) (s : State) : State :=
  s.modLoft fun l => { l with mem := l.mem.write (512 * first) d, crcs := outside first (d.length / 512) l.crcs }

/-- Rows whose contents become undefined (R6); their stored CRCs are those of what they then hold (assumption log 50). -/
def undefineRows (first count : Nat) (s : State) : State :=
  drawn (s.modLoft fun l =>
    { l with mem := l.mem.undefine (512 * first) (512 * count) s.draws, crcs := outside first count l.crcs })

/-- The stored CRC-32 of a row (R252). -/
def rowCrc (s : State) (row : Nat) : BitVec 32 := (tget s.loft.crcs row).getD (BitVec.ofNat 32 (crc32 (rowData s row)))

/-- The recomputed CRC of a row differs from the stored one (R252): only a row that a soft error has changed since it was
written can show that. -/
def crcWrong (s : State) (row : Nat) : Bool :=
  match tget s.loft.crcs row with
  | none => false
  | some c => decide (BitVec.ofNat 32 (crc32 (rowData s row)) ≠ c)

/-- A row failed in its region and no load has rewritten it (R256). -/
def rowFailed (s : State) (row : Nat) : Bool :=
  match regionAt s row with
  | some (_, r) => r.failedRows.contains row
  | none => false

/-- A read of the row reports a detection: its CRC does not match, it failed in its region, or it is BAD (R252, R256, R261).
-/
def rowBad (s : State) (row : Nat) : Bool := crcWrong s row || rowFailed s row || s.loft.badRows.contains row

/-- Every row whose reads report a detection. -/
def badRowsOf (s : State) : List Nat :=
  ((s.loft.crcs.map (·.1)) ++ (s.loft.regions.flatMap fun p => p.2.failedRows) ++ s.loft.badRows).eraseDups.filter (rowBad s)

/-- A list of bytes with one bit inverted. -/
def flipBit (d : List Byte) (k : Nat) : List Byte := lmod d (k / 8) fun b => b ^^^ BitVec.ofNat 8 (2 ^ (k % 8))

/-- A soft error inverts bits of a stored row or of its CRC (R252); the row keeps the CRC stored when it was written. -/
def damageRow (row : Nat) (flips : Flips) (s : State) : State :=
  if flips = [] then s
  else
    let d := flips.foldl (fun d k => if k.val < 4096 then flipBit d k.val else d) (rowData s row)
    let c := flips.foldl (fun c k => if k.val < 4096 then c else c ^^^ BitVec.ofNat 32 (2 ^ (k.val - 4096))) (rowCrc s row)
    s.modLoft fun l => { l with mem := l.mem.write (512 * row) d, crcs := tset l.crcs row c }

/-- The soft errors an operand lists for a row. -/
def flipsOf (flaws : List (Nat × Flips)) (row : Nat) : Flips := (flaws.filter fun p => p.1 = row).flatMap (·.2)

/-- Rows in which a read finds soft errors now. -/
def findFlaws (rows : List Nat) (flaws : List (Nat × Flips)) (s : State) : State :=
  rows.foldl (fun s row => damageRow row (flipsOf flaws row) s) s

/-- A memory event of the Loft, to the tenant whose contract holds the row, else device-wide (R264). -/
def postLoft (row : Nat) (cause : Nat) (d : BitVec 64) (s : State) : State :=
  postTo (rowTenant s row) clsMemory cause d s

/-- Sources of LOFT_DETECT (Table 6.6). -/
inductive DetectBy where
  | node | gate | bar2 | memRead | scrub | test | egress
  deriving DecidableEq, Repr

/-- The code of a source of LOFT_DETECT. -/
def DetectBy.code : DetectBy → Nat
  | .node => 0 | .gate => 1 | .bar2 => 2 | .memRead => 3 | .scrub => 4 | .test => 6 | .egress => 7

/-- A detection counted by its source (Table 6.7). -/
def countDetect (by_ : DetectBy) (c : LoftCounts) : LoftCounts :=
  let c := { c with detections := c.detections + 1 }
  match by_ with
  | .node => { c with byNode := c.byNode + 1 }
  | .scrub => { c with byScrub := c.byScrub + 1 }
  | .bar2 | .memRead => { c with byHost := c.byHost + 1 }
  | .gate => { c with byGate := c.byGate + 1 }
  | .test | .egress => c

/-- The Loft action of Table 6.5 for a detected row: a refill of a row of a LOADED region, else the suspect list, which
holds 256 rows, no row twice and no BAD row (R254, R258). -/
def detectAction (row : Nat) (s : State) : State :=
  match regionAt s row with
  | some (n, r) =>
    if r.state = .loaded then
      if thas s.loft.refills row then s
      else s.modLoft fun l =>
        { l with refills := tset l.refills row { region := n, since := s.now, mapping := none },
                 counts := { l.counts with refills := l.counts.refills + 1 } }
    else suspectRow row s
  | none => suspectRow row s
where
  /-- A row joins the suspect list (R258). -/
  suspectRow (row : Nat) (s : State) : State :=
    if s.loft.suspect.contains row || s.loft.badRows.contains row then s
    else if 256 ≤ s.loft.suspect.length then
      s.modLoft fun l => { l with counts := { l.counts with notListed := l.counts.notListed + 1 } }
    else s.modLoft fun l => { l with suspect := l.suspect ++ [row] }

/-- A detection: counted, LOFT_DETECT posted, and acted on (R253). -/
def detect (row : Nat) (by_ : DetectBy) (s : State) : State :=
  let kind := rowKind s row
  let s := s.modLoft fun l => { l with counts := countDetect by_ l.counts }
  let s := postLoft row 1 (detail [(0, row), (20, by_.code), (24, kind)]) s
  match by_ with
  | .test => s
  | _ => detectAction row s

/-- Rows a frame wrote through gates of this device with a key hold undefined data once the frame is aborted, halted or
guillotined (R250). -/
def spoilGateRows (key : Nat) (s : State) : State :=
  (s.loft.gateRows.filter fun r => r.2 = key).foldl (fun s r => undefineRows r.1 1 s)
    (s.modLoft fun l => { l with gateRows := l.gateRows.filter fun r => decide (r.2 ≠ key) })

/-- Spares of a stall that are in use, that a map-out in progress has taken, or that failed a read-back or the self-test. -/
def usedSpares (l : Loft) (stall : Nat) : List Nat :=
  ((l.map.filter fun p => stallOf p.1 = stall).map (·.2)) ++
    ((l.refills.filter fun p => stallOf p.1 = stall).filterMap (·.2.mapping)) ++
    ((l.deadSpares.filter fun d => d / 64 = stall).map (· % 64))

/-- The lowest free spare of a row's stall (R255). -/
def freeSpare (l : Loft) (row : Nat) : Option Nat :=
  (List.range 64).find? fun k => !(usedSpares l (stallOf row)).contains k

/-- A row mapped to a spare, which serves every later access (R260). -/
def mapRow (row spare : Nat) (s : State) : State :=
  s.modLoft fun l => { l with map := tset l.map row spare, counts := { l.counts with mapOuts := l.counts.mapOuts + 1 } }

/-- A row that fails when its stall has no free spare becomes BAD; posted once, device-wide, with the alert (R261). -/
def badRow (row : Nat) (s : State) : State :=
  raiseAlert alertMem (postAll clsMemory 4 (BitVec.ofNat 64 row)
    (s.modLoft fun l => { l with badRows := l.badRows ++ [row] }))

/-- A region whose row cannot be refilled becomes FAILED; the row stays detected (R256). -/
def failRegion (row region : Nat) (backing : Bool) (s : State) : State :=
  let again : Bool := match tget s.loft.regions region with | some r => decide (r.state = .failed) | none => false
  let s := s.modLoft fun l =>
    { l with refills := tdel l.refills row,
             regions := tmod l.regions region fun r =>
               { r with state := .failed, failedRows := if r.failedRows.contains row then r.failedRows else row :: r.failedRows } }
  raiseAlert alertMem (if again then s else postLoft row 5 (detail [(0, region), (8, b2n backing)]) s)

/-- A refused access of a node or lane (R231, R233, R234, R241): counted and posted. Reasons: 0 outside partition, 1
resident write, 2 Carafe write, 3 backing write (Table 6.6). Outside the Loft only a backing write is the Loft's to report:
an access outside partition there has no row, so it is counted and not posted (assumption log 68). -/
def refuseAccess (tenant reason addr : Nat) (s : State) : State :=
  let s := s.modLoft fun l => { l with counts :=
    if reason = 0 then { l.counts with outside := l.counts.outside + 1 }
    else { l.counts with writesRefused := l.counts.writesRefused + 1 } }
  if reason = 3 then postTenant tenant clsMemory 6 (detail [(20, 3), (24, addr)]) s
  else if rowOf addr < loftRows then postLoft (rowOf addr) 6 (detail [(0, rowOf addr), (20, reason)]) s
  else s

end Sys2Proof.Machine
end

