-- ==== Sys2Proof/Machine/DramOps.lean ====
section
/-!
DEFINITION. Shared operations on external memory (14): interleave, ECC regions, poison, sector reads and writes.
-/
namespace Sys2Proof.Machine

/-- Installed DRAM in bytes (R509). -/
def State.dramBytes (s : State) : Nat := 4 * s.boot.config.dramGib * 2 ^ 30

/-- A nonempty range lies in installed DRAM (R16). -/
def inDram (s : State) (x n : Nat) : Bool := inside (x, n) (dramBase, s.dramBytes)

/-- A nonempty range lies in the Loft (R16). -/
def inLoft (x n : Nat) : Bool := inside (x, n) (0, 512 * loftRows)

/-- The channel of a DRAM address (R511). -/
def channelOf (x : Nat) : Nat := bits (x - dramBase) 9 8 ^^^ bits (x - dramBase) 13 12

/-- Sector number of a DRAM address. -/
def sectorOf (x : Nat) : Nat := (x - dramBase) / 64

/-- Address of a sector. -/
def sectorAddr (k : Nat) : Nat := dramBase + 64 * k

/-- Data area of an ECC region (R513). -/
def dataArea (r : Nat × Nat) : Nat × Nat := (r.1, 7 * r.2 / 8)

/-- Check area of an ECC region (R513). -/
def checkArea (r : Nat × Nat) : Nat × Nat := (r.1 + 7 * r.2 / 8, r.2 / 8)

/-- Whether a sector lies in the data area of an enabled ECC region. -/
def eccData (s : State) (x : Nat) : Bool := s.dram.ecc.any fun p => inside (x, 1) (dataArea p.2)

/-- Whether a range meets a check area of an enabled ECC region (R514). -/
def hitsCheck (s : State) (x n : Nat) : Bool := s.dram.ecc.any fun p => overlap (x, n) (checkArea p.2)

/-- Backing range of a region (R238). -/
def backing (r : Region) : Nat × Nat := (r.backing, 512 * r.count)

/-- Whether a range meets the backing range of a region that is not EMPTY (R241). -/
def hitsBacking (s : State) (x n : Nat) : Bool := s.loft.regions.any fun p => overlap (x, n) (backing p.2)

/-- The tenant whose contract in force holds a DRAM address (R528). -/
def dramTenant (s : State) (x : Nat) : Option Nat :=
  (List.range 4).find? fun n => (s.contract n).dram.any fun e => inside (x, 1) e

/-- A DRAM event about an address (R528). -/
def postDram (x cause : Nat) (d : BitVec 64) (s : State) : State := postTo (dramTenant s x) clsMemory cause d s

/-- Counters of the channel of an address. -/
def countDram (x : Nat) (f : DramCounts → DramCounts) (s : State) : State :=
  s.modDram fun d => { d with channels := lmod d.channels (channelOf x) fun c => { c with counts := f c.counts } }

/-- A correction in the window at the channel of an address (R528). -/
def countCorrection (x : Nat) (scrub : Bool) (s : State) : State :=
  s.modDram fun d => { d with channels := lmod d.channels (channelOf x) fun c =>
    { c with corrected := c.corrected + 1,
             counts := if scrub then { c.counts with corrScrub := c.counts.corrScrub + 1 }
                       else { c.counts with corrClient := c.counts.corrClient + 1 } } }

/-- A sector newly found uncorrectable: poisoned, listed if the list has room, posted, with the alert (R516, R522). -/
def poisonSector (x source : Nat) (s : State) : State :=
  let k := sectorOf x
  let full := decide (1024 ≤ s.dram.listed.length)
  let s := s.modDram fun d => { d with poison := k :: d.poison, listed := if full then d.listed else d.listed ++ [k] }
  let s := countDram x (fun c => { c with uncorrectable := c.uncorrectable + 1,
                                          notListed := c.notListed + b2n full }) s
  raiseAlert alertMem (postDram x 0x102 (detail [(0, sectorAddr k), (40, source)]) s)

/-- A read of a sector already poisoned: counted, and posted at most once per sector per window (R516). -/
def repeatPoison (x source : Nat) (s : State) : State :=
  let k := sectorOf x
  let s := countDram x (fun c => { c with poisonReads := c.poisonReads + 1 }) s
  if s.dram.repeated.contains k then s
  else postDram x 0x102 (detail [(0, sectorAddr k), (40, source), (43, 1)])
    (s.modDram fun d => { d with repeated := k :: d.repeated })

/-- What a read of one sector does (Table 14.1): its data, or none where it is poisoned. -/
def readSector (x : Nat) (found : SectorCheck) (source : Nat) (scrub : Bool) (s : State) : State × Option (List Byte) :=
  let k := sectorOf x
  let s := countDram x (fun c => { c with read := c.read + 1 }) s
  let data := s.dram.mem.read (sectorAddr k) 64
  if !eccData s x then (s, some data)
  else if s.dram.poison.contains k then (repeatPoison x source s, none)
  else match found with
    | .clean => (s, some data)
    | .single => (countCorrection x scrub s, some data)
    | .uncorrectable => (poisonSector x source s, none)

/-- Reads of consecutive sectors, each with what its check finds; missing checks are clean. Answers the bytes, with
zeros for a poisoned sector, and whether any sector was poisoned. -/
def readSectors (x : Nat) (source : Nat) : Nat → List SectorCheck → State → State × List Byte × Bool
  | 0, _, s => (s, [], false)
  | n + 1, fs, s =>
    let r := readSector x (fs.headD .clean) source false s
    let q := readSectors (x + 64) source n fs.tail r.1
    (q.1, r.2.getD (List.replicate 64 0) ++ q.2.1, r.2.isNone || q.2.2)

/-- A full write of one sector: fresh check bytes, poison cleared (R519). -/
def writeSector (x : Nat) (d : List Byte) (s : State) : State :=
  let k := sectorOf x
  let s := countDram x (fun c => { c with written := c.written + 1 }) s
  let was := s.dram.poison.contains k
  let listed := s.dram.listed.contains k
  let s := s.modDram fun m =>
    { m with mem := m.mem.write (sectorAddr k) (fit 64 d), poison := m.poison.filter (· ≠ k),
             listed := m.listed.filter (· ≠ k) }
  if was then
    let s := countDram x (fun c => { c with cleared := c.cleared + 1 }) s
    if listed then postDram x 0x104 (BitVec.ofNat 64 (sectorAddr k)) s else s
  else s

/-- Full writes of consecutive sectors (R521). -/
def writeSectors (x : Nat) (d : List Byte) : Nat → State → State
  | 0, s => s
  | n + 1, s => writeSectors (x + 64) (d.drop 64) n (writeSector x (d.take 64) s)

/-- A write of a range that is a multiple of 64 B (R519). -/
def writeDram (x : Nat) (d : List Byte) (s : State) : State := writeSectors x d (d.length / 64) s

/-- What a partial write of one sector does (R520); the answer tells whether it was refused. -/
def partialWrite (x : Nat) (d : List Byte) (found : SectorCheck) (s : State) : State × Bool :=
  let k := sectorOf x
  let put := fun s : State => s.modDram fun m => { m with mem := m.mem.write x d }
  let merged := fun s => countDram x (fun c => { c with written := c.written + 1, merged := c.merged + 1 }) (put s)
  if !eccData s x then (countDram x (fun c => { c with written := c.written + 1 }) (put s), false)
  else
    let refuse := fun s : State =>
      postDram x 0x103 (BitVec.ofNat 64 (sectorAddr k)) (countDram x (fun c => { c with refused := c.refused + 1 }) s)
    if s.dram.poison.contains k then (refuse s, true)
    else match found with
      | .clean => (merged s, false)
      | .single => (merged (countCorrection x false s), false)
      | .uncorrectable => (refuse (poisonSector x 1 s), true)

/-- A range of DRAM whose contents become undefined. -/
def undefineDram (x n : Nat) (s : State) : State :=
  drawn (s.modDram fun m => { m with mem := m.mem.undefine x n s.draws })

/-- Total data-area rows of the enabled ECC regions (R586). -/
def eccRows (s : State) : Nat := s.dram.ecc.foldl (fun n p => n + (dataArea p.2).2 / 512) 0

/-- Address of the k-th data-area row of the enabled ECC regions, by increasing address (R586). -/
def eccRowAddr (s : State) (k : Nat) : Nat :=
  go (sortBy (fun r : Nat × Nat => r.1) (s.dram.ecc.map (·.2))) k
where
  /-- The row in the first region that reaches it. -/
  go : List (Nat × Nat) → Nat → Nat
    | [], _ => dramBase
    | r :: l, k => if k < (dataArea r).2 / 512 then r.1 + 512 * k else go l (k - (dataArea r).2 / 512)

end Sys2Proof.Machine
end

