-- ==== Sys2Proof/Machine/NodeBody.lean ====
section
/-!
DEFINITION. Node bodies (05, 07 to 10, 13, 15): the fields of each body, the body checks of GRAPH_LOAD, and the
address ranges a node reads and writes.
-/
namespace Sys2Proof.Machine

/-- A field of a node body by its byte numbers in the descriptor, where the body is bytes 64 to 255 (R183). -/
def bf (body : List Byte) (off n : Nat) : Nat := fld body (off - 64) n

/-- Descriptor bytes off to last of a body are zero. -/
def bz (body : List Byte) (off last : Nat) : Bool := zeros body (off - 64) (last + 1 - off)

/-- An 8 B address field: bytes 5 to 7 are zero (Table 8.7). -/
def addr8Ok (body : List Byte) (off : Nat) : Bool := decide (bf body off 8 < 2 ^ 40)

/-- A multiple of 512 B in the Loft, of 64 B in DRAM (Table 8.1). -/
def unitOf (x : Nat) : Nat := if x < dramBase then 512 else 64

/-- A range with both ends moved out to whole rows or sectors (R313). -/
def whole (r : Nat × Nat) : Nat × Nat :=
  let u := unitOf r.1
  (r.1 / u * u, if r.2 = 0 then 0 else (ceilDiv (r.1 + r.2) u - r.1 / u) * u)

/-- What a body asks for: whether its own checks pass, and the ranges it reads and writes. `pairs` are buffers that
must be disjoint from each other and from every other range (R344, R369). -/
structure BodyIo where
  ok : Bool
  reads : List (Nat × Nat)
  writes : List (Nat × Nat)
  pairs : List (Nat × Nat)
  deriving DecidableEq, Repr

/-! ### Images (R311, R312) -/

/-- An image: an image descriptor (Table 8.1), or a level with the size R311 gives it. -/
structure Img where
  addr : Nat
  fmt : Nat
  stride : Nat
  width : Nat
  height : Nat
  deriving DecidableEq, Repr

/-- Bytes per pixel of a format (Table 8.1). -/
def bpp (fmt : Nat) : Nat := if fmt = 0 then 1 else 2

/-- The image descriptor at a descriptor offset. -/
def imgAt (b : List Byte) (o : Nat) : Img :=
  { addr := bf b o 5, fmt := bf b (o + 5) 1, stride := bf b (o + 8) 4, width := bf b (o + 12) 2,
    height := bf b (o + 14) 2 }

/-- Bytes an image occupies (R312). -/
def Img.len (i : Img) : Nat := (i.height - 1) * i.stride + i.width * bpp i.fmt

def Img.range (i : Img) : Nat × Nat := (i.addr, i.len)

/-- The rules of Table 8.1 for the image descriptor at an offset. -/
def imgOk (b : List Byte) (o : Nat) : Bool :=
  let i := imgAt b o
  decide (i.addr % unitOf i.addr = 0) && decide (i.fmt < 3) && bz b (o + 6) (o + 7) && decide (i.stride % 64 = 0) &&
    decide (i.width * bpp i.fmt ≤ i.stride) && decide (i.stride ≤ 65536) && decide (16 ≤ i.width) &&
    decide (i.width ≤ 8192) && decide (2 ≤ i.height) && decide (i.height ≤ 8192)

/-- The size of level k (R311). -/
def levelSize (w h : Nat) : Nat → Nat × Nat
  | 0 => (w, h)
  | k + 1 => let p := levelSize w h k; (ceilDiv p.1 2, ceilDiv p.2 2)

/-- The level descriptor at an offset, for level k of an image (Table 8.2). -/
def levelAt (b : List Byte) (o : Nat) (src : Img) (k fmt : Nat) : Img :=
  let p := levelSize src.width src.height k
  { addr := bf b o 5, fmt := fmt, stride := 64 * bf b (o + 6) 2, width := p.1, height := p.2 }

/-- The rules of Table 8.2. -/
def levelOk (b : List Byte) (o : Nat) (i : Img) : Bool :=
  decide (i.addr % unitOf i.addr = 0) && bz b (o + 5) (o + 5) && decide (64 ≤ i.stride) && decide (i.stride ≤ 65536) &&
    decide (i.width * bpp i.fmt ≤ i.stride)

/-- Every level below a count is at least 8 × 8 px (R323, Table 8.13). -/
def levelsBig (src : Img) (levels : Nat) : Bool :=
  (List.range levels).all fun k => let p := levelSize src.width src.height k; decide (8 ≤ p.1) && decide (8 ≤ p.2)

/-- A step between images: a multiple of the unit of each address it moves, 0 with one image or nothing to move (Tables
8.3, 9.5). -/
def stepOk (step count : Nat) (addrs : List Nat) : Bool :=
  if count = 1 ∨ addrs = [] then decide (step = 0) else addrs.all fun a => decide (step % unitOf a = 0)

/-- One range per image of a node. -/
def stepped (count step : Nat) (r : Nat × Nat) : List (Nat × Nat) :=
  (List.range count).map fun i => (r.1 + i * step, r.2)

/-! ### WRP, PYR, FEA (08) -/

/-- The WRP body (Table 8.3). -/
def wrpIo (b : List Byte) (unit : Nat) : BodyIo :=
  let mode := bf b 64 1
  let count := bf b 67 1
  let ls := bf b 70 1
  let mx := bf b 72 2
  let my := bf b 74 2
  let ms := bf b 76 4
  let src := imgAt b 80
  let dst := imgAt b 96
  let mesh := bf b 112 5
  { ok := decide (unit = 0x10 ∨ unit = 0x11) && decide (mode < 2) && decide (bf b 65 1 < 2) && decide (bf b 66 1 < 2) &&
      decide (1 ≤ count) && decide (count ≤ 8) && bz b 71 71 && bz b 117 119 && bz b 168 255 && imgOk b 80 && imgOk b 96 &&
      decide (src.fmt = dst.fmt) && decide (src.fmt < 2) &&
      (decide (src.fmt = 1) || decide (bf b 68 2 < 256)) &&
      stepOk (bf b 120 4) count [src.addr] && stepOk (bf b 124 4) count [dst.addr] &&
      (if mode = 0 then bz b 70 70 && bz b 72 79 && bz b 112 116 && bz b 128 131
       else decide (3 ≤ ls) && decide (ls ≤ 7) && decide (2 ≤ mx) && decide (mx ≤ 1025) && decide (2 ≤ my) &&
         decide (my ≤ 1025) && decide (dst.width - 1 ≤ (mx - 1) * 2 ^ ls) && decide (dst.height - 1 ≤ (my - 1) * 2 ^ ls) &&
         decide (ms % 64 = 0) && decide (8 * mx ≤ ms) && decide (mesh % unitOf mesh = 0) &&
         stepOk (bf b 128 4) count [mesh] && bz b 132 167 && (decide (bf b 66 1 = 0) || bz b 68 69)),
    reads := stepped count (bf b 120 4) src.range ++
      (if mode = 0 then [] else stepped count (bf b 128 4) (mesh, (my - 1) * ms + 8 * mx)),
    writes := stepped count (bf b 124 4) dst.range, pairs := [] }

/-- The PYR body (Table 8.4). -/
def pyrLevel (b : List Byte) (k : Nat) : Img :=
  let src := imgAt b 80
  let fmt := if bf b 64 1 = 1 ∧ k + 1 < bf b 65 1 then 2 else src.fmt
  levelAt b (96 + 8 * k) src k fmt

/-- Levels a PYR node writes (Table 8.4). -/
def pyrOut (b : List Byte) : List Nat := (List.range (bf b 65 1)).filter fun k => decide (bf b 64 1 = 1) || decide (k ≠ 0)

def pyrIo (b : List Byte) (unit : Nat) : BodyIo :=
  let src := imgAt b 80
  let levels := bf b 65 1
  { ok := decide (unit = 0x12 ∨ unit = 0x13) && decide (bf b 64 1 < 2) && decide (2 ≤ levels) && decide (levels ≤ 8) &&
      decide (bf b 66 1 < 3) && bz b 67 67 && bz b 70 79 && bz b 160 255 && imgOk b 80 && decide (src.fmt < 2) &&
      (if bf b 66 1 = 2 then decide (src.fmt = 1) || decide (bf b 68 2 < 256) else bz b 68 69) &&
      levelsBig src levels && ((List.range 8).all fun k =>
        if (pyrOut b).contains k then levelOk b (96 + 8 * k) (pyrLevel b k) else bz b (96 + 8 * k) (103 + 8 * k)),
    reads := [src.range], writes := (pyrOut b).map fun k => (pyrLevel b k).range, pairs := [] }

/-- Level k of an FEA DETECT body (Table 8.5): level 0 is SRC. -/
def feaLevel (b : List Byte) (k : Nat) : Img :=
  let src := imgAt b 80
  if k = 0 then src else levelAt b (96 + 8 * k) src k 0

/-- The FEA body in DETECT mode (Table 8.5). -/
def detectIo (b : List Byte) (producer : Bool) : BodyIo :=
  let src := imgAt b 80
  let levels := bf b 65 1
  let desc := bit (bf b 66 1) 1
  let rec_ := bf b 160 5
  let dsc := bf b 168 5
  let sum := bf b 176 5
  { ok := decide (1 ≤ levels) && decide (levels ≤ 8) && decide (bf b 66 1 < 4) && decide (bf b 66 1 ≠ 2) &&
      decide (9 ≤ bf b 67 1) && decide (bf b 67 1 ≤ 12) && decide (1 ≤ bf b 68 1) && decide (bf b 68 1 ≤ 254) &&
      decide (4 ≤ bf b 69 1) && decide (bf b 69 1 ≤ 6) && decide (1 ≤ bf b 70 1) && decide (bf b 70 1 ≤ 16) && bz b 71 71 &&
      decide (1 ≤ bf b 72 2) && decide (bf b 72 2 ≤ 16384) && bz b 74 79 && imgOk b 80 && decide (src.fmt = 0) &&
      decide (src.width ≤ 4096) && decide (src.height ≤ 4096) && levelsBig src levels && bz b 96 103 &&
      ((List.range 8).all fun k => decide (k = 0) ||
        (if k < levels then levelOk b (96 + 8 * k) (feaLevel b k) else bz b (96 + 8 * k) (103 + 8 * k))) &&
      bz b 165 167 && bz b 173 175 && bz b 181 255 &&
      (if producer then decide (rec_ = 0) && decide (dsc = 0)
       else decide (rec_ % unitOf rec_ = 0) && (if desc then decide (dsc % unitOf dsc = 0) else decide (dsc = 0))) &&
      decide (sum % unitOf sum = 0),
    reads := (List.range levels).map fun k => (feaLevel b k).range,
    writes := (if producer then [] else (rec_, 32 * bf b 72 2) :: (if desc then [(dsc, 32 * bf b 72 2)] else [])) ++
      [(sum, 512)],
    pairs := [] }

/-- The FEA body in MATCH mode (Table 8.7). The sizes of the sets are known only at dispatch, so the checks count one
row of each (assumption log 16). -/
def matchIo (b : List Byte) : BodyIo :=
  let pm := bf b 65 1
  let plane := decide (pm = 1)
  let addrs := [80, 88, 96, 104, 112, 120, 144, 152] ++ (if pm = 0 then [] else [128])
  { ok := decide (pm < 3) && decide (bf b 66 1 < 2) && decide (bf b 67 1 ≤ 7) &&
      (decide (bf b 66 1 = 1) || decide (bf b 67 1 = 0)) && decide (1 ≤ bf b 68 1) && decide (bf b 68 1 ≤ 64) &&
      decide (1 ≤ bf b 69 1) && decide (bf b 69 1 ≤ 64) && decide (bf b 70 2 ≤ 256) && decide (1 ≤ bf b 72 1) &&
      decide (bf b 72 1 ≤ 16) && bz b 73 73 && decide (1 ≤ bf b 74 2) && decide (bf b 74 2 ≤ 1024) && bz b 76 79 &&
      bz b 160 255 && (addrs.all fun o => addr8Ok b o && decide (bf b o 8 % unitOf (bf b o 8) = 0)) &&
      (decide (pm ≠ 0) || bz b 128 135) &&
      (if plane then decide (bf b 136 4 % 64 = 0) && decide (1 ≤ bf b 140 2) && decide (bf b 140 2 ≤ 512) &&
        decide (1 ≤ bf b 142 2) && decide (bf b 142 2 ≤ 512) else bz b 136 143),
    reads := ([80, 88, 96, 104, 112, 120].map fun o => (bf b o 8, 512)) ++
      (if plane then [(bf b 128 8, (bf b 142 2 - 1) * bf b 136 4 + 4 * bf b 140 2)]
       else if pm = 2 then [(bf b 128 8, 512)] else []),
    writes := [(bf b 144 8, 512), (bf b 152 8, 512)], pairs := [] }

def feaIo (b : List Byte) (unit : Nat) (producer : Bool) : BodyIo :=
  let io := if bf b 64 1 = 0 then detectIo b producer else matchIo b
  { io with ok := io.ok && decide (unit = 0x18 ∨ unit = 0x19) && decide (bf b 64 1 < 2) }

/-! ### STE and FLO (09) -/

/-- Blocks of an image (R341). -/
def blocks (n : Nat) : Nat := ceilDiv n 16

/-- STRIDE of a prediction plane with BW entries of E bytes (R340). -/
def planeStride (bw e : Nat) : Nat := 64 * ceilDiv (bw * e) 64

/-- Bytes of a prediction plane (R340). -/
def planeLen (bw bh e : Nat) : Nat := 512 + bh * planeStride bw e

/-- Blocks of the plane read under PRED_SHIFT s (R341). -/
def shifted (n s : Nat) : Nat := ceilDiv n (2 ^ s)

/-- An optional 8 B address field: 0 means none. -/
def optAddr (b : List Byte) (o : Nat) : List Nat := if bf b o 8 = 0 then [] else [bf b o 8]

/-- The prediction fields that STE and FLO share (Tables 9.2, 9.5, 9.6): source, shift, the address fields. -/
def predOk (b : List Byte) (src shift p0 p1 out : Nat) : Bool :=
  decide (src < 3) && decide (shift ≤ 3) && (decide (src = 1) || decide (shift = 0)) &&
    ([p0, p1, out].all fun o => addr8Ok b o && decide (bf b o 8 % unitOf (bf b o 8) = 0)) &&
    (if src = 0 then bz b p0 (p0 + 7) && bz b p1 (p1 + 7) else if src = 1 then bz b p1 (p1 + 7)
     else bz b out (out + 7))

/-- The STE body (Table 9.5). -/
def steIo (b : List Byte) (unit : Nat) (producer tap : Bool) : BodyIo :=
  let src := bf b 71 1
  let l := imgAt b 80
  let r := imgAt b 96
  let count := bf b 192 1
  let bw := blocks l.width
  let bh := blocks l.height
  let bst := 64 * ceilDiv (4 * bw) 64
  let preds := if src = 0 then optAddr b 152 else if src = 1 then bf b 136 8 :: optAddr b 152
    else [bf b 136 8, bf b 144 8]
  let ps := bf b 184 4
  let bs := bf b 188 4
  let os := bf b 180 4
  let pin := planeLen (shifted bw (bf b 77 1)) (shifted bh (bf b 77 1)) 2
  let pout := planeLen bw bh 2
  let lr := bit (bf b 69 1) 0
  { ok := decide (unit = 0x14 ∨ unit = 0x15) && decide (bf b 64 1 < 2) && decide (bf b 65 1 ≠ 0) &&
      decide (bf b 65 1 < 16) && decide (1 ≤ bf b 66 1) && decide (bf b 66 1 ≤ 63) && decide (bf b 66 1 < bf b 67 1) &&
      decide (bf b 68 1 ≤ 15) && (lr || decide (bf b 68 1 = 0)) && decide (bf b 69 1 < 8) &&
      predOk b src (bf b 77 1) 136 144 152 && decide (bf b 72 2 ≤ 0x7FF0) && decide (bf b 74 2 ≤ 0x7FF0) &&
      (decide (src = 0) || bz b 72 73) && (decide (src ≠ 0) || (bz b 74 75 && bz b 76 76)) && decide (1 ≤ bf b 78 1) &&
      decide (1 ≤ bf b 79 1) && imgOk b 80 && imgOk b 96 && decide (l.fmt = r.fmt) && decide (l.fmt < 2) &&
      decide (l.width = r.width) && decide (l.height = r.height) && decide (l.width ≤ 4096) &&
      ([112, 120, 160, 168].all fun o => addr8Ok b o && decide (bf b o 8 % unitOf (bf b o 8) = 0)) &&
      (if bf b 112 8 = 0 then bz b 128 131 else decide (bf b 128 4 % 64 = 0) && decide (2 * l.width ≤ bf b 128 4)) &&
      (if bf b 120 8 = 0 then bz b 132 135 else decide (bf b 132 4 % 64 = 0) && decide (l.width ≤ bf b 132 4)) &&
      decide (bf b 168 8 ≠ 0) && decide (1 ≤ count) && decide (count ≤ 4) && bz b 193 255 &&
      stepOk (bf b 176 4) count [l.addr, r.addr] && stepOk os count (optAddr b 112 ++ optAddr b 120) &&
      stepOk ps count preds && stepOk bs count (optAddr b 160) &&
      (producer || tap || decide (bf b 112 8 ≠ 0) || decide (bf b 120 8 ≠ 0) || decide (bf b 152 8 ≠ 0) ||
        decide (src = 2)),
    reads := stepped count (bf b 176 4) l.range ++ stepped count (bf b 176 4) r.range ++
      (if src = 1 then stepped count ps (bf b 136 8, pin) else []),
    writes := (optAddr b 112).flatMap (fun a => stepped count os (a, (l.height - 1) * bf b 128 4 + 2 * l.width)) ++
      (optAddr b 120).flatMap (fun a => stepped count os (a, (l.height - 1) * bf b 132 4 + l.width)) ++
      (optAddr b 152).flatMap (fun a => stepped count ps (a, pout)) ++
      (optAddr b 160).flatMap (fun a => stepped count bs (a, bh * bst)) ++ [(bf b 168 8, 512 * count)],
    pairs := if src = 2 then stepped count ps (bf b 136 8, pout) ++ stepped count ps (bf b 144 8, pout) else [] }

/-- Levels 0 to 2 of the current FLO image (Table 9.6). -/
def floLevel (b : List Byte) (k : Nat) : Img :=
  let c := imgAt b 80
  if k = 0 then c else levelAt b (88 + 8 * k) c k 0

/-- O_k of a reference buffer (R356). -/
def refOffset (b : List Byte) : Nat → Nat
  | 0 => 0
  | k + 1 => refOffset b k + 512 * ceilDiv ((floLevel b k).height * (floLevel b k).stride) 512

/-- The FLO body (Table 9.6). -/
def floIo (b : List Byte) (unit : Nat) (producer : Bool) : BodyIo :=
  let src := bf b 66 1
  let c := imgAt b 80
  let bw := blocks c.width
  let bh := blocks c.height
  let bst := 64 * ceilDiv (4 * bw) 64
  let fb := bit (bf b 64 1) 0
  let carry := decide (bf b 192 1 = 0)
  let ref := 512 + refOffset b 3
  { ok := decide (unit = 0x16 ∨ unit = 0x17) && decide (bf b 64 1 < 8) && decide (bf b 65 1 ≤ 15) &&
      (fb || decide (bf b 65 1 = 0)) && predOk b src (bf b 68 1) 152 160 168 && decide (1 ≤ bf b 70 1) &&
      decide (1 ≤ bf b 71 1) && (decide (src = 0) || bz b 72 75) && (decide (src ≠ 0) || bz b 76 79) && imgOk b 80 &&
      decide (c.fmt = 0) && decide (c.width ≤ 4096) && decide (c.height ≤ 4096) && levelsBig c 3 &&
      levelOk b 96 (floLevel b 1) && levelOk b 104 (floLevel b 2) &&
      ([112, 120, 128, 136, 176, 184].all fun o => addr8Ok b o && decide (bf b o 8 % unitOf (bf b o 8) = 0)) &&
      (if bf b 128 8 = 0 then bz b 144 147 else decide (bf b 144 4 % 64 = 0) && decide (4 * c.width ≤ bf b 144 4)) &&
      (if bf b 136 8 = 0 then bz b 148 151 else decide (bf b 148 4 % 64 = 0) && decide (c.width ≤ bf b 148 4)) &&
      decide (bf b 184 8 ≠ 0) && decide (bf b 192 1 < 2) && (carry || bz b 120 127) && bz b 193 255 &&
      (producer || decide (bf b 128 8 ≠ 0) || decide (bf b 136 8 ≠ 0) || decide (bf b 168 8 ≠ 0) || decide (src = 2) ||
        carry),
    reads := ((List.range 3).map fun k => (floLevel b k).range) ++
      (if src = 1 then [(bf b 152 8, planeLen (shifted bw (bf b 68 1)) (shifted bh (bf b 68 1)) 4)] else []),
    writes := (optAddr b 128).map (fun a => (a, (c.height - 1) * bf b 144 4 + 4 * c.width)) ++
      (optAddr b 136).map (fun a => (a, (c.height - 1) * bf b 148 4 + c.width)) ++
      (optAddr b 168).map (fun a => (a, planeLen bw bh 4)) ++ (optAddr b 176).map (fun a => (a, bh * bst)) ++
      [(bf b 184 8, 512)],
    pairs := (bf b 112 8, ref) :: (if carry then [(bf b 120 8, ref)] else []) ++
      (if src = 2 then [(bf b 152 8, planeLen bw bh 4), (bf b 160 8, planeLen bw bh 4)] else []) }

/-- R314, as R344 qualifies it: no output overlaps an input, and paired buffers are disjoint from everything. -/
def BodyIo.disjoint (io : BodyIo) : Bool :=
  let w := io.writes.map whole
  let p := io.pairs.map whole
  !(w.any fun a => io.reads.any (overlap a)) && !anyPair overlap p &&
    !(p.any fun a => (io.reads ++ w).any (overlap a))

/-! ### NE (10) -/

/-- Element size in half bytes (Table 10.2). -/
def elemHalf : Nat → Nat
  | 0 => 1 | 1 | 2 | 3 | 4 => 2 | 5 | 6 | 7 | 8 => 4 | _ => 8

/-- A tensor descriptor (Table 10.5). -/
structure Tensor where
  addr : Nat
  role : Nat
  layout : Nat
  type : Nat
  h : Nat
  w : Nat
  c : Nat
  cg : Nat
  stride : Nat
  deriving DecidableEq, Repr

def tensorAt (b : List Byte) (k : Nat) : Tensor :=
  let o := 96 + 32 * k
  { addr := bf b o 5, role := bf b (o + 5) 1, layout := bf b (o + 6) 1, type := bf b (o + 7) 1, h := bf b (o + 8) 2,
    w := bf b (o + 10) 2, c := bf b (o + 12) 2, cg := bf b (o + 14) 2, stride := bf b (o + 16) 4 }

/-- Positions that share one row (R378). -/
def Tensor.q (t : Tensor) : Nat := 1024 / (t.cg * elemHalf t.type)

/-- Rows a ROWS tensor occupies (R378). -/
def Tensor.rows (t : Tensor) : Nat := ceilDiv t.c t.cg * t.h * ceilDiv t.w t.q

/-- Bytes a tensor occupies. -/
def Tensor.len (t : Tensor) : Nat :=
  match t.layout with
  | 0 => 512 * t.rows
  | 1 => (t.h - 1) * t.stride + t.w * (elemHalf t.type / 2)
  | _ => 512 * t.stride

def Tensor.range (t : Tensor) : Nat × Nat := (t.addr, t.len)

/-- The rules of Table 10.5. -/
def tensorOk (b : List Byte) (k : Nat) : Bool :=
  let t := tensorAt b k
  let o := 96 + 32 * k
  if t.role = 0 then bz b o (o + 31)
  else if t.role = 4 then decide (t.type < 0x0B) && bz b o (o + 4) && bz b (o + 6) (o + 6) && bz b (o + 8) (o + 31)
  else decide (t.role < 4) && decide (t.type < 0x0B) && bz b (o + 20) (o + 31) &&
    match t.layout with
    | 0 => decide (1 ≤ t.h) && decide (t.h ≤ 8192) && decide (1 ≤ t.w) && decide (t.w ≤ 8192) && decide (1 ≤ t.c) &&
        (List.range 11).any (fun i => decide (t.cg = 2 ^ i)) && decide (2 ≤ t.cg * elemHalf t.type) &&
        decide (t.cg * elemHalf t.type ≤ 1024) && decide (t.stride = 0) && decide (t.addr % 512 = 0)
    | 1 => (decide (t.type = 2) || decide (t.type = 7) || decide (t.type = 8)) && decide (16 ≤ t.w) && decide (t.w ≤ 8192) &&
        decide (2 ≤ t.h) && decide (t.h ≤ 8192) && decide (t.c = 1) && decide (t.cg = 0) && decide (t.stride % 64 = 0) &&
        decide (t.stride ≤ 65536) && decide (t.w * (elemHalf t.type / 2) ≤ t.stride) && decide (t.addr % unitOf t.addr = 0)
    | 2 => decide (t.type = 2) && decide (t.h = 0) && decide (t.w = 0) && decide (t.c = 0) && decide (t.cg = 0) &&
        decide (1 ≤ t.stride) && decide (t.stride ≤ 786432) && decide (t.addr % 512 = 0)
    | _ => false

/-- The tensors of an NE body. -/
def tensors (b : List Byte) : List Tensor := (List.range 5).map (tensorAt b)

/-- Weight rows an NE body reads (R386): region, first row within it, count. -/
def neWeights (b blob : List Byte) : Option (Nat × Nat × Nat) :=
  if bf b 68 1 = 0xFF then none else some (bf b 68 1, bf b 72 4, fld blob (bf b 64 4 + 28) 4)

/-- The rows of the weight region as a range, where the region exists. -/
def weightRange (s : State) (b blob : List Byte) : List (Nat × Nat) :=
  match neWeights b blob with
  | some (r, first, rows) => match tget s.loft.regions r with
    | some g => [(512 * (g.first + first), 512 * rows)]
    | none => []
  | none => []

/-- The least bound of an NE node in ns (R384). -/
def neMinBound (len cycles : Nat) : Nat := ceilDiv ((100 + ceilDiv len 256 + cycles) * 5) 6

/-- The NE body and its program header (R381 to R384). -/
def neIo (s : State) (b blob : List Byte) (unitCount bound : Nat) (consumer : Bool) : BodyIo :=
  let off := bf b 64 4
  let len := fld blob (off + 12) 4
  let ts := tensors b
  let mem := ts.filter fun t => decide (1 ≤ t.role) && decide (t.role ≤ 3)
  let outs := mem.filter fun t => decide (t.role ≠ 1)
  let rows := fld blob (off + 28) 4
  let noRegion := decide (bf b 68 1 = 0xFF)
  { ok := decide (off % 64 = 0) && decide (off + 64 ≤ blob.length) && decide (off + len ≤ blob.length) &&
      decide (slice blob off 4 = [0x4E, 0x45, 0x50, 0x47]) && decide (fld blob (off + 4) 1 = 1) &&
      decide (fld blob (off + 5) 1 = unitCount) && zeros blob (off + 6) 2 && decide (1 ≤ fld blob (off + 8) 4) &&
      decide (fld blob (off + 8) 4 ≤ 240000000) && decide (128 ≤ len) && decide (len ≤ 262144) && decide (len % 64 = 0) &&
      zeros blob (off + 26) 2 && decide (crcSkip (slice blob off len) 60 = fld blob (off + 60) 4) &&
      (noRegion || decide (bf b 68 1 ≤ 63)) && bz b 69 71 && bz b 76 79 && bz b 88 95 && addr8Ok b 80 &&
      decide (bf b 80 8 % unitOf (bf b 80 8) = 0) && (!noRegion || bz b 72 75) &&
      ((List.range 5).all fun k => tensorOk b k && decide (fld blob (off + 16 + 2 * k) 1 = (tensorAt b k).role) &&
        decide (fld blob (off + 17 + 2 * k) 1 = (tensorAt b k).type)) &&
      decide ((ts.filter fun t => t.role = 4).length = b2n consumer) &&
      ((ts.any fun t => t.role = 2) || decide (bf b 80 8 ≠ 0)) && (decide (rows = 0) == noRegion) &&
      decide (neMinBound len (fld blob (off + 8) 4) ≤ bound) &&
      !((List.range 5).any fun i => let t := tensorAt b i; (decide (t.role = 2) || decide (t.role = 3)) &&
        (((List.range 5).any fun j => let u := tensorAt b j
            decide (i ≠ j) && decide (1 ≤ u.role) && decide (u.role ≤ 3) && overlap t.range u.range) ||
          (weightRange s b blob).any (overlap t.range))),
    reads := ((mem.filter fun t => t.role = 1).map Tensor.range), writes := outs.map Tensor.range ++
      ((optAddr b 80).map fun a => (a, 512)),
    pairs := [] }

/-! ### The other kinds -/

/-- Rows a RESULT_OUT node reads, as a range (R533). -/
def resultRange (b : List Byte) : Nat × Nat := (bf b 64 8, 512 * ceilDiv (bf b 72 4) 512)

def resultIo (b : List Byte) : BodyIo :=
  { ok := addr8Ok b 64 && decide (bf b 64 8 % 512 = 0) && decide (1 ≤ bf b 72 4) && decide (bf b 72 4 ≤ 2 ^ 24) &&
      bz b 76 255,
    reads := [resultRange b], writes := [], pairs := [] }

/-- The GATE_COPY body (Table 13.4). -/
def gateIo (b : List Byte) (chip : Nat) : BodyIo :=
  let mcast := bit (bf b 65 1) 0
  let local_ := (bf b 80 8, 512 * bf b 76 4)
  { ok := decide (bf b 64 1 < 2) && decide (bf b 65 1 < 4) && (!mcast || decide (bf b 64 1 = 0)) &&
      (mcast || (decide (bf b 65 1 = 0) && decide (bf b 66 1 = 0))) && decide (bf b 66 1 < 16) &&
      decide (bf b 67 1 < 16) && (decide (bf b 67 1 = chip) == mcast) && decide (bf b 68 1 ≤ 63) &&
      decide (1 ≤ bf b 69 1) && decide (bf b 69 1 ≤ 8) && bz b 70 71 && decide (bf b 72 4 + bf b 76 4 ≤ 2 ^ 20) &&
      decide (1 ≤ bf b 76 4) && decide (bf b 76 4 ≤ 262144) && addr8Ok b 80 && decide (bf b 80 8 % 512 = 0) &&
      bz b 88 255,
    reads := if bf b 64 1 = 0 then [local_] else [], writes := if bf b 64 1 = 0 then [] else [local_], pairs := [] }

def waitIo (b : List Byte) : BodyIo :=
  { ok := decide (bf b 64 2 ≤ 511) && decide (bf b 66 1 < 2) && bz b 67 255, reads := [], writes := [], pairs := [] }

def signalIo (b : List Byte) : BodyIo :=
  { ok := decide (bf b 64 2 ≤ 511) && decide (bf b 66 1 < 2) && bz b 67 67 && bz b 70 255 &&
      (decide (bf b 66 1 = 1) || decide (1 ≤ bf b 68 2)),
    reads := [], writes := [], pairs := [] }

def laneIo (b : List Byte) : BodyIo :=
  { ok := decide (bf b 64 1 ≤ 7) && decide (bf b 65 1 ≤ 3) && decide (bf b 66 1 ≤ 2) && bz b 67 255,
    reads := [], writes := [], pairs := [] }

/-! ### All kinds -/

/-- What a node's body asks for. -/
def bodyIo (s : State) (n : Node) (body blob : List Byte) : BodyIo :=
  match n.kind with
  | .engine =>
    if n.unit < 0x12 then wrpIo body n.unit
    else if n.unit < 0x14 then pyrIo body n.unit
    else if n.unit < 0x16 then steIo body n.unit n.producer n.tap
    else if n.unit < 0x18 then floIo body n.unit n.producer
    else feaIo body n.unit n.producer
  | .ne => neIo s body blob n.unitCount n.bound n.consumer
  | .laneInput => laneIo body
  | .tetherWait => waitIo body
  | .tetherSignal => signalIo body
  | .resultOut => resultIo body
  | .gateCopy => gateIo body s.boot.config.chip

/-- The body checks of a node's own chapter: its rules, the place of every range, the disjointness of R314 (R315, R370,
R384, R312). -/
def bodyOk (s : State) (n : Node) (body blob : List Byte) : Bool :=
  let io := bodyIo s n body blob
  io.ok && ((io.reads ++ io.writes ++ io.pairs).all fun r => inLoft r.1 r.2 || inDram s r.1 r.2) &&
    (decide (n.kind ≠ .engine) || io.disjoint)

/-- A range lies in a contract's entries (R190): in the union of its Loft entries, or of its DRAM entries. -/
def inContract (c : Contract) (r : Nat × Nat) : Bool :=
  if r.1 < dramBase then covered (c.loft.map fun e => (512 * e.1, 512 * e.2)) (c.loft.length + 1) r
  else covered c.dram (c.dram.length + 1) r
where
  /-- Whether ranges cover a range, taken from its start on. -/
  covered (es : List (Nat × Nat)) : Nat → Nat × Nat → Bool
    | 0, r => decide (r.2 = 0)
    | k + 1, r =>
      if r.2 = 0 then true
      else match es.find? fun e => inside (r.1, 1) e with
        | some e => covered es k (e.1 + e.2, r.1 + r.2 - (e.1 + e.2))
        | none => false

/-- The tests of R190 that concern a node's body, with those of R385 and R534. -/
def bodyInside (s : State) (tenant : Nat) (n : Node) (body blob : List Byte) : Bool :=
  let c := s.contract tenant
  let io := bodyIo s n body blob
  ((io.reads ++ io.writes ++ io.pairs).all (inContract c)) &&
    (if n.kind = .tetherWait ∨ n.kind = .tetherSignal then inside (bf body 64 2, 1) (c.tetherFirst, c.tetherCount) else true) &&
    (if n.kind = .resultOut then !overlap (resultRange body) (512 * c.carafe.1, 512 * c.carafe.2) else true) &&
    (if n.kind = .ne then
      match neWeights body blob with
      | some (r, first, rows) =>
        (match tget s.loft.regions r with
         | some g => decide (g.tenant = tenant) && decide (first + rows ≤ g.count)
         | none => true)
      | none => true
     else true)

/-- The paired buffers a node writes in a window: those of the parity of its TICKNO (R343, R356). -/
def carryWrites (n : Node) (b : List Byte) (tickno : BitVec 32) : List (Nat × Nat) :=
  let odd := tickno.getLsbD 0
  if n.kind ≠ .engine then []
  else if 0x14 ≤ n.unit ∧ n.unit < 0x16 then
    let l := imgAt b 80
    if bf b 71 1 = 2 then
      stepped (bf b 192 1) (bf b 184 4) (bf b (if odd then 144 else 136) 8, planeLen (blocks l.width) (blocks l.height) 2)
    else []
  else if 0x16 ≤ n.unit ∧ n.unit < 0x18 then
    let c := imgAt b 80
    (if bf b 192 1 = 0 then [(bf b (if odd then 120 else 112) 8, 512 + refOffset b 3)] else []) ++
      (if bf b 66 1 = 2 then
        [(bf b (if odd then 160 else 152) 8, planeLen (blocks c.width) (blocks c.height) 4)] else [])
  else []

/-- A MATCH node of an FEA engine. -/
def isMatch (n : Node) (body : List Byte) : Bool := decide (n.kind = .engine) && decide (0x18 ≤ n.unit) && decide (bf body 64 1 = 1)

/-- The count a summary of a feature set gave at dispatch (R334). -/
def headCount (heads : List (Nat × List Byte)) (x : Nat) : Nat :=
  match heads.find? fun h => decide (h.1 = x) with
  | some h => min 16384 (fld h.2 0 2)
  | none => 0

/-- The ranges a node writes, with the rows it has read at its dispatch. -/
def outputRanges (s : State) (n : Node) (r : NodeRun) (blob : List Byte) : List (Nat × Nat) :=
  let b := r.body
  (if isMatch n b then [(bf b 144 8, 16 * headCount r.heads (bf b 80 8)), (bf b 152 8, 512)]
   else (bodyIo s n b blob).writes ++ carryWrites n b s.tick.tickno).map whole

/-- Ranges that no access of a node writes: resident rows, Carafe rows, backing ranges and check areas (R233, R234, R241,
R514). -/
def keptRanges (s : State) : List (Nat × Nat) :=
  (s.loft.regions.map fun p => (512 * p.2.first, 512 * p.2.count)) ++
    ((List.range 4).map fun n => let c := (s.contract n).carafe; (512 * c.1, 512 * c.2)) ++
    (s.loft.regions.map fun p => backing p.2) ++ (s.dram.ecc.map fun p => checkArea p.2)

/-- What of a range lies outside another. -/
def minus (r p : Nat × Nat) : List (Nat × Nat) :=
  if overlap r p then
    [(r.1, p.1 - r.1), (p.1 + p.2, r.1 + r.2 - (p.1 + p.2))].filter fun q => decide (0 < q.2)
  else [r]

/-- What two ranges share. -/
def meet (r p : Nat × Nat) : Nat × Nat := (max r.1 p.1, min (r.1 + r.2) (p.1 + p.2) - max r.1 p.1)

/-- The part of a range that a node of a tenant can have written. -/
def writablePart (s : State) (tenant : Nat) (r : Nat × Nat) : List (Nat × Nat) :=
  let c := s.contract tenant
  let mine := if r.1 < dramBase then c.loft.map fun e => (512 * e.1, 512 * e.2) else c.dram
  (keptRanges s).foldl (fun l p => l.flatMap (minus · p))
    ((mine.map (meet r)).filter fun q => decide (0 < q.2) && (inLoft q.1 q.2 || inDram s q.1 q.2))

end Sys2Proof.Machine
end

