-- ==== Sys2Proof/Machine/ResultOps.lean ====
section
/-!
DEFINITION. Result rings: readiness of results, descriptors, interrupts (15).
-/
namespace Sys2Proof.Machine

/-- A result ring of a tenant. -/
def State.resultRing (s : State) (tenant m : Nat) : Option ResultRing := tget s.egress.rings (64 * tenant + m)

def State.modResultRing (s : State) (tenant m : Nat) (f : ResultRing → ResultRing) : State :=
  s.modEgress fun e => { e with rings := tmod e.rings (64 * tenant + m) f }

/-- Descriptors written or reserved and not yet released (R532). -/
def ResultRing.held (r : ResultRing) : Nat := r.live.length + (r.queue.filter (·.started)).length

/-- A descriptor slot is free: at most depth − 1 are written or reserved (R532). -/
def ResultRing.slotFree (r : ResultRing) : Bool := decide (r.held < depth r.descLog - 1)

/-- Whether a page index is held by a written and unreleased descriptor (R539). -/
def ResultRing.pageHeld (r : ResultRing) (i : Nat) : Bool :=
  r.live.any fun d => decide ((i + r.pageCount - d.1) % r.pageCount < d.2)

/-- A result joins its ring when its instance ends; it is lost if the ring is frozen (R538, R549). -/
def queueResult (tenant m : Nat) (r : Result) (s : State) : State :=
  s.modResultRing tenant m fun g =>
    if g.frozen then { g with lost := min 0xFFFF (g.lost + 1) }
    else { g with queue := g.queue ++ [r] }

/-- STATUS of a descriptor (R154, R542). -/
def Result.code (r : Result) : Nat :=
  if r.status = .ok ∧ r.dropped ≠ 0 then Status.outputDropped.code else r.status.code

/-- The 32 B descriptor (Table 15.1). -/
def Result.descriptor (r : Result) (generation lost : Nat) : List Byte :=
  le 2 generation ++ le 2 r.code ++ le 1 r.slot ++ le 1 r.mode ++ le 2 r.input.code ++ le 4 r.tickno.toNat ++
    le 4 r.stc.toNat ++ le 4 (if r.delivered = 0 then 0 else r.firstPage) ++ le 2 r.delivered ++ le 2 r.dropped ++
    le 2 lost ++ le 2 r.firstCut ++ le 4 r.endUs

/-- GENERATION of the n-th descriptor written to a ring, counting from 0 (R543). -/
def generation (descLog n : Nat) : Nat := (n / depth descLog) % 65535 + 1

/-- The descriptor write is signalled: INT_CAUSE.RESULT, and the vector at RES_COUNT or when RES_TIME is 0 (R551). -/
def signalResult (tenant m : Nat) (s : State) : State :=
  let s := setCause tenant 0b000100 s
  match s.resultRing tenant m with
  | none => s
  | some g =>
    if g.resCount ≤ g.unsignalled + 1 ∨ g.resTimeUs = 0 then
      sendVector tenant g.vector (s.modResultRing tenant m fun g => { g with unsignalled := 0, oldest := none })
    else s.modResultRing tenant m fun g =>
      { g with unsignalled := g.unsignalled + 1, oldest := some (g.oldest.getD s.now) }

/-- One item leaves the endpoint queue: a page, or a descriptor, which is then signalled (R540, R541). -/
def sendItem (i : EndpointItem) (s : State) : State :=
  match i with
  | .page tenant _ addr data => emitWrite tenant addr data false s
  | .descriptor tenant m addr data => signalResult tenant m (emitWrite tenant addr data false s)

/-- Items of functions that may issue requests leave the queue in order, passing those of functions that may not
(R540); without credits nothing leaves. -/
def sendQueued (credits : Bool) (s : State) : State :=
  if credits then
    let go := s.egress.queue.filter fun i =>
      match i with | .page n _ _ _ => s.mayRequest n | .descriptor n _ _ _ => s.mayRequest n
    let stay := s.egress.queue.filter fun i =>
      match i with | .page n _ _ _ => !s.mayRequest n | .descriptor n _ _ _ => !s.mayRequest n
    go.foldl (fun s i => sendItem i s) (s.modEgress fun e => { e with queue := stay })
  else s

/-- The descriptor of the ring's front result is queued: the result leaves the ring, its slot and pages are held until
the host releases them (R541 to R543). -/
def queueDescriptor (tenant m : Nat) (s : State) : State :=
  match s.resultRing tenant m with
  | none => s
  | some g =>
    match g.queue with
    | [] => s
    | r :: rest =>
      let addr := g.descBase + BitVec.ofNat 64 (32 * g.tail)
      let item := EndpointItem.descriptor tenant m addr (r.descriptor (generation g.descLog g.written) g.lost)
      (s.modResultRing tenant m fun g =>
        { g with queue := rest, lost := 0, written := g.written + 1, tail := (g.tail + 1) % depth g.descLog,
                 live := g.live ++ [(r.firstPage, r.delivered)],
                 pagePtr := if r.delivered = 0 then g.pagePtr else (r.firstPage + r.delivered) % g.pageCount }).modEgress
        fun e => { e with queue := e.queue ++ [item] }

/-- Pages a Carafe holds (R535). -/
def carafePages (s : State) (tenant : Nat) : Nat := (s.contract tenant).carafe.2 / 8

/-- First row of a Carafe page. -/
def carafePageRow (s : State) (tenant page : Nat) : Nat := (s.contract tenant).carafe.1 + 8 * page

end Sys2Proof.Machine
end

