-- ==== Sys2Proof/Machine/DroverOps.lean ====
section
/-!
DEFINITION. The Drover (05, 16, with R44 to R50 of 02): readiness, dispatch, ends, faults, replay, tethers, instances.
-/
namespace Sys2Proof.Machine

/-! ### Names -/

/-- Tenant and slot of a graph key. -/
def tenantOf (g : Nat) : Nat := g / 64
def slotOf (g : Nat) : Nat := g % 64

/-- A node with no fields set, for indices beyond a graph. -/
def Node.none : Node :=
  { kind := .tetherSignal, producer := false, consumer := false, tap := false, unit := 0xFF, unitCount := 0,
    partner := 0xFFFF, port := 0xFF, preds := [], bound := 0, tags := [], endTether := 0xFFFF, endIncrement := 0,
    calFirst := 0, calCount := 0, replayId := 0xFFFF, overlays := [], body := [] }

/-- Node i of a graph. -/
def Graph.node (g : Graph) (i : Nat) : Node := g.nodes.getD i .none

/-- A node that has not started. -/
def NodeRun.reset : NodeRun :=
  { phase := .waiting, body := [], marks := [], calUsed := [], started := false, input := none, carafePage := none,
    weightState := 0xF, sent := 0, acked := 0, heads := [], wrote := [], streamed := 0, tapped := 0, taken := [] }

/-- The run of node i of an instance. -/
def Inst.run (i : Inst) (n : Nat) : NodeRun := i.nodes.getD n .reset

/-- A node of an instance changed. -/
def State.modRun (s : State) (g n : Nat) (f : NodeRun → NodeRun) : State :=
  s.modInst g fun i => { i with nodes := lmod i.nodes n f }

/-- Whether a node of an instance runs. -/
def NodeRun.running (r : NodeRun) : Bool := match r.phase with | .running _ => true | _ => false

/-- A node of an instance that runs now. -/
def State.nodeRunning (s : State) (g n : Nat) : Bool :=
  match s.inst g with | some i => (i.run n).running | none => false

/-- A window at zero, where none is open. -/
def Window.none : Window :=
  { t0 := 0, td := 0, tg := 0, tf := 0, tm := 0, te := 0, phase := .maintained, halted := true, skipped := false }

/-- The window that is open. -/
def State.win (s : State) : Window := s.tick.window.getD .none

/-- Dispatch is possible: OPEN, before t_d, no HALT, not skipped for heat (R44, R62, R600). -/
def State.inOpen (s : State) : Bool :=
  match s.tick.window with
  | some w => decide (s.now < w.td) && !w.halted && !w.skipped
  | none => false

/-! ### Reports -/

/-- A GRAPH event (R218). -/
def postGraph (g cause : Nat) (mode : ArmMode) (node value : Nat) (s : State) : State :=
  postTenant (tenantOf g) clsGraph cause (detail [(0, slotOf g), (8, mode.code), (16, node), (32, value)]) s

/-- A GRAPH event of an active instance. -/
def postInst (g cause node value : Nat) (s : State) : State :=
  match s.inst g with | some i => postGraph g cause i.spec.mode node value s | none => s

/-- A Drover event of the Tally trace (R608). -/
def traceNode (code g node arg : Nat) (s : State) : State := tallyDrover code (tenantOf g) (slotOf g) node arg s

/-- Counts of the window that opened last, and the running totals (R69). -/
def countWin (f : WindowCounts → WindowCounts) (s : State) : State :=
  s.modTick fun t => { t with win := f t.win, total := f t.total }

/-- Fault counters of a tenant. -/
def State.modFaults (s : State) (n : Nat) (f : FaultCounts → FaultCounts) : State :=
  s.modDrover fun d => { d with faults := lmod d.faults n f }

/-! ### Bounds, leases, units -/

/-- A time of a node's kind in DECAF (R592). -/
def stretch (k : NodeKind) (b : Nat) : Nat :=
  match k with
  | .ne => 2 * b
  | .engine | .resultOut | .gateCopy => ceilDiv (5 * b) 3
  | .laneInput | .tetherWait | .tetherSignal => b

/-- The bound in force (R592). -/
def nodeBound (s : State) (n : Node) : Nat := if s.power.state = .decaf then stretch n.kind n.bound else n.bound

/-- The units a node needs. -/
def Node.units (n : Node) : List Nat := (List.range n.unitCount).map (n.unit + ·)

/-- The lease entries a node's tags name (R205). -/
def nodeLeases (s : State) (tenant : Nat) (n : Node) : List Lease :=
  (n.tags.take n.unitCount).map fun t => (s.contract tenant).leases.getD t { unit := 0xFF, start := 0, stop := 0 }

/-- lease_start of a node in ns from t0 (R191). -/
def leaseStart (ls : List Lease) : Nat := ls.foldl (fun m l => max m (1000 * l.start)) 0

/-- The stream port of the pair of producer i: cluster and port (R203). -/
def streamPort (g : Graph) (i : Nat) : Nat × Nat := (((g.node (i + 1)).unit - 0x20) / 8, (g.node i).port)

/-- The producer of the pair a node is in, or the node itself. -/
def pairHead (g : Graph) (i : Nat) : Nat := if (g.node i).consumer then i - 1 else i

/-- The nodes dispatched together with a node (R202). -/
def pairOf (g : Graph) (i : Nat) : List Nat := if (g.node i).producer then [i, i + 1] else [i]

/-- Every running node: graph key and node index. -/
def runningNodes (s : State) : List (Nat × Nat) :=
  s.drover.insts.flatMap fun p =>
    ((List.range p.2.nodes.length).filter fun i => (p.2.run i).running).map fun i => (p.1, i)

/-- The node of a graph key and index. -/
def State.node (s : State) (g i : Nat) : Node :=
  match s.graph g with | some gr => gr.node i | none => .none

/-- Units in use. -/
def busyUnits (s : State) : List Nat := (runningNodes s).flatMap fun p => (s.node p.1 p.2).units

/-- Stream ports in use: busy until both nodes of their pair have ended (R203). -/
def busyPorts (s : State) : List (Nat × Nat) :=
  (runningNodes s).filterMap fun p =>
    match s.graph p.1 with
    | some gr => if (gr.node p.2).producer ∨ (gr.node p.2).consumer then some (streamPort gr (pairHead gr p.2)) else none
    | none => none

/-! ### Readiness (R197, R199) -/

/-- A node can be considered: nothing of its instance refused or stopped, its predecessors ended, its lease begun, its
replay set not waiting (R197, R563). -/
def nodeDue (s : State) (g : Nat) (gr : Graph) (inst : Inst) (i : Nat) : Bool :=
  let n := gr.node i
  !inst.closed && decide ((inst.run i).phase = .waiting) && decide (i < gr.nodes.length) &&
    (n.preds.all fun p => decide ((inst.run p).phase = .ended)) &&
    decide (s.win.t0 + leaseStart (nodeLeases s (tenantOf g) n) ≤ s.now) &&
    !(match inst.replays[n.replayId]? with | some r => r.waiting | none => false)

/-- The units and the stream port of the nodes dispatched with node i are free, and no node of the instance with a
lower index that names one of the units is still undispatched (R197). -/
def unitsFree (s : State) (gr : Graph) (inst : Inst) (i : Nat) : Bool :=
  let us := (pairOf gr i).flatMap fun j => (gr.node j).units
  !(us.any (busyUnits s).contains) &&
    (!(gr.node i).producer || !(busyPorts s).contains (streamPort gr i)) &&
    ((List.range i).all fun j => decide ((inst.run j).phase ≠ .waiting) || !((gr.node j).units.any us.contains))

/-- Node i, or its whole pair, is ready (R197, R202). `i` is the first node of its pair. -/
def nodeReady (s : State) (g : Nat) (i : Nat) : Bool :=
  match s.graph g, s.inst g with
  | some gr, some inst => ((pairOf gr i).all (nodeDue s g gr inst)) && unitsFree s gr inst i
  | _, _ => false

/-- Another instance that activated first, or at the same instant with a lower tenant and slot, has a ready node that
needs one of the same units (R199). -/
def outranked (s : State) (g i : Nat) : Bool :=
  match s.graph g, s.inst g with
  | some gr, some inst =>
    let us := (pairOf gr i).flatMap fun j => (gr.node j).units
    s.drover.insts.any fun p =>
      decide (p.1 ≠ g) && (decide (p.2.activated < inst.activated) ||
        (decide (p.2.activated = inst.activated) && decide (p.1 < g))) &&
      match s.graph p.1 with
      | some h => (List.range h.nodes.length).any fun j =>
          !(h.node j).consumer && ((pairOf h j).any fun k => (h.node k).units.any us.contains) && nodeReady s p.1 j
      | none => false
  | _, _ => false

/-! ### Stopping -/

/-- The first cut node of an instance (Table 15.1). -/
def cutAt (i : Nat) (inst : Inst) : Inst :=
  { inst with firstCut := some (match inst.firstCut with | some c => min c i | none => i) }

/-- Every node of the instance that has not started is skipped, and none is considered again (R46). Nodes left unstarted by
HALT or by a window skipped for heat count as skipped too: the rules do not say (R62, R600; assumption log 72). -/
def skipRest (g : Nat) (s : State) : State :=
  match s.inst g with
  | none => s
  | some inst =>
    let ws := (List.range inst.nodes.length).filter fun i => decide ((inst.run i).phase = .waiting)
    let s := s.modInst g fun inst => { inst with
      closed := true, nodes := inst.nodes.map fun r => if r.phase = .waiting then { r with phase := .skipped } else r }
    match ws with
    | [] => s
    | w :: _ => traceNode 4 g w 0 (countWin (fun c => { c with skipped := c.skipped + ws.length })
        (s.modInst g (cutAt w)))

/-- A range of Loft rows or DRAM bytes becomes undefined (R48). -/
def undefineRange (s : State) (r : Nat × Nat) : State :=
  if r.2 = 0 then s
  else if r.1 < dramBase then undefineRows (rowOf r.1) (r.2 / 512) s else undefineDram r.1 r.2 s

/-- The Carafe rows that a RESULT_OUT node stages its pages in (R535). -/
def stagedRows (s : State) (g : Nat) (n : Node) (r : NodeRun) : List (Nat × Nat) :=
  match n.kind, r.carafePage with
  | .resultOut, some p => [(512 * carafePageRow s (tenantOf g) p, 4096 * ceilDiv (bf r.body 72 4) 4096)]
  | _, _ => []

/-- The outputs of a run of a node are undefined (R48): all it was writing, but for what no node writes (R233, R234, R241,
R514), and the Carafe pages it was staging. -/
def undefineOutputs (g i : Nat) (s : State) : State :=
  match s.graph g, s.inst g with
  | some gr, some inst =>
    ((outputRanges s (gr.node i) (inst.run i) gr.blob).flatMap (writablePart s (tenantOf g)) ++
      stagedRows s g (gr.node i) (inst.run i)).foldl undefineRange s
  | _, _ => s

/-- Router and port of a request key. -/
def reqPlace (key : Nat) : Nat × Nat := (key / 1024, key / 64 % 16)

/-- The requests of a stopped node are outstanding no longer; their tags stay held until the next quiesce (12), and
Tally records those it observes as failed (R607). -/
def dropRequests (g i : Nat) (s : State) : State :=
  let mine := s.fabric.reqs.filter fun p => decide (p.2.issuer = .node g i)
  let s := mine.foldl (fun s p =>
    match p.2.filter, tallySource (reqPlace p.1).1 (reqPlace p.1).2 with
    | some f, some src => tallyAccess src f (decide (p.2.pkt.op = 0x10)) p.2.pkt.addr p.2.pkt.rows false none s
    | _, _ => s) s
  s.modFabric fun f => { f with reqs := tfilter f.reqs fun _ r => decide (r.issuer ≠ .node g i),
                                tagHold := mine.foldl (fun t p => tset t p.1 s.now) f.tagHold }

/-- Causes of Table 16.2 that start a replay. -/
def replayable (cause : Nat) : Bool := [0x01, 0x02, 0x05, 0x0D, 0x0F].contains cause

/-- The cause of a mark when its node ends: a detected row whose region is FAILED by then is REGION_FAILED (R555). -/
def markCause (s : State) (m : Mark) : Nat :=
  match m.row with
  | some r => (match regionAt s r with
    | some (_, g) => if g.state = .failed then 0x03 else m.cause
    | none => m.cause)
  | none => m.cause

/-- A fault recorded for a tenant: counters and the newest of eight records (R580). -/
def recordFault (g i : Nat) (marks : List Mark) (out : FaultOutcome) (replays : Nat) (s : State) : State :=
  match marks with
  | [] => s
  | m :: _ =>
    let r : FaultRecord :=
      { tickno := s.tick.tickno, ns := (m.time - s.win.t0) % 2 ^ 28, outcome := out, replays := replays,
        slot := slotOf g, cause := m.cause, node := i, detail := m.detail }
    let causes := (marks.map (·.cause)).eraseDups
    traceNode 6 g i m.cause (s.modFaults (tenantOf g) fun c =>
      { c with taken := c.taken + b2n (decide (out ≠ .recordedOnly)), records := (r :: c.records).take 8,
               perCause := causes.foldl (fun l k => lmod l k fun v => min 0xFFFFFFFF (v + 1)) c.perCause })

/-- Marks with the causes they have now. -/
def settledMarks (s : State) (ms : List Mark) : List Mark := ms.map fun m => { m with cause := markCause s m }

/-- A running node leaves its units and its requests, as at R49. -/
def cutNode (g i : Nat) (ph : NodePhase) (s : State) : State :=
  halterCut g i (dropRequests g i ((undefineOutputs g i s).modRun g i fun r => { r with phase := ph }))

/-- A node stopped as at R49, and counted as guillotined; `why` is the argument of Table 18.3. -/
def stopOne (g i why : Nat) (s : State) : State :=
  match s.inst g with
  | none => s
  | some inst =>
    let used := match inst.replays[(s.node g i).replayId]? with | some r => r.used | none => 0
    let s := recordFault g i (settledMarks s (inst.run i).marks) .recordedOnly used s
    traceNode 5 g i why (countWin (fun c => { c with guillotined := c.guillotined + 1 })
      ((cutNode g i .stopped s).modInst g (cutAt i)))

/-- A running node stopped, with the stream consumer of a stopped producer (R49, R392). -/
def stopNode (g i why : Nat) (s : State) : State :=
  if s.nodeRunning g i then
    let s := stopOne g i why s
    if (s.node g i).producer ∧ s.nodeRunning g (i + 1) then stopOne g (i + 1) why s else s
  else s

/-- Every running node of an instance stopped. -/
def stopAll (g why : Nat) (s : State) : State :=
  match s.inst g with
  | none => s
  | some inst => (List.range inst.nodes.length).foldl (fun s i => stopNode g i why s) s

/-! ### Instance ends -/

/-- The more severe of two input statuses, in the order ABSENT, LATE, DAMAGED, OK (R299). -/
def worse (a b : Status) : Status := if a.code < b.code then b else a

/-- The input statuses of the nodes of an instance, in node order (R299). -/
def inputStatuses (gr : Graph) (inst : Inst) : List Status :=
  (List.range gr.nodes.length).foldl (fun acc i =>
    let n := gr.node i
    let st := if n.kind = .laneInput then (inst.run i).input.getD .ok
      else ((n.preds ++ (if n.consumer then [n.partner] else [])).map fun p => acc.getD p .ok).foldl worse .ok
    acc ++ [st]) []

/-- The status an instance ends with (R47, R63, R154, R568). -/
def instStatus (inst : Inst) : Status :=
  if inst.halted then .halted
  else if inst.nodes.all (fun r => !r.started) then .skipped
  else if inst.firstCut.isSome ∨ inst.aborted then .truncated
  else .ok

/-- An instance ends: its status, counts, result, and the disarming of a ONCE graph (R47, R69, R172, R193, R538). -/
def instEnd (g : Nat) (s : State) : State :=
  match s.graph g, s.inst g with
  | some gr, some inst =>
    let st := instStatus inst
    let s := s.modDrover fun d => { d with insts := tdel d.insts g }
    let s := countWin (fun c =>
      match st with
      | .halted => { c with instHalted := c.instHalted + 1 }
      | .skipped => { c with instSkipped := c.instSkipped + 1 }
      | .truncated => { c with instTruncated := c.instTruncated + 1 }
      | _ => c) s
    let s := s.modGraph g fun x => { x with latest := some (st, inst.tickno) }
    let s := s.modFaults (tenantOf g) fun c =>
      { c with unrecovered := c.unrecovered + b2n inst.faulted, aborted := c.aborted + b2n inst.aborted }
    let s := traceNode 9 g 0xFFFF (st.code % 256) s
    let s := match inst.spec.ring with
      | some m => queueResult (tenantOf g) m
          { slot := slotOf g, mode := inst.spec.mode.code, input := (inputStatuses gr inst).foldl worse .ok,
            tickno := inst.tickno, stc := inst.stc, status := st, firstCut := inst.firstCut.getD 0xFFFF,
            endUs := (s.now - s.win.t0) / 1000,
            pages := inst.staged.flatMap fun p => (List.range p.pages).map (p.first + ·),
            delivered := 0, dropped := inst.droppedPages, firstPage := 0, started := false, backlogged := false } s
      | none => s
    if inst.spec.mode = .once ∧ gr.arm.any (fun a => a.spec = inst.spec) then
      postGraph g 2 .once 0xFFFF 0 (s.modGraph g fun x => { x with arm := none })
    else s
  | _, _ => s

/-- No node of an instance runs or can still start. -/
def Inst.over (i : Inst) : Bool :=
  i.nodes.all fun r => match r.phase with | .ended | .stopped | .skipped => true | _ => false

/-- Instances that are over end, in increasing order of tenant and slot. -/
def sweepInsts (s : State) : State :=
  (s.drover.insts.filter fun p => p.2.over).foldl (fun s p => instEnd p.1 s) s

/-! ### Tethers (R211 to R217) -/

/-- A tether is met (R211). -/
def Tether.met (t : Tether) : Bool := decide (t.target ≠ 0) && decide (t.target ≤ t.count)

/-- ADD, saturating (Table 5.6). -/
def tetherAdd (n v : Nat) (s : State) : State := s.modTether n fun t => { t with count := min 0xFFFF (t.count + v) }

/-- SET_TARGET: the largest VALUE of a cycle (R213). -/
def tetherTarget (n v : Nat) (s : State) : State :=
  s.modTether n fun t =>
    let v := if t.setAt = some s.now then max t.target v else v
    { t with target := v, setAt := some s.now, fired := t.fired && decide (v ≠ 0) && decide (v ≤ t.count) }

/-! ### Activation (R193 to R196) -/

/-- Instance order: activations counted since reset. -/
def newInst (s : State) (gr : Graph) (spec : ArmSpec) : Inst :=
  { activated := s.now, order := s.drover.activations, tickno := s.tick.tickno, stc := s.tick.stc, spec := spec,
    nodes := gr.nodes.map fun n => { NodeRun.reset with calUsed := List.replicate n.calCount 0 },
    replays := gr.replays.map fun _ => { used := 0, closed := false, waiting := false, rows := [] },
    closed := false, halted := false, firstCut := none, staged := [], droppedPages := 0, faulted := false,
    aborted := false }

/-- A graph activates its instance of the window; in a window skipped for heat the instance ends SKIPPED at once
(R193, R600). -/
def activate (g : Nat) (spec : ArmSpec) (s : State) : State :=
  match s.graph g with
  | none => s
  | some gr =>
    let inst := newInst s gr spec
    let s := s.modDrover fun d => { d with insts := tset d.insts g inst, activations := d.activations + 1,
                                           graphs := tmod d.graphs g fun x => { x with activated := true } }
    let s := traceNode 0 g 0xFFFF spec.mode.code s
    if s.win.skipped then instEnd g (skipRest g s) else s

/-- A trigger of ON_FRAME_START or ON_TETHER arrives for an armed graph: it activates, or is counted as missed (R193,
R195). -/
def trigger (g : Nat) (spec : ArmSpec) (s : State) : State :=
  match s.graph g, s.tick.window with
  | some gr, some w =>
    if s.now < w.td ∧ w.halted = false ∧ gr.activated = false then activate g spec s
    else s.modGraph g fun x => { x with missed := x.missed + 1 }
  | _, _ => s

/-- A tether that has been touched and has become met triggers the ON_TETHER graphs armed on it, once until it is unmet again
(R195, R213). -/
def tetherTriggers (n : Nat) (s : State) : State :=
  if (s.tether n).met && !(s.tether n).fired then
    (s.drover.graphs.filterMap fun p =>
      match p.2.arm with
      | some a => if a.spec.mode = .onTether ∧ a.spec.tether = n then some (p.1, a.spec) else none
      | none => none).foldl (fun s p => trigger p.1 p.2 s) (s.modTether n fun t => { t with fired := true })
  else s

/-! ### Node ends (R200) -/

/-- A node ends normally: its set closes if it is LAST, END_TETHER is added (R200, R562). The answer names the tether
touched. -/
def endCore (g i : Nat) (s : State) : State × List Nat :=
  match s.graph g, s.inst g with
  | some gr, some inst =>
    let n := gr.node i
    let s := traceNode 2 g i 0 (s.modRun g i fun r => { r with phase := .ended })
    let closing := match gr.replays[n.replayId]?, inst.replays[n.replayId]? with
      | some (_, last), some r => decide (last = i) && !r.closed
      | _, _ => false
    let again := match inst.replays[n.replayId]? with | some r => decide (0 < r.used) | none => false
    let s := if closing then
        (s.modInst g fun x => { x with replays := lmod x.replays n.replayId fun r => { r with closed := true } }).modFaults
          (tenantOf g) fun c => { c with closedAfterReplay := c.closedAfterReplay + b2n again }
      else s
    let s := halterCut g i s
    if n.endTether = 0xFFFF then (s, []) else (tetherAdd n.endTether n.endIncrement s, [n.endTether])
  | _, _ => (s, [])

/-- The first running TETHER_WAIT node whose tether is met (R214). -/
def waitMet (s : State) : Option (Nat × Nat) :=
  (runningNodes s).find? fun p =>
    match s.inst p.1 with
    | some inst => decide ((s.node p.1 p.2).kind = .tetherWait) && (s.tether (bf (inst.run p.2).body 64 2)).met
    | none => false

/-- Waits that are met end, and what their ends add to tethers is evaluated in turn; then triggers of every tether
touched (R213). -/
def resolve : Nat → List Nat → State → State
  | 0, _, s => s
  | k + 1, touched, s =>
    match waitMet s with
    | some (g, i) => let r := endCore g i s; resolve k (touched ++ r.2) r.1
    | none => touched.eraseDups.foldl (fun s n => tetherTriggers n s) s

/-- Tethers touched in this cycle are evaluated, then instances that are over end. -/
def settleTethers (touched : List Nat) (s : State) : State :=
  sweepInsts (resolve ((runningNodes s).length + 1) touched s)

/-- A node ends normally, with all that follows in the same cycle. -/
def endNode (g i : Nat) (s : State) : State :=
  let r := endCore g i s
  settleTethers r.2 r.1

/-! ### Aborts (R498 to R502, R568) -/

/-- GRAPH_ABORTED (Table 13.5). -/
def postAborted (g reason origin : Nat) (received : Bool) (stc : BitVec 32) (s : State) : State :=
  postTenant (tenantOf g) clsLink 0x106
    (detail [(0, slotOf g), (8, reason), (10, origin), (14, b2n received), (16, stc.toNat)]) s

/-- The device originates an ABORT for a graph's instance, once (R499, R500, R502). -/
def sendAbort (g reason : Nat) (stc : BitVec 32) (s : State) : State :=
  match s.graph g with
  | none => s
  | some gr =>
    let r := floodAbort gr.key (slotOf g) reason s.chip stc none s
    if r.2 then
      (postAborted g reason s.chip false stc r.1).modFaults (tenantOf g) fun c =>
        { c with abortsFault := c.abortsFault + b2n (decide (reason = 2)) }
    else r.1

/-- What the frame of a SYSTEM graph has written through gates of this device, if it does not run to its end (R250). -/
def spoilGates (g : Nat) (s : State) : State :=
  match s.graph g with
  | some gr => if gr.system then spoilGateRows gr.key s else s
  | none => s

/-- An instance ends as an aborted one (R568). -/
def abortInst (g : Nat) (s : State) : State :=
  spoilGates g (instEnd g (skipRest g (stopAll g 3 (s.modInst g fun i => { i with aborted := true }))))

/-! ### Faults (R555 to R567) -/

/-- An unrecovered fault of a node whose run has ended or been stopped (R567). -/
def unrecovered (g i : Nat) (s : State) : State :=
  let s := traceNode 5 g i 4 (countWin (fun c => { c with guillotined := c.guillotined + 1 })
    ((s.modRun g i fun r => { r with phase := .stopped }).modInst g fun x => { cutAt i x with faulted := true }))
  let s := if (s.node g i).producer ∧ s.nodeRunning g (i + 1) then stopOne g (i + 1) 4 s else s
  let s := skipRest g s
  match s.graph g, s.inst g with
  | some gr, some inst => if gr.system then sendAbort g 2 inst.stc s else s
  | _, _ => s

/-- Replay of a set (R563): running nodes stop, every node of the set is marked not started, and the set waits for the
refills and map-outs its detections started. In an instance that is closed no node is considered again (R46, R197). -/
def startReplay (g set : Nat) (s : State) : State :=
  match s.graph g, s.inst g with
  | some gr, some inst =>
    let (point, last) := gr.replays.getD set (0, 0)
    let members := (List.range (last + 1)).drop point
    let rows := (members.flatMap fun i => (inst.run i).marks.filterMap (·.row)).filter fun r => thas s.loft.refills r
    let used := match inst.replays[set]? with | some r => r.used | none => 0
    let s := members.foldl (fun s i => if s.nodeRunning g i then cutNode g i .stopped s else s) s
    let s := members.foldl (fun s i => s.modRun g i fun r =>
      if r.phase = .skipped then r
      else { NodeRun.reset with started := r.started, calUsed := List.replicate (gr.node i).calCount 0 }) s
    let s := s.modInst g fun x => { x with replays := lmod x.replays set fun r =>
      { r with used := r.used + 1, waiting := decide (rows ≠ []), rows := rows } }
    let s := traceNode 7 g point (used + 1) (s.modFaults (tenantOf g) fun c => { c with replays := c.replays + 1 })
    if inst.closed then skipRest g s else s
  | _, _ => s

/-- The outcome of a run with faults (R558, R562, R564): the replay set's use so far, and the outcome. -/
def faultOutcome (s : State) (g i : Nat) (marks : List Mark) : Nat × FaultOutcome :=
  match s.inst g with
  | none => (0, .unrecovered)
  | some inst =>
    match inst.replays[(s.node g i).replayId]? with
    | none => (0, .unrecovered)
    | some r =>
      (r.used, if r.closed ∨ !(marks.all fun m => replayable m.cause) then .unrecovered
        else if 2 ≤ r.used then .limit else .replayed)

/-- The Drover takes the faults of one run of a node (R555 to R564). -/
def takeFault (g i : Nat) (marks : List Mark) (s : State) : State :=
  let out := faultOutcome s g i marks
  let s := recordFault g i marks out.2 out.1 s
  match out.2 with
  | .replayed => startReplay g (s.node g i).replayId s
  | _ => unrecovered g i s

/-- A detection or poison is recorded against the run of a node (R555). -/
def markNode (g i cause detail : Nat) (row : Option Nat) (s : State) : State :=
  if s.nodeRunning g i then
    s.modRun g i fun r => { r with marks := r.marks ++ [{ cause := cause, time := s.now, detail := detail, row := row }] }
  else s

/-- DETAIL of a record that names a Loft row, a DRAM sector, a fabric destination, or nothing (Table 16.6). -/
def detailRow (row : Nat) : Nat := row
def detailSector (x : Nat) : Nat := 2 ^ 30 + sectorOf x % 2 ^ 29
def detailFabric (node reason : Nat) : Nat := 2 ^ 31 + node % 256 + (reason % 256) * 256
def detailNone : Nat := 3 * 2 ^ 30

/-- An immediate fault stops its node at once and is taken (R555, R557). -/
def immediateFault (g i cause detail : Nat) (s : State) : State :=
  match s.inst g with
  | none => s
  | some inst =>
    if (inst.run i).running then
      let marks := settledMarks s (inst.run i).marks ++ [{ cause := cause, time := s.now, detail := detail, row := none }]
      settleTethers [] (takeFault g i marks (cutNode g i .stopped s))
    else s

/-- A node's work is done: it ends, or the Drover takes its data faults; its units are free either way (R200, R556). -/
def nodeDone (g i : Nat) (s : State) : State :=
  match s.inst g with
  | none => s
  | some inst =>
    let marks := settledMarks s (inst.run i).marks
    if marks = [] then endNode g i s
    else settleTethers [] (takeFault g i marks (cutNode g i .stopped s))

/-! ### Dispatch (R198, R44, R205) -/

/-- Why the nodes dispatched with node i are not admitted: 1 window end (R44, R45), 2 lease end (R205). -/
def refusal (s : State) (g : Nat) (gr : Graph) (i : Nat) : Option Nat :=
  let ns := (pairOf gr i).map gr.node
  if !s.inOpen || ns.any (fun n => decide (s.win.td < s.now + nodeBound s n)) then some 1
  else if ns.any (fun n => (nodeLeases s (tenantOf g) n).any fun l =>
      decide (s.win.t0 + 1000 * l.stop < s.now + nodeBound s n)) then some 2
  else none

/-- The body a node latches: its overlays copied from the parameter block (R208). -/
def latch (param : List Byte) (n : Node) : List Byte :=
  n.overlays.foldl (fun b o => patch b o.body (slice param o.param o.len)) n.body

/-- The state of the weight region an NE body names, coded as Table 6.4; 0xF for none (R387). -/
def weightStateOf (s : State) (n : Node) (body : List Byte) : Nat :=
  if n.kind ≠ .ne ∨ bf body 68 1 = 0xFF then 0xF
  else match tget s.loft.regions (bf body 68 1) with | some r => r.state.code | none => RegionState.empty.code

/-- A node is dispatched: counted as admitted, its body latched (R69, R208). -/
def start (g : Nat) (gr : Graph) (i : Nat) (s : State) : State :=
  let n := gr.node i
  traceNode 1 g i n.unit (countWin (fun c => { c with admitted := c.admitted + 1 })
    (s.modRun g i fun r => { r with
      phase := .running s.now, body := latch gr.param n, started := true, marks := [],
      weightState := weightStateOf s n (latch gr.param n) }))

/-- A LANE_INPUT node ends with an input status; the instance is cut short if ON_BAD says so (R298, R300). -/
def endLaneInput (g i : Nat) (st : Status) (s : State) : State :=
  match s.inst g with
  | none => s
  | some inst =>
    let onBad := bf (inst.run i).body 66 1
    let r := endCore g i (s.modRun g i fun r => { r with input := some st })
    let s := if (onBad = 1 ∧ st = .absent) ∨ (onBad = 2 ∧ st ≠ .ok) then skipRest g r.1 else r.1
    settleTethers r.2 s

/-- What a LANE_INPUT node does at its dispatch (R298). -/
def startLaneInput (g i : Nat) (s : State) : State :=
  match s.inst g with
  | none => s
  | some inst =>
    let lane := bf (inst.run i).body 64 1
    let c := s.ctx (4 * lane + bf (inst.run i).body 65 1)
    let absent := fun s : State => endLaneInput g i .absent
      (s.modLane lane fun l => { l with absent := l.absent + 1 })
    match c.binding with
    | none => absent s
    | some b =>
      if b.tenant ≠ tenantOf g ∨ c.image = none then absent s
      else match c.recorded with
        | some st => endLaneInput g i st s
        | none => s

/-- What a RESULT_OUT node does at its dispatch: it is given its Carafe pages, or its pages are dropped and it ends
(R535). -/
def startResultOut (g i : Nat) (s : State) : State :=
  match s.inst g with
  | none => s
  | some inst =>
    let t := tenantOf g
    let p := ceilDiv (bf (inst.run i).body 72 4) 4096
    let first := s.egress.carafeNext.getD t 0
    if first + p ≤ carafePages s t then
      (s.modEgress fun e => { e with carafeNext := e.carafeNext.set t (first + p) }).modRun g i fun r =>
        { r with carafePage := some first }
    else endNode g i (s.modInst g fun x => { x with droppedPages := x.droppedPages + p })

/-- What a node does in its dispatch cycle, by its kind. -/
def startKind (g : Nat) (gr : Graph) (i : Nat) (s : State) : State :=
  match s.inst g with
  | none => s
  | some inst =>
    let b := (inst.run i).body
    match (gr.node i).kind with
    | .engine | .ne | .gateCopy => s
    | .laneInput => startLaneInput g i s
    | .resultOut => startResultOut g i s
    | .tetherWait => if (s.tether (bf b 64 2)).met then endNode g i s else s
    | .tetherSignal =>
      let n := bf b 64 2
      let s := if bf b 66 1 = 0 then tetherAdd n (bf b 68 2) s else tetherTarget n (bf b 68 2) s
      let r := endCore g i s
      settleTethers (n :: r.2) r.1

/-- A ready node or pair is tested: dispatched, or refused with the rest of its instance skipped (R198, R46). -/
def dispatch (g i : Nat) (s : State) : State :=
  match s.graph g with
  | none => s
  | some gr =>
    match refusal s g gr i with
    | some why => sweepInsts (skipRest g (traceNode 3 g i why (postInst g 3 i why s)))
    | none =>
      let s := (pairOf gr i).foldl (fun s j => start g gr j s) s
      (pairOf gr i).foldl (fun s j => startKind g gr j s) s

/-! ### Ends of all instances -/

/-- Every active instance, in order of tenant and slot, ended by an operation. -/
def eachInst (f : Nat → State → State) (s : State) : State := s.drover.insts.foldl (fun s p => f p.1 s) s

/-- The guillotine at t_g (R49). -/
def guillotineAll (s : State) : State := eachInst (fun g s => spoilGates g (instEnd g (skipRest g (stopAll g 0 s)))) s

/-- HALT stops every running node and ends every active instance HALTED (R62, R63). -/
def haltAll (s : State) : State :=
  eachInst (fun g s =>
    spoilGates g (instEnd g (skipRest g (stopAll g 2 (s.modInst g fun i => { i with halted := true }))))) s

/-- A port going DOWN aborts every active SYSTEM instance (R502). -/
def abortSystem (s : State) : State :=
  eachInst (fun g s =>
    match s.graph g, s.inst g with
    | some gr, some inst => if gr.system then sendAbort g 1 inst.stc (abortInst g s) else s
    | _, _ => s) s

/-- A double error in Drover state aborts every active instance and is recorded for each of their tenants (R560). -/
def droverDouble (s : State) : State :=
  let gs := s.drover.insts.map (·.1)
  let s := [0, 1, 2, 3].foldl (fun s t =>
    match gs.find? fun g => tenantOf g = t with
    | some g => recordFault g 0xFFFF [{ cause := 0x10, time := s.now, detail := detailNone, row := none }] .unrecovered 0 s
    | none => s) s
  raiseAlert alertMem (eachInst abortInst s)

/-- Tethers at zero (R54, R217). -/
def resetTethers (s : State) : State := s.modDrover fun d => { d with tethers := List.replicate 512 .reset }

end Sys2Proof.Machine
end

