-- ==== Sys2Proof/Machine/GraphCheck.lean ====
section
/-!
DEFINITION. Graph images and the checks of GRAPH_LOAD, GRAPH_PARAM_SET and GRAPH_ARM on them (05; R455, R561).
-/
namespace Sys2Proof.Machine

/-! ### Layout (R182 to R188) -/

/-- Sections of an image: offset and size of the node table, predecessors, replays, calendar, parameters, NE programs
(Table 5.1). -/
def sections (d : List Byte) : List (Nat × Nat) :=
  [(fld d 32 4, 256 * fld d 8 2), (fld d 36 4, fld d 40 4), (fld d 44 4, 16 * fld d 10 2), (fld d 48 4, 16 * fld d 12 2),
   (fld d 52 4, fld d 14 2), (fld d 56 4, fld d 60 4)]

/-- A section lies in the image after the header at a multiple of 64 B; of size 0, it has offset 0 (R182). -/
def sectionOk (len : Nat) (p : Nat × Nat) : Bool :=
  if p.2 = 0 then decide (p.1 = 0)
  else decide (p.1 % 64 = 0) && decide (128 ≤ p.1) && decide (p.1 + p.2 ≤ len)

/-- The header rules of Table 5.1 and the placement rules of R182. -/
def headerOk (d : List Byte) : Bool :=
  decide (128 ≤ d.length) && decide (d.take 4 = [0x47, 0x52, 0x41, 0x46]) && decide (fld d 4 1 = 0) &&
    decide (fld d 5 1 = 1) && decide (1 ≤ fld d 6 1) && decide (fld d 7 1 < 2) && decide (1 ≤ fld d 8 2) &&
    decide (fld d 8 2 ≤ 4096) && decide (fld d 10 2 ≤ 1024) && decide (fld d 14 2 ≤ 4096) && decide (fld d 14 2 % 4 = 0) &&
    decide (fld d 20 4 = d.length) && (decide (fld d 7 1 = 1) || decide (fld d 24 2 = 0)) && zeros d 26 6 &&
    decide (fld d 40 4 % 2 = 0) && zeros d 64 60 && decide (crcSkip d 124 = fld d 124 4) &&
    (sections d).all (sectionOk d.length) && !anyPair overlap ((sections d).filter fun p => decide (0 < p.2))

/-- The kind of a code (Table 5.3). -/
def kindOf : Nat → Option NodeKind
  | 1 => some .engine | 2 => some .ne | 3 => some .laneInput | 4 => some .tetherWait | 5 => some .tetherSignal
  | 6 => some .resultOut | 7 => some .gateCopy | _ => none

/-- Node i of an image (Table 5.2, R184). -/
def parseNode (d : List Byte) (i : Nat) : Node :=
  let n := slice d (fld d 32 4 + 256 * i) 256
  { kind := (kindOf (fld n 2 1)).getD .tetherSignal, producer := bit (fld n 3 1) 0, consumer := bit (fld n 3 1) 1,
    tap := bit (fld n 3 1) 2, unit := fld n 4 1, unitCount := fld n 5 1, partner := fld n 6 2, port := fld n 8 1,
    preds := (List.range (fld n 10 2)).map fun k => fld d (fld d 36 4 + fld n 12 4 + 2 * k) 2,
    bound := fld n 16 4, tags := (List.range 8).map fun k => fld n (20 + k) 1, endTether := fld n 28 2,
    endIncrement := fld n 30 2, calFirst := fld n 32 2, calCount := fld n 34 2, replayId := fld n 36 2,
    overlays := ((List.range 2).map fun k => { param := fld n (40 + 4 * k) 2, body := fld n (42 + 4 * k) 1,
                                               len := fld n (43 + 4 * k) 1 : Overlay }).filter fun o => decide (0 < o.len),
    body := slice n 64 192 }

/-- The graph an image spells. -/
def parseGraph (d : List Byte) : Graph :=
  { key := fld d 6 1, system := bit (fld d 7 1) 0, peerMask := fld d 24 2,
    nodes := (List.range (fld d 8 2)).map (parseNode d),
    replays := (List.range (fld d 10 2)).map fun k => (fld d (fld d 44 4 + 16 * k) 2, fld d (fld d 44 4 + 16 * k + 2) 2),
    calendar := (List.range (fld d 12 2)).map fun k =>
      let o := fld d 48 4 + 16 * k
      { offset := fld d o 4, length := fld d (o + 4) 4, dest := fld d (o + 8) 1, control := decide (fld d (o + 9) 1 = 0),
        maxPackets := fld d (o + 10) 2 },
    param := slice d (fld d 52 4) (fld d 14 2), blob := slice d (fld d 56 4) (fld d 60 4), critPath := fld d 16 4,
    totalLen := d.length, arm := none, systemArm := none, latest := none, activated := false, missed := 0 }

/-- Raw rules of descriptor i that its parsed form does not keep: index, kind, reserved bytes, unused fields, the place
of its predecessor list (R183, R184, R189). -/
def rawNodeOk (d : List Byte) (i : Nat) : Bool :=
  let n := slice d (fld d 32 4 + 256 * i) 256
  decide (fld n 0 2 = i) && (kindOf (fld n 2 1)).isSome && decide (fld n 3 1 < 8) && zeros n 9 1 && zeros n 38 2 &&
    zeros n 48 16 && decide (fld n 10 2 ≤ 64) &&
    (if fld n 10 2 = 0 then zeros n 12 4 else decide (fld n 12 4 + 2 * fld n 10 2 ≤ fld d 40 4)) &&
    (decide (fld n 34 2 ≠ 0) || zeros n 32 2) &&
    (List.range 2).all fun k => decide (fld n (43 + 4 * k) 1 ≠ 0) || zeros n (40 + 4 * k) 3

/-- Raw rules of replay and calendar entries, whether or not a node uses them (R185, R187, R455). -/
def rawTablesOk (d : List Byte) : Bool :=
  ((List.range (fld d 10 2)).all fun k => zeros d (fld d 44 4 + 16 * k + 4) 12) &&
    (List.range (fld d 12 2)).all fun k =>
      decide (fld d (fld d 48 4 + 16 * k + 9) 1 < 2) && decide (1 ≤ fld d (fld d 48 4 + 16 * k + 10) 2) &&
        zeros d (fld d 48 4 + 16 * k + 12) 4

/-! ### Node rules -/

/-- A list without repeats. -/
def distinct (l : List Nat) : Bool := !anyPair (fun a b => decide (a = b)) l

/-- The unit rules of Table 5.2. -/
def unitsOk (n : Node) : Bool :=
  match n.kind with
  | .engine => decide (0x10 ≤ n.unit) && decide (n.unit ≤ 0x19) && decide (n.unitCount = 1)
  | .ne => decide (0x20 ≤ n.unit) && decide (n.unit ≤ 0x2F) && decide (1 ≤ n.unitCount) &&
      decide (n.unit % 8 + n.unitCount ≤ 8)
  | _ => decide (n.unit = 0xFF) && decide (n.unitCount = 0)

/-- Kinds that may carry calendar entries, and those whose entries stay on the device (R455). -/
def calendarKind : NodeKind → Bool
  | .engine | .ne | .resultOut | .gateCopy => true
  | _ => false

/-- The rules of Table 5.2, R184, R187 to R189 and R455 for one node. -/
def nodeOk (g : Graph) (chip i : Nat) : Bool :=
  let n := g.node i
  let used := (g.calendar.drop n.calFirst).take n.calCount
  unitsOk n && (!n.tap || (decide (n.kind = .engine) && (decide (n.unit = 0x14) || decide (n.unit = 0x15)))) &&
    (n.producer || n.consumer || (decide (n.partner = 0xFFFF) && decide (n.port = 0xFF))) &&
    (n.preds.all fun p => decide (p < i)) && distinct n.preds && (decide (n.kind ≠ .laneInput) || decide (n.preds = [])) &&
    decide (1 ≤ n.bound) && decide (n.bound ≤ 200000000) &&
    ((List.range 8).all fun k =>
      if k < n.unitCount then decide (n.tags.getD k 0xFF ≤ 15) else decide (n.tags.getD k 0xFF = 0xFF)) &&
    (decide (n.endTether = 0xFFFF) == decide (n.endIncrement = 0)) &&
    (decide (n.calCount = 0) || (calendarKind n.kind && decide (n.calFirst + n.calCount ≤ g.calendar.length))) &&
    (used.all fun c => decide (c.offset + c.length ≤ n.bound) && decide (1 ≤ c.maxPackets) &&
      (decide (n.kind = .gateCopy) || decide (chipOf c.dest = chip))) &&
    n.overlays.all fun o => decide (o.len ≤ 40) && decide (o.body + o.len ≤ 192) && decide (o.param + o.len ≤ g.param.length)

/-- Ancestors of each node through predecessor lists, as bit sets. -/
def ancestors (g : Graph) : List Nat :=
  g.nodes.foldl (fun acc n => acc ++ [n.preds.foldl (fun m p => m ||| acc.getD p 0 ||| 2 ^ p) 0]) []

/-- A streamed pair from its producer (R201), or a node with stream flags whose partner does not answer (R189). -/
def streamOk (g : Graph) (anc : List Nat) (i : Nat) : Bool :=
  let n := g.node i
  let q := g.node n.partner
  if n.producer = false ∧ n.consumer = false then true
  else
    decide (n.port ≤ 3) && decide (n.partner < g.nodes.length) && decide (q.partner = i) && (n.producer != n.consumer) &&
      (q.producer != q.consumer) && (n.producer == q.consumer) && decide (q.port = n.port) &&
      (if n.producer then
        decide (n.kind = .engine) && decide (0x14 ≤ n.unit) && (decide (n.unit ≤ 0x19)) && decide (q.kind = .ne) &&
          decide (n.partner = i + 1) && !bit (anc.getD (i + 1) 0) i
       else true)

/-! ### Replay rules (R185, R561) -/

/-- The replay set a node lies in, 0xFFFF for none. -/
def setOf (g : Graph) (i : Nat) : Nat :=
  match (List.range g.replays.length).find? fun k =>
      let r := g.replays.getD k (1, 0)
      decide (r.1 ≤ i) && decide (i ≤ r.2) with
  | some k => k
  | none => 0xFFFF

/-- One step from a set of nodes to their predecessors and stream partners. -/
def reachStep (g : Graph) (m : Nat) : Nat :=
  (List.range g.nodes.length).foldl (fun acc i =>
    let n := g.node i
    if bit m i then
      n.preds.foldl (fun a p => a ||| 2 ^ p) (if n.producer ∨ n.consumer then acc ||| 2 ^ n.partner else acc)
    else acc) m

/-- Nodes reached from a set through predecessor lists and stream partners. -/
def reach (g : Graph) : Nat → Nat → Nat
  | 0, m => m
  | k + 1, m => if reachStep g m = m then m else reach g k (reachStep g m)

/-- The rules of R185 and R561. -/
def replaysOk (g : Graph) : Bool :=
  (!g.system || decide (g.replays = [])) &&
    (g.replays.all fun r => decide (r.1 ≤ r.2) && decide (r.2 < g.nodes.length)) &&
    !anyPair (fun a b => overlap (a.1, a.2 + 1 - a.1) (b.1, b.2 + 1 - b.1)) g.replays &&
    ((List.range g.nodes.length).all fun i =>
      let n := g.node i
      decide (n.replayId = setOf g i) && (!n.producer || decide (setOf g i = setOf g (i + 1))) &&
        n.preds.all fun p => decide (setOf g p = 0xFFFF) || decide (setOf g p = setOf g i) ||
          decide (p = (g.replays.getD (setOf g p) (0, 0)).2)) &&
    (g.replays.all fun r =>
      let up := reach g g.nodes.length (2 ^ r.2)
      ((List.range (r.2 + 1)).drop r.1).all fun i =>
        let n := g.node i
        decide (n.kind ≠ .laneInput) && decide (n.kind ≠ .tetherSignal) && decide (n.kind ≠ .resultOut) &&
          (decide (i = r.2) || (bit up i && decide (n.endTether = 0xFFFF))))

/-! ### The checks of GRAPH_LOAD -/

/-- The bodies of a node that GRAPH_LOAD tests: the one the image holds, and the one its overlays make of it with the image's
parameter block (assumption log 83). -/
def loadBodies (g : Graph) (n : Node) : List (List Byte) := [n.body, latch g.param n]

/-- Every check of an image whose failure gives BAD_IMAGE (R189, R561). -/
def imageOk (s : State) (d : List Byte) : Bool :=
  headerOk d && rawTablesOk d && ((List.range (fld d 8 2)).all (rawNodeOk d)) &&
    (let g := parseGraph d
     let anc := ancestors g
     ((List.range g.nodes.length).all fun i =>
       nodeOk g s.boot.config.chip i && streamOk g anc i && (loadBodies g (g.node i)).all fun b => bodyOk s (g.node i) b g.blob) &&
     replaysOk g)

/-- Earliest finishes in ns (R191), with each node's bound given. -/
def finishes (s : State) (tenant : Nat) (g : Graph) (bound : Node → Nat) : List Nat :=
  (List.range g.nodes.length).foldl (fun f i =>
    let n := g.node i
    if n.consumer then f
    else
      let c := g.node (i + 1)
      let start := n.preds.foldl (fun m p => max m (f.getD p 0)) (leaseStart (nodeLeases s tenant n))
      if n.producer then
        let start := c.preds.foldl (fun m p => max m (f.getD p 0)) (max start (leaseStart (nodeLeases s tenant c)))
        (f.set (i + 1) (start + bound c)).set i (start + bound n)
      else f.set i (start + bound n)) (List.replicate g.nodes.length 0)

/-- The critical-path bound in µs (R191); stretched for DECAF (R592, R593). -/
def critPath (s : State) (tenant : Nat) (g : Graph) (stretched : Bool) : Nat :=
  ceilDiv ((finishes s tenant g fun n => if stretched then stretch n.kind n.bound else n.bound).foldl max 0) 1000

/-- The tests of R190 and R534 against the contract in force; those of bodies on both bodies of a node (assumption log 83). -/
def graphInside (s : State) (tenant : Nat) (g : Graph) : Bool :=
  let c := s.contract tenant
  let f := finishes s tenant g (·.bound)
  decide (g.key = c.key) && decide (g.critPath = critPath s tenant g false) &&
    ((List.range g.nodes.length).all fun i =>
      let n := g.node i
      ((List.range n.unitCount).all fun k =>
        match c.leases[n.tags.getD k 0xFF]? with
        | some l => decide (l.unit = n.unit + k) && decide (f.getD i 0 ≤ 1000 * l.stop)
        | none => false) &&
      (decide (n.endTether = 0xFFFF) || inside (n.endTether, 1) (c.tetherFirst, c.tetherCount)) &&
      (loadBodies g n).all fun b => bodyInside s tenant n b g.blob) &&
    (decide (c.carafe.2 ≠ 0) || !(g.nodes.any fun n => decide (n.kind = .resultOut)))

/-- Whether a weight region the graph names is EMPTY (R385). -/
def regionMissing (s : State) (g : Graph) : Bool :=
  g.nodes.any fun n => decide (n.kind = .ne) &&
    (let b := latch g.param n
     decide (bf b 68 1 ≠ 0xFF) && !thas s.loft.regions (bf b 68 1))

/-- Resident regions a graph names (R171, R385). -/
def namesRegion (g : Graph) (r : Nat) : Bool :=
  g.nodes.any fun n => decide (n.kind = .ne) && decide (bf (latch g.param n) 68 1 = r)

/-- Gates a graph names (R171): the number in the body of a GATE_COPY node, although that gate lies on another chip (Table 13.4;
assumption log 84). -/
def namesGate (g : Graph) (k : Nat) : Bool :=
  g.nodes.any fun n => decide (n.kind = .gateCopy) && decide (bf (latch g.param n) 68 1 = k)

/-- Bytes of all loaded images (R192). -/
def imageBytes (s : State) : Nat := s.drover.graphs.foldl (fun n p => n + p.2.totalLen) 0

/-- The checks of GRAPH_LOAD that need the image: BAD_IMAGE first, and the device's objects and the contract only for
an image that passes (R143, R189, R190, R385). -/
def imageChecks (s : State) (tenant : Nat) (d : List Byte) : List (Bool × Status) :=
  if imageOk s d then
    let g := parseGraph d
    [(regionMissing s g, .notFound), (!graphInside s tenant g, .outsidePartition)]
  else [(true, .badImage)]

end Sys2Proof.Machine
end

