-- ==== Sys2Proof/Machine/Accept.lean ====
section
/-!
DEFINITION. Acceptance of Acrega commands (03, 04): ring order, fences, the acceptance instant, the start timeout, the
order of checks, and what follows a completion.
-/
namespace Sys2Proof.Machine

/-- The opcodes of Tables 4.4 to 4.15; every other code is reserved (R140). -/
def opcodes : List Nat :=
  [0x0101, 0x0102, 0x0103, 0x0104, 0x0105, 0x0106, 0x0107, 0x0108, 0x0109, 0x0201, 0x0202, 0x0203,
   0x0301, 0x0302, 0x0303, 0x0304, 0x0305, 0x0306, 0x0401, 0x0402, 0x0403, 0x0404, 0x0405, 0x0406, 0x0407, 0x0408,
   0x0501, 0x0502, 0x0503, 0x0504, 0x0505, 0x0506, 0x0507, 0x0601, 0x0602, 0x0603, 0x0604, 0x0605,
   0x0701, 0x0702, 0x0801, 0x0802, 0x0803, 0x0901, 0x0902, 0x0A01, 0x0A02, 0x0B01, 0x0B02, 0x0B03, 0x0C01, 0x0C02]

/-- Opcodes accepted in a Standby state (R595). -/
def standbyOpcodes : List Nat :=
  [0x0101, 0x0102, 0x0103, 0x0104, 0x0105, 0x0108, 0x0109, 0x0202, 0x0306, 0x0B03]

/-- OPCODE of an entry (Table 3.3). -/
def opcode (e : Entry) : Nat := efld e 0 2

/-- A reserved bit of bytes 2 to 15 is nonzero, or CMD_ID is 0xFFFF (R86). -/
def badHeader (e : Entry) : Bool :=
  decide (8 ≤ efld e 2 1) || decide (efld e 3 1 ≠ 0) || decide (efld e 6 2 ≠ 0) || decide (efld e 12 4 ≠ 0) ||
    decide (efld e 4 2 = 0xFFFF)

/-- A command that has been accepted. -/
def Cmd.isAccepted (c : Cmd) : Bool := match c.phase with | .accepted _ _ => true | _ => false

/-- The first fetched and not accepted command of a ring, with its fetch order (R104). -/
def frontCmd (cmds : Table Cmd) (f r : Nat) : Option (Nat × Cmd) :=
  cmds.find? fun p => decide (p.2.fn.val = f) && decide (p.2.ring = r) && !p.2.isAccepted

/-- Whether two commands belong together under a fence: same ring, same function, or any (R105). -/
def fenced (flags : Nat) (c d : Cmd) : Bool :=
  bit flags 2 || (bit flags 1 && decide (c.fn = d.fn)) || (bit flags 0 && decide (c.fn = d.fn ∧ c.ring = d.ring))

/-- Whether the held completion of a command fetched earlier belongs to a fence of a command: its CQ entry is not written yet
(R105). -/
def heldFenced (s : State) (flags seq : Nat) (c : Cmd) : Bool :=
  [0, 1, 2, 3].any fun f => (s.fn f).held.any fun h =>
    match h with
    | .completion k r _ => decide (k < seq) &&
      (bit flags 2 || (bit flags 1 && decide (c.fn.val = f)) || (bit flags 0 && decide (c.fn.val = f ∧ c.ring = r)))
    | _ => false

/-- No earlier command that the fence names is without its CQ entry (R105). -/
def fenceOk (s : State) (seq : Nat) (c : Cmd) : Bool :=
  let flags := efld c.entry 2 1
  !(s.cmds.any fun p => decide (p.1 < seq) && fenced flags c p.2) && !heldFenced s flags seq c

/-- A command can be accepted: it has been fetched, Acrega is READY and has not stopped, its fences are met, and its ring
is not being reset or deleted (R105, R157). -/
def acceptable (s : State) (seq : Nat) (c : Cmd) : Bool :=
  decide (c.phase = .waiting) && decide (s.fw.state = .ready) && !s.fw.crashed && s.alive && fenceOk s seq c &&
    (match s.ring c.fn c.ring with | some g => g.stop.isNone | none => false)

/-- The next acceptance instant: no two commands share an acceptance nanosecond (R103). -/
def acceptInstant (s : State) : Instant :=
  match s.lastAccept with
  | some a => max s.now (a + 1)
  | none => s.now

/-- A command is accepted now (R103). -/
def markAccepted (seq : Nat) (s : State) : State :=
  let a := acceptInstant s
  { s with now := a, lastAccept := some a,
           cmds := tmod s.cmds seq fun c => { c with phase := .accepted a s.ticknoNow } }

/-- The start timeout is over: acceptance is later than the doorbell time plus TIMEOUT_US (R116, R117). -/
def timedOut (s : State) (c : Cmd) : Bool :=
  decide (efld c.entry 8 4 ≠ 0) && decide (c.doorbell + 1000 * efld c.entry 8 4 < s.now)

/-- A command past its start timeout: TIMED_OUT, no effect, TIMEOUTS increments (R117). -/
def timeOut (seq f : Nat) (s : State) : State :=
  finish seq .timedOut 0 (s.modFn f fun x => { x with timeouts := x.timeouts + 1 })

/-- The lowest failing code among the checks made (R143); `true` marks a failing check. -/
def firstFailing (cs : List (Bool × Status)) : Option Status :=
  (minBy (fun p : Bool × Status => p.2.code) (cs.filter (·.1))).map (·.2)

/-- The command runs on if no check fails; otherwise it completes with the lowest failing code (R143). -/
def checked (seq : Nat) (cs : List (Bool × Status)) (k : State → State) (s : State) : State :=
  match firstFailing cs with
  | some st => finish seq st 0 s
  | none => k s

/-- Ring errors and entries of a ring reset to empty with phase 1 (R101). -/
def Ring.cleared (g : Ring) : Ring :=
  { g with sqHead := 0, sqTail := 0, cqHead := 0, cqTail := 0, phase := true, reserved := 0, error := false,
           cause := .none, tails := [], unsignalled := 0, oldest := none, stop := none }

/-- A ring whose stop is due: every command accepted from it has ended (R157). -/
def dueStop (s : State) : Option (Nat × Nat × RingStop) :=
  [0, 1, 2, 3].findSome? fun f =>
    (s.fn f).rings.findSome? fun p =>
      match p.2.stop with
      | some st => if s.cmds.any fun c => decide (c.2.fn.val = f) && decide (c.2.ring = p.1) && c.2.isAccepted then none
        else some (f, p.1, st)
      | none => none

/-- A ring stop whose ring a function level reset has deleted, and whose commands have ended since (R77, R157). -/
def dueOrphan (s : State) : Option (Nat × Nat × Nat) :=
  [0, 1, 2, 3].findSome? fun f =>
    ((s.fn f).stops.find? fun p =>
      !(s.cmds.any fun c => decide (c.2.fn.val = f) && decide (c.2.ring = p.1) && c.2.isAccepted && c.2.muted)).map fun p =>
        (f, p.1, p.2)

/-- An admin ring that is closing and whose last CQ entry is written (R100). -/
def dueClose (s : State) : Option Nat :=
  [0, 1, 2, 3].find? fun f =>
    match s.ring f 0 with
    | some g => g.closing && !(s.cmds.any fun c => decide (c.2.fn.val = f) && decide (c.2.ring = 0)) &&
        !((s.fn f).held.any fun h => match h with | .completion _ 0 _ => true | _ => false)
    | none => false

/-- A fetched entry with a reserved opcode that has reached acceptance (R86). -/
def dueReserved (s : State) : Option (Nat × Cmd) :=
  s.cmds.find? fun p =>
    decide (frontCmd s.cmds p.2.fn p.2.ring = some p) && !opcodes.contains (opcode p.2.entry) && acceptable s p.1 p.2

/-- Entries of a ring that were fetched and not accepted, and completions not yet written, go with the ring (R157). -/
def dropRing (f r : Nat) (s : State) : State :=
  { s with cmds := tfilter s.cmds fun _ c => !(decide (c.fn.val = f) && decide (c.ring = r) && !c.isAccepted) }.modFn f
    fun x => { x with held := x.held.filter fun h => match h with | .completion _ k _ => decide (k ≠ r) | _ => true }

/-- A ring returns to empty, or is removed (R101, R157). -/
def stopRing (f r : Nat) (delete : Bool) (s : State) : State :=
  if delete then (dropRing f r s).modFn f fun x => { x with rings := tdel x.rings r }
  else (dropRing f r s).modRing f r Ring.cleared

/-- Ring 0 as ENABLE sets it up. -/
def adminRing (x : Func) : Ring :=
  { sqBase := x.adminSqBase, cqBase := x.adminCqBase, sqLog := x.adminSqLog, cqLog := x.adminCqLog, weight := 1,
    vector := 0, cqCount := 1, cqTimeUs := 0, sqHead := 0, sqTail := 0, cqHead := 0, cqTail := 0, phase := true,
    reserved := 0, error := false, cause := .none, tails := [], unsignalled := 0, oldest := none, stop := none,
    closing := false }

/-- READY sets once Acrega is READY; waiting events then go out (R98, R122). -/
def adminReady (f : Nat) (s : State) : State :=
  if (s.fn f).enable ∧ !(s.fn f).ready ∧ (s.fn f).cause ≠ .badSize ∧ s.fw.state = .ready then
    flushEvents f 66 (s.modFn f fun x => { x with ready := true })
  else s

/-- Ring 0 is set up, or ERROR sets where its size is reserved (R98). -/
def setupAdmin (f : Nat) (s : State) : State :=
  let x := s.fn f
  if 8 < x.adminSqLog ∨ 8 < x.adminCqLog then
    sendVector f 0 (setCause f 0b010000 (s.modFn f fun x => { x with error := true, cause := .badSize }))
  else adminReady f (s.modFn f fun x => { x with error := false, cause := .none, rings := tset x.rings 0 (adminRing x) })

/-- Ring 0 has closed (R100); where ENABLE was set again meanwhile it is set up now (assumption log 76). -/
def closeAdmin (f : Nat) (s : State) : State :=
  let s := s.modFn f fun x => { x with ready := false, rings := tdel x.rings 0 }
  if (s.fn f).enable then setupAdmin f s else s

/-- What follows a completion: ring stops and closings that waited for it, and entries with reserved opcodes that are
now at the front of their ring (R86, R100, R157). -/
def sweep : Nat → State → State
  | 0, s => s
  | n + 1, s =>
    match dueStop s with
    | some (f, r, st) => sweep n (finish st.by_ .ok 0 (stopRing f r st.delete s))
    | none =>
      match dueOrphan s with
      | some (f, r, k) => sweep n (finish k .ok 0 (s.modFn f fun x => { x with stops := x.stops.erase (r, k) }))
      | none =>
        match dueClose s with
        | some f => sweep n (closeAdmin f s)
        | none =>
          match dueReserved s with
          | some (seq, c) =>
            let s := markAccepted seq s
            sweep n (if timedOut s c then timeOut seq c.fn s else finish seq .badOpcode 0 s)
          | none => s

/-- Sweeps enough for every ring and every command in flight. -/
def settle (s : State) : State := sweep 200 s

/-- A Standby state, entry to one or exit from one in progress (R595). -/
def State.inStandby (s : State) : Bool :=
  decide (s.power.state = .standby) || decide (s.power.state = .standbyRetain) || s.power.job.isSome

/-- The command of a row is the front entry of its ring, equal to `e`, with the row's opcode, and can be accepted; a tick that
is due comes first (R70). -/
def takeFront (op : Nat) (r : RingRef) (e : Entry) (s : State) : Option (Nat × Cmd) :=
  match frontCmd s.cmds r.fn r.ring with
  | some (seq, c) =>
    if opcode e = op ∧ c.entry = e ∧ acceptable s seq c = true ∧ s.tickDue (acceptInstant s) = false then some (seq, c) else none
  | none => none

/-- What an accepted command does: the start timeout, the header, Standby, then its own checks and effect (R117, R86,
R595, R143). -/
def runAccepted (seq : Nat) (c : Cmd) (cs : State → List (Bool × Status)) (body : Nat → State → State)
    (s : State) : State :=
  if timedOut s c then timeOut seq c.fn s
  else checked seq
    ((badHeader c.entry, .badParam) :: (s.inStandby && !standbyOpcodes.contains (opcode c.entry), .badState) :: cs s)
    (body seq) s

/-- An Acrega command: accepted at its instant if it can be (assumption log 10), checked, carried out. -/
def command (op : Nat) (t : Instant) (r : RingRef) (e : Entry) (cs : State → List (Bool × Status))
    (body : Nat → State → State) (s : State) : Host.Outcome State Fault Refusal :=
  let s := advance t s
  match takeFront op r e s with
  | none => .next s
  | some (seq, c) => .next (settle (runAccepted seq c cs body (markAccepted seq s)))

/-- A host buffer can be read, or its read fails at once: Bus Master Enable is set, or the link is down (R78). -/
def bufferReady (s : State) (f : Nat) : Bool := s.mayRequest f || !s.linkUp

/-- An accepted command is in time and may be carried out in the power state (R117, R595). -/
def takenUp (s : State) (c : Cmd) : Bool :=
  !timedOut s c && !(s.inStandby && !standbyOpcodes.contains (opcode c.entry))

/-- The host buffer of an entry is read on a function's behalf (R142). -/
def readBuffer (f : Nat) (e : Entry) (s : State) : State :=
  emitRead f (BitVec.ofNat 64 (efld e 24 8)) (efld e 32 4) s

/-- The host buffer of a command is read at its acceptance, unless the command has timed out, or fails with BAD_PARAM, the
lowest code of its checks, whatever the buffer holds (R117, R142, R143; assumption log 77). -/
def requestBuffer (c : Cmd) (cs : List (Bool × Status)) (s : State) : State :=
  if !s.mayRequest c.fn || !takenUp s c || badHeader c.entry || cs.any (fun p => p.1 && decide (p.2 = .badParam)) then s
  else readBuffer c.fn c.entry s

/-- An Acrega command that reads its host buffer at acceptance, after an effect that acceptance alone has; `bs` are the checks
of the buffer. While Bus Master Enable is clear the read cannot be made, and the command waits for it (R78; assumption log
77). -/
def bufCommandAfter (first : State → State) (op : Nat) (t : Instant) (r : RingRef) (e : Entry)
    (cs bs : State → List (Bool × Status)) (body : Nat → State → State) (s : State) : Host.Outcome State Fault Refusal :=
  let s := advance t s
  match takeFront op r e s with
  | none => .next s
  | some (seq, c) =>
    if bufferReady s r.fn then
      let a := markAccepted seq s
      let a := if takenUp a c then first a else a
      .next (settle (runAccepted seq c (fun s => cs s ++ bs s) body (requestBuffer c (cs a) a)))
    else .next s

/-- An Acrega command that reads its host buffer at acceptance. -/
def bufCommand (op : Nat) (t : Instant) (r : RingRef) (e : Entry) (cs bs : State → List (Bool × Status))
    (body : Nat → State → State) (s : State) : Host.Outcome State Fault Refusal :=
  bufCommandAfter (fun s => s) op t r e cs bs body s

/-- The bytes a layout leaves unlisted are zero: `used` lists (offset, count) of the operand bytes in use (R141). -/
def unusedZero (e : Entry) (used : List (Nat × Nat)) : Bool :=
  (List.range 48).all fun i =>
    used.any (fun p => decide (p.1 ≤ 16 + i) && decide (16 + i < p.1 + p.2)) || decide (efld e (16 + i) 1 = 0)

/-- The BAD_PARAM check of unlisted operand bytes (R141). -/
def layout (e : Entry) (used : List (Nat × Nat)) : Bool × Status := (!unusedZero e used, .badParam)

/-- A BAD_PARAM check. -/
def badIf (p : Bool) : Bool × Status := (p, .badParam)

/-- The checks of a host buffer's BUF and LEN (R142). -/
def bufChecks (e : Entry) (limit : Nat) : List (Bool × Status) :=
  [badIf (decide (efld e 24 8 % 64 ≠ 0)), badIf (decide (efld e 32 4 = 0)), badIf (decide (limit < efld e 32 4))]

/-- The bus address of a host buffer. -/
def bufAddr (e : Entry) : BitVec 64 := BitVec.ofNat 64 (efld e 24 8)

/-- A command's host buffer is written whole, or the command fails with HOST_DMA_ERROR (R142, R143). -/
def writeBuffer (seq : Nat) (f : Nat) (addr : BitVec 64) (data : List Byte) (ok : Bool) (s : State) : State :=
  if ok then finish seq .ok 0 (hostWrite f addr data s) else finish seq .hostDmaError 0 s

/-- RESULT bytes 20 to 27 from fields at byte offsets (Table 3.4). -/
def resultBytes (l : List (Nat × Nat)) : BitVec 64 :=
  BitVec.ofNat 64 (l.foldl (fun acc p => acc + p.2 * 2 ^ (8 * (p.1 - 20))) 0)

end Sys2Proof.Machine
end

