-- ==== Sys2Proof/Machine/HostOps.lean ====
section
/-!
DEFINITION. Shared operations of the host window (03): host transactions, the fetch arbiter, firmware state, the BAR0
register map.
-/
namespace Sys2Proof.Machine

/-- A transaction of the host: it arrives once the endpoint is ready, and shows the data link in DL_Active (R643;
assumption log 17). -/
def hostRow (t : Instant) (f : State → State) (s : State) : Host.Outcome State Fault Refusal :=
  event t (fun s => if s.boot.endpointReady then f { s with linkUp := true } else s) s

/-! ### Writes held while a function may issue no request (R78) -/

/-- One held write goes out. -/
def sendHeld (f : Nat) (h : Held) (s : State) : State :=
  match h with
  | .completion _ r c => writeCompletion f r c s
  | .write addr data poisoned => emitWrite f addr data poisoned s
  | .message v => sendVector f v s

/-- Held writes of a function go out in order, then its waiting events (R78, R122). -/
def release (f : Nat) (s : State) : State :=
  if s.mayRequest f then
    let hs := (s.fn f).held
    flushEvents f 66 (hs.foldl (fun s h => sendHeld f h s) (s.modFn f fun x => { x with held := [] }))
  else s

/-! ### Firmware state (R129 to R132, R571 to R576) -/

/-- FW_STATE changes: INT_CAUSE.FW_STATE_CHANGE and vector 0 of every function (R123, R129). -/
def setFw (st : FwState) (s : State) : State :=
  let s := { s with fw := { s.fw with state := st, wasReady := s.fw.wasReady || decide (st = .ready) } }
  [0, 1, 2, 3].foldl (fun s f => sendVector f 0 (setCause f 0b100000 s)) s

/-- FW_STATE leaves READY for FAILED (R132, R576). -/
def failFw (s : State) : State := raiseAlert alertFwDown (setFw .failed s)

/-- A restart can begin: no data movement is in progress and every completion handed over is written (R150, R571). -/
def canRestart (s : State) : Bool :=
  decide (s.moves = []) && [0, 1, 2, 3].all fun f => (s.fn f).held.all fun h =>
    match h with | .completion .. => false | _ => true

/-- FW_STATE becomes RESTARTING (R129, R132, R150). -/
def beginRestart (s : State) : State :=
  raiseAlert alertFwDown (setFw .restarting { s with fw := { s.fw with
    restarts := (s.fw.restarts + 1) % 256, restartDue := false, restartSince := some s.now } })

/-- Acrega stops unasked: a restart, or FAILED at the fourth within 60 s (R573, R576). -/
def crash (s : State) : State :=
  if s.fw.state = .ready ∧ s.fw.crashed = false then
    let recent := s.fw.unrequested.filter fun i => decide (s.now ≤ i + 60000000000)
    let s := { s with fw := { s.fw with unrequested := s.now :: recent, crashed := true } }
    if 3 ≤ recent.length then failFw s
    else if canRestart s then beginRestart s
    else { s with fw := { s.fw with restartDue := true } }
  else s

/-- Every command accepted before the restart completes with BUSY, in acceptance order; what it had begun is left
without effect (R131, R158, R572). -/
def busyAll (s : State) : State :=
  let s := { s with flash := none, power := { s.power with job := none },
                    fns := s.fns.map fun x => { x with stops := [], rings := tmap x.rings fun _ g => { g with stop := none } } }
  let acc := sortBy (fun p : Nat × Nat => p.2) (s.cmds.filterMap fun p =>
    match p.2.phase with | .accepted t _ => some (p.1, t) | _ => none)
  acc.foldl (fun s p => finish p.1 .busy 0 s) s

/-! ### The fetch arbiter (R109 to R115) -/

/-- A ring may be fetched (R96, R98, R100, R110). -/
def eligible (s : State) (f r : Nat) : Bool :=
  match s.ring f r with
  | none => false
  | some g => !g.error && decide (0 < g.unfetched) && decide (0 < g.free) && s.mayRequest f && g.stop.isNone && !g.closing &&
      (decide (r ≠ 0) || (s.fn f).ready) &&
      s.cmds.all fun p => !(decide (p.2.fn.val = f) && decide (p.2.ring = r) && decide (p.2.phase = .waiting)) ||
        fenceOk s p.1 p.2

/-- Eligible rings 1 to 255 of a function. -/
def ioEligible (s : State) (f : Nat) : List Nat :=
  ((s.fn f).rings.map (·.1)).filter fun r => decide (r ≠ 0) && eligible s f r

/-- The first element of a list at or above a bound, else its first. -/
def wrapFrom (l : List Nat) (x : Nat) : Option Nat :=
  match l.find? fun y => decide (x ≤ y) with | some y => some y | none => l.head?

/-- The ring a function's turn grants, with the ring's run (R113). -/
def pickRing (s : State) (f : Nat) : Option (Nat × Nat) :=
  let l := ioEligible s f
  let cur := s.arb.ringPtr.getD f 1
  let run := s.arb.ringRun.getD f 0
  let w := match s.ring f cur with | some g => g.weight | none => 0
  if l.contains cur ∧ run < w then some (cur, run + 1)
  else (wrapFrom l (cur + 1)).map fun r => (r, 1)

/-- The function whose turn it is, with its run (R113). -/
def pickFn (s : State) : Option (Nat × Nat) :=
  let has := fun f => decide (ioEligible s f ≠ [])
  let cur := s.arb.fnPtr
  if has cur && decide (s.arb.fnRun < (s.fn cur).weight) then some (cur, s.arb.fnRun + 1)
  else (([1, 2, 3, 4].map fun k => (cur + k) % 4).find? has).map fun f => (f, 1)

/-- The next grant: function and ring, and the arbiter after it (R112, R113). -/
def nextGrant (s : State) : Option (Nat × Nat × Arb) :=
  let a := s.arb
  let io := pickFn s
  let admin := ([0, 1, 2, 3].map fun k => (a.adminPtr + k) % 4).find? fun f => eligible s f 0
  match admin, io with
  | some f, none => some (f, 0, { a with adminPtr := (f + 1) % 4, adminRun := 0 })
  | some f, some _ =>
    if a.adminRun < 4 then some (f, 0, { a with adminPtr := (f + 1) % 4, adminRun := a.adminRun + 1 })
    else ioGrant a io
  | none, _ => ioGrant a io
where
  /-- A non-admin grant. -/
  ioGrant (a : Arb) : Option (Nat × Nat) → Option (Nat × Nat × Arb)
    | none => none
    | some (f, run) =>
      (pickRing s f).map fun p =>
        (f, p.1, { a with adminRun := 0, fnPtr := f, fnRun := run, ringPtr := a.ringPtr.set f p.1,
                          ringRun := a.ringRun.set f p.2 })

/-- The instant of the doorbell write that made the entry at the SQ head part of its ring (R116). -/
def Ring.doorbellOf (g : Ring) : Instant := match g.tails with | t :: _ => t.time | [] => 0

/-- One SQ entry is read: the CQ slot is reserved, the head advances (R84, R90, R111). -/
def fetch (f r : Nat) (s : State) : State :=
  match s.ring f r with
  | none => s
  | some g =>
    let h := (g.sqHead + 1) % depth g.sqLog
    let cmd : Cmd := { fn := Fin.ofNat 4 f, ring := r, sqHead := h, doorbell := g.doorbellOf, entry := 0,
                       phase := .reading, muted := false, noDma := false }
    (emit (.sqRead f r (g.sqBase + BitVec.ofNat 64 (64 * g.sqHead)))
      { s with cmds := tset s.cmds s.fetchSeq cmd, fetchSeq := s.fetchSeq + 1 }).modRing f r fun g =>
        { g with sqHead := h, reserved := g.reserved + 1,
                 tails := match g.tails with | t :: l => if t.tail = h then l else t :: l | [] => [] }

/-- The oldest entry of a ring being read. -/
def readingCmd (s : State) (f r : Nat) : Option (Nat × Cmd) :=
  s.cmds.find? fun p => decide (p.2.fn.val = f) && decide (p.2.ring = r) && decide (p.2.phase = .reading)

/-! ### Doorbells (R91 to R96) -/

/-- What a doorbell write does to its ring, if it exists; ring 0 exists while ENABLE is 1 (Table 3.8), even where its size is
reserved and it has no queues (R95; assumption log 75). -/
def atDoorbell (f r : Nat) (k : Ring → State → State) (s : State) : State :=
  if r = 0 ∧ (s.fn f).enable = false then postRing f r .noRing s
  else match s.ring f r with
    | some g => k g s
    | none => if r = 0 then s else postRing f r .noRing s

/-- An SQ tail write (R92, R93, R116). -/
def writeTail (f r tail : Nat) (s : State) : State :=
  atDoorbell f r (fun g s =>
    let d := depth g.sqLog
    if tail < d ∧ (g.sqTail + d - g.sqHead) % d ≤ (tail + d - g.sqHead) % d then
      if tail = g.sqTail then s
      else s.modRing f r fun g => { g with sqTail := tail, tails := g.tails ++ [{ tail := tail, time := s.now }] }
    else ringError f r .badTail s) s

/-- A CQ head write (R94); freed slots of an admin CQ let waiting events go out. -/
def writeHead (f r head : Nat) (s : State) : State :=
  atDoorbell f r (fun g s =>
    let d := depth g.cqLog
    if head < d ∧ (head + d - g.cqHead) % d ≤ g.unreleased then
      let s := s.modRing f r fun g => { g with cqHead := head }
      if r = 0 then flushEvents f 66 s else s
    else ringError f r .badHead s) s

/-- A write that covers a doorbell of a ring only in part (R91, R95). -/
def partDoorbell (f r : Nat) (s : State) : State := atDoorbell f r (fun _ s => ringError f r .badDoorbell s) s

/-- Rings with a doorbell that an access of some bytes at an offset of BAR0 covers only in part (R91). -/
def partRings (off len : Nat) : List Nat :=
  let ends := [off / 4 * 4, (off + len - 1) / 4 * 4]
  ((ends.filter fun d => decide (0x10000 ≤ d) && decide (d < 0x10800) && (decide (d < off) || decide (off + len < d + 4))).map
    fun d => (d - 0x10000) / 8).eraseDups

/-- Descriptors of a result ring that still wait in the endpoint queue. -/
def unsentDescriptors (s : State) (f m : Nat) : Nat :=
  (s.egress.queue.filter fun i => match i with | .descriptor n k _ _ => decide (n = f) && decide (k = m) | .page .. => false).length

/-- A result head write: it releases no more than the descriptors written and not yet released (R532). -/
def writeResultHead (f m head : Nat) (s : State) : State :=
  match s.resultRing f m with
  | none => s
  | some g =>
    let d := depth g.descLog
    let n := (head + d - g.head) % d
    if head < d ∧ n + unsentDescriptors s f m ≤ g.live.length then s.modResultRing f m fun g => { g with head := head, live := g.live.drop n }
    else s

/-! ### Admin ring setup (R98 to R100) -/

/-- ADMIN_CONTROL.ENABLE is set (R98). While ring 0 still closes it is set up once it has closed (R100). -/
def enableAdmin (f : Nat) (s : State) : State :=
  if (s.fn f).enable then s
  else
    let s := s.modFn f fun x => { x with enable := true }
    match s.ring f 0 with
    | some _ => s
    | none => setupAdmin f ((dropRing f 0 s).modFn f fun x => { x with ready := false })

/-- ADMIN_CONTROL.ENABLE is cleared (R100). -/
def disableAdmin (f : Nat) (s : State) : State :=
  if (s.fn f).enable then
    settle ((s.modFn f fun x => { x with enable := false }).modRing f 0 fun g =>
      { g with closing := true, sqTail := g.sqHead, tails := [] })
  else s

/-! ### Registers (R137 to R139, Table 3.8) -/

/-- ALERT_STATUS bits whose condition persists (R127; assumption log 18). -/
def alertPersists (s : State) : BitVec 6 :=
  (if s.fw.state = .ready then 0 else alertFwDown) ||| (if s.tick.state = .lost then alertTickLost else 0) |||
    (if 1 ≤ s.power.level then alertThermal else 0) |||
    (if s.links.any (fun l => decide (l.state = .down)) then alertPlink else 0) ||| (if s.linkUp then 0 else alertPcie)

/-- A write of 1 to bits of ALERT_STATUS (R127). -/
def clearAlerts (mask : BitVec 6) (s : State) : State :=
  setAlerts (s.alertStatus &&& ~~~(mask &&& ~~~alertPersists s)) s.alertMask s

/-- A vector is unmasked: its pending message goes out (R125). -/
def unmask (f v : Nat) (s : State) : State :=
  let m := (s.fn f).msix.getD v .reset
  let s := s.modFn f fun x => { x with msix := lmod x.msix v fun m => { m with masked := false, pending := false } }
  if m.pending then sendVector f v s else s

/-- One word of the MSI-X table. -/
def writeMsix (f off : Nat) (v : BitVec 32) (s : State) : State :=
  let k := off / 16
  let put := fun g => s.modFn f fun x => { x with msix := lmod x.msix k g }
  match off % 16 / 4 with
  | 0 => put fun m => { m with addr := (m.addr &&& 0xFFFFFFFF00000000) ||| (v &&& 0xFFFFFFFC).setWidth 64 }
  | 1 => put fun m => { m with addr := (m.addr &&& 0xFFFFFFFF) ||| (v.setWidth 64 <<< 32) }
  | 2 => put fun m => { m with data := v }
  | _ => if v.getLsbD 0 then put fun m => { m with masked := true } else unmask f k s

/-- A 64-bit register with one half replaced. -/
def setLo (a : BitVec 64) (v : BitVec 32) : BitVec 64 := (a &&& 0xFFFFFFFF00000000) ||| (v &&& 0xFFFFF000).setWidth 64
def setHi (a : BitVec 64) (v : BitVec 32) : BitVec 64 := (a &&& 0xFFFFFFFF) ||| (v.setWidth 64 <<< 32)

/-- A 32-bit aligned write to BAR0 (R99, R137). -/
def writeBar0 (f off : Nat) (v : BitVec 32) (s : State) : State :=
  let setup := fun g : Func → Func => if (s.fn f).enable then s else s.modFn f g
  if off = 0x1000 then setup fun x => { x with adminSqBase := setLo x.adminSqBase v }
  else if off = 0x1004 then setup fun x => { x with adminSqBase := setHi x.adminSqBase v }
  else if off = 0x1008 then setup fun x => { x with adminCqBase := setLo x.adminCqBase v }
  else if off = 0x100C then setup fun x => { x with adminCqBase := setHi x.adminCqBase v }
  else if off = 0x1010 then setup fun x => { x with adminSqLog := bits v.toNat 3 0, adminCqLog := bits v.toNat 7 4 }
  else if off = 0x1014 then if v.getLsbD 0 then enableAdmin f s else disableAdmin f s
  else if off = 0x2004 then s.modFn f fun x => { x with intCause := x.intCause &&& ~~~v.setWidth 6 }
  else if off = 0x3000 then clearAlerts (v.setWidth 6) s
  else if off = 0x3004 then setAlerts s.alertStatus (v.setWidth 6) s
  else if 0x10000 ≤ off ∧ off < 0x10800 then
    if off % 8 = 0 then writeTail f ((off - 0x10000) / 8) (bits v.toNat 11 0) s
    else writeHead f ((off - 0x10000) / 8) (bits v.toNat 11 0) s
  else if 0x11000 ≤ off ∧ off < 0x11100 then writeResultHead f ((off - 0x11000) / 4) (bits v.toNat 11 0) s
  else if 0x80000 ≤ off ∧ off < 0x80200 then writeMsix f (off - 0x80000) v s
  else s

/-- RING_STATE[n] (Table 3.8). -/
def ringState (s : State) (f r : Nat) : Nat :=
  match s.ring f r with
  | some g => g.sqHead + 2 ^ 12 * b2n (if r = 0 then (s.fn f).enable else true) + 2 ^ 13 * b2n g.error +
      2 ^ 16 * g.cqTail + 2 ^ 28 * b2n g.phase
  | none => 2 ^ 28 + (if r = 0 then 2 ^ 12 * b2n (s.fn f).enable + 2 ^ 13 * b2n (s.fn f).error else 0)

/-- Completions of a function that wait for Bus Master Enable or the link (R78). -/
def heldCompletions (x : Func) : Nat :=
  (x.held.filter fun h => match h with | .completion .. => true | _ => false).length

/-- Commands of a function fetched and not completed: their CQ entries are not written (R109, Table 3.8). -/
def inflight (s : State) (f : Nat) : Nat :=
  (s.cmds.filter fun p => decide (p.2.fn.val = f) && !p.2.muted).length + heldCompletions (s.fn f)

/-- Commands fetched and not completed across the device (R109). -/
def outstanding (s : State) : Nat := s.cmds.length + (s.fns.map heldCompletions).sum

/-- What a 32-bit aligned read of BAR0 returns (R137, Table 3.8), apart from the latching of R138. -/
def bar0 (s : State) (f off : Nat) : Nat :=
  let x := s.fn f
  if off = 0x0 then 0x1CE1 + 2 ^ 16 * s.part.grade.deviceId.toNat
  else if off = 0x4 then 0xB0 + 2 ^ 8 * (if s.part.grade = .ilh2400x then 1 else 0)
  else if off = 0x8 then f
  else if off = 0xC then 0x0100
  else if off = 0x10 then (if s.fw.wasReady then s.fw.version.toNat else 0)
  else if off = 0x14 then s.fw.state.code + 2 ^ 8 * s.fw.restarts
  else if off = 0x18 then s.now % 2 ^ 32
  else if off = 0x1C then x.timeHi.toNat
  else if off = 0x20 then x.ticknoLatch.toNat
  else if off = 0x24 then b2n s.pins.pcieWidth
  else if off = 0x1000 then x.adminSqBase.toNat % 2 ^ 32
  else if off = 0x1004 then x.adminSqBase.toNat / 2 ^ 32
  else if off = 0x1008 then x.adminCqBase.toNat % 2 ^ 32
  else if off = 0x100C then x.adminCqBase.toNat / 2 ^ 32
  else if off = 0x1010 then x.adminSqLog + 16 * x.adminCqLog
  else if off = 0x1014 then b2n x.enable
  else if off = 0x1018 then b2n x.ready + 2 * b2n x.error + 16 * x.cause.code
  else if off = 0x2000 then b2n (decide (s.fw.state = .ready)) + 2 * b2n x.ready + 4 * b2n x.busMaster +
    8 * b2n (x.error || x.rings.any fun p => p.2.error)
  else if off = 0x2004 then x.intCause.toNat
  else if off = 0x2008 then x.eventsLost.toNat
  else if off = 0x200C then x.timeouts.toNat
  else if off = 0x2010 then x.bar2Outside.toNat
  else if off = 0x2014 then x.bar2Dropped.toNat
  else if off = 0x2018 then inflight s f
  else if off = 0x3000 then s.alertStatus.toNat
  else if off = 0x3004 then s.alertMask.toNat
  else if 0x20000 ≤ off ∧ off < 0x20800 then
    if off % 8 = 0 then ringState s f ((off - 0x20000) / 8)
    else if off % 8 = 4 then
      (match s.ring f ((off - 0x20000) / 8) with
       | some g => g.cause.code
       | none => if off = 0x20004 then x.cause.code else 0)
    else 0
  else if 0x80000 ≤ off ∧ off < 0x80200 then
    let m := x.msix.getD ((off - 0x80000) / 16) .reset
    (match off % 16 / 4 with
     | 0 => m.addr.toNat % 2 ^ 32
     | 1 => m.addr.toNat / 2 ^ 32
     | 2 => m.data.toNat
     | _ => b2n m.masked)
  else if off = 0x81000 then (x.msix.zipIdx.foldl (fun n p => n + 2 ^ p.2 * b2n p.1.pending) 0)
  else 0

/-- A 32-bit aligned read; that of DEVICE_TIME_LO latches the high half and TICKNO (R24, R138). -/
def readWord (f off : Nat) (s : State) : State × List Byte :=
  (if off = 0x18 then s.modFn f fun x => { x with timeHi := BitVec.ofNat 32 (s.now / 2 ^ 32), ticknoLatch := s.ticknoNow }
   else s, le 4 (bar0 s f off))

/-- A read of BAR0 of `len` bytes: 64 bits are two 32-bit reads in ascending order; any access but these, aligned to 4 B, is
discarded and returns 0 (R137). -/
def readBar0 (f off len : Nat) (s : State) : State × List Byte :=
  let a := readWord f off s
  let b := readWord f (off + 4) a.1
  if off % 4 = 0 ∧ len = 4 then a
  else if off % 4 = 0 ∧ len = 8 then (b.1, a.2 ++ b.2)
  else (s, List.replicate len 0)

/-! ### Configuration space (R71 to R76, Table 3.1) -/

/-- Capabilities of Table 3.1. -/
inductive Capability where
  | powerManagement | pciExpress | aspmL1 | msix | aer | serialNumber | secondaryPcie | physical16 | physical32
  | laneMargining | dataLinkFeature
  deriving DecidableEq, Repr

/-- A base address register: 64-bit or not, prefetchable or not, its size and the base programmed (Table 3.2). -/
structure Bar where
  wide : Bool
  prefetchable : Bool
  size : Nat
  base : BitVec 64
  deriving DecidableEq, Repr

/-- What a function presents in its configuration space. -/
structure PciHeader where
  vendor : BitVec 16
  device : BitVec 16
  classCode : BitVec 24
  revision : BitVec 8
  subsysVendor : BitVec 16
  subsysId : BitVec 16
  /-- multi-function, which function 0 reports (R71); of the others the manual does not say -/
  multiFunction : Option Bool
  interruptPin : Nat
  romBar : Nat
  /-- BAR0/BAR1 and BAR2/BAR3 -/
  bars : List Bar
  /-- BAR4 and BAR5 -/
  bar45 : BitVec 64
  capabilities : List Capability
  msixVectors : Nat
  /-- Max_Payload_Size supported -/
  maxPayload : Nat
  serial : BitVec 64
  functionLevelReset : Bool
  deriving DecidableEq, Repr

/-- The configuration space of function f (R3, R71, R73, R75, R76, R638). -/
def pciHeader (s : State) (f : Nat) : PciHeader :=
  { vendor := 0x1CE1, device := s.part.grade.deviceId, classCode := 0x118000, revision := 0xB0,
    subsysVendor := s.boot.subsysVendor, subsysId := s.boot.subsysId,
    multiFunction := if f = 0 then some true else none, interruptPin := 0, romBar := 0,
    bars := [{ wide := true, prefetchable := false, size := 2 ^ 20, base := (s.fn f).cfg.bar0 },
             { wide := true, prefetchable := true, size := 2 ^ 29, base := (s.fn f).cfg.bar2 }],
    bar45 := 0,
    capabilities := [.powerManagement, .pciExpress, .aspmL1, .msix, .aer, .serialNumber, .secondaryPcie, .physical16,
      .physical32, .laneMargining, .dataLinkFeature],
    msixVectors := (s.fn f).msix.length, maxPayload := 512, serial := s.part.serial, functionLevelReset := true }

end Sys2Proof.Machine
end

