-- ==== Sys2Proof/Machine/BootOps.lean ====
section
/-!
DEFINITION. Update packages: their rules, authenticity, boot configuration, and the slots of the boot flash (19).
-/
namespace Sys2Proof.Machine

/-- IMAGE_LEN of a package (Table 19.4). -/
def imageLen (p : List Byte) : Nat := fld p 80 4

/-- The image bytes of a package. -/
def imageOf (p : List Byte) : List Byte := slice p 64 (imageLen p)

/-- SECURITY_VERSION of a package. -/
def securityVersion (p : List Byte) : Nat := fld p 72 1

/-- The boot configuration of a package (Table 19.5). -/
def configOf (p : List Byte) : List Byte := slice p (64 + imageLen p) 1088

/-- The image rules of Table 19.4 and R632. -/
def imageRules (p : List Byte) : Bool :=
  decide (slice p 64 4 = [0x41, 0x43, 0x52, 0x47]) && decide (securityVersion p ≤ 64) && zeros p 73 7 &&
    decide (4096 ≤ imageLen p) && decide (imageLen p ≤ 2 ^ 25 - 1152) && decide (imageLen p % 64 = 0) && zeros p 276 300 &&
    decide (p.length = 64 + imageLen p + 1088)

/-- A chip record is valid. -/
def recordOn (c : List Byte) (r : Nat) : Bool := decide (fld c (64 + 64 * r) 1 = 1)

/-- The rules of one chip record (Table 19.5). -/
def recordOk (c : List Byte) (r : Nat) : Bool :=
  if recordOn c r then
    decide (fld c (65 + 64 * r) 1 < 16) && decide (fld c (66 + 64 * r) 1 < 3) && decide (fld c (67 + 64 * r) 1 < 4) &&
      zeros c (72 + 64 * r) 56
  else zeros c (64 + 64 * r) 64

/-- The header rules and the CRC of a boot configuration (Table 19.5). -/
def configHeaderOk (c : List Byte) : Bool :=
  let f := fld c
  decide (c.take 4 = [0x42, 0x43, 0x46, 0x47]) && decide (f 4 1 = 1) && decide (f 5 1 < 16) &&
    decide (1 ≤ f 6 1) && decide (f 6 1 ≤ 16) && decide (1 ≤ f 7 1 % 16) && decide (f 7 1 % 16 ≤ 4) &&
    decide (1 ≤ f 7 1 / 16) && decide (f 7 1 / 16 ≤ 4) && decide (f 8 1 ≤ 8) && decide (f 9 1 < 2) && zeros c 10 50 &&
    decide (crcSkip c 60 = f 60 4)

/-- A valid boot configuration (R634). -/
def configOk (c : List Byte) : Bool :=
  configHeaderOk c && (List.range 16).all (recordOk c) &&
    decide (((List.range 16).filter (recordOn c)).length = fld c 6 1) && recordOn c (fld c 5 1)

/-- The configuration a device takes from a boot configuration (R634). -/
def bootConfig (c : List Byte) : BootConfig :=
  let r := fld c 5 1
  { chip := r, devices := fld c 6 1, ringX := fld c 7 1 % 16, ringY := fld c 7 1 / 16, hSys := fld c 8 1,
    autoReroute := bit (fld c 9 1) 0, links := fld c (65 + 64 * r) 1, dramRate := fld c (66 + 64 * r) 1,
    dramGib := 2 ^ fld c (67 + 64 * r) 1 }

/-- Key hash and signature (R633). -/
def signatureOk (s : State) (p : List Byte) : Bool :=
  let key := slice p 84 96
  let img := patch (imageOf p) 116 (List.replicate 96 0)
  decide (beNat (sha384 key) = s.part.keyHash.toNat) && ecdsaOk key (sha384 img) (slice p 180 96)

/-- Every check of a pushed or read package but the package CRC (R635). -/
def packageOk (s : State) (p : List Byte) : Bool :=
  zeros p 0 64 && imageRules p && signatureOk s p && decide (s.part.rollback ≤ securityVersion p) && configOk (configOf p)

/-! ### Flash slots (R632, R635, R646) -/

/-- A slot header is valid (Table 19.4). -/
def slotHeaderOk (d : List Byte) : Bool :=
  decide (64 ≤ d.length) && decide (d.take 4 = [0x53, 0x4C, 0x4F, 0x54]) && decide (1 ≤ fld d 4 4) &&
    decide (fld d 4 4 ≤ 0xFFFFFFFE) && zeros d 16 44 && decide (crc32 (d.take 60) = fld d 60 4)

/-- UPDATE_SEQ of a slot with a valid header, 0 otherwise. -/
def slotSeq (d : List Byte) : Nat := if slotHeaderOk d then fld d 4 4 else 0

/-- The package of a slot, of the length its header gives, with the header cleared. -/
def slotPackage (d : List Byte) : List Byte := List.replicate 64 0 ++ (slice d 0 (fld d 8 4)).drop 64

/-- The package CRC of a slot matches (Table 19.4). -/
def slotCrcOk (d : List Byte) : Bool := decide (crc32 ((slice d 0 (fld d 8 4)).drop 64) = fld d 12 4)

/-- UPDATE_SEQ of slot k as far as it is known; a slot that has not been read counts as without a valid header
(assumption log 19). -/
def knownSeq (s : State) (k : Nat) : Nat := match (s.boot.slots[k]?).join with | some d => slotSeq d | none => 0

/-- The active slot (R646). -/
def activeSlot (s : State) : Nat :=
  match s.boot.bootedFrom with
  | some k => k
  | none => if knownSeq s 0 = 0 ∧ knownSeq s 1 = 0 then 1 else if knownSeq s 1 < knownSeq s 0 then 0 else 1

/-- The slot header FW_UPDATE writes (R646). -/
def slotHeader (seq : Nat) (p : List Byte) : List Byte :=
  let h := [0x53, 0x4C, 0x4F, 0x54] ++ le 4 seq ++ le 4 p.length ++ le 4 (crc32 (p.drop 64)) ++ List.replicate 44 0
  h ++ le 4 (crc32 h)

/-- The UPDATE_SEQ the next update carries (R646). -/
def nextSeq (s : State) : Nat :=
  if knownSeq s 0 = 0 ∧ knownSeq s 1 = 0 then 1 else knownSeq s (activeSlot s) + 1

end Sys2Proof.Machine
end

