-- ==== Sys2Proof/Machine/EngineOps.lean ====
section
/-!
DEFINITION. What engine nodes share: how a node reads and writes memory, planes of pixels, and the arithmetic of
chapters 08 and 09.
-/
namespace Sys2Proof.Machine

/-! ### Memory as a node sees it -/

/-- One byte as a node reads it: a free value where R242 or R170 calls it undefined or a MEM_WRITE is at work, zero in a
poisoned sector. -/
def memByte (s : State) (x : Nat) : Byte :=
  if x < dramBase then
    if rowUndefined s (rowOf x) || rowWriting s (rowOf x) then Config.freeByte s.draws x else s.loft.mem.get x
  else if s.dram.hostWrote.any fun r => inside (x, 1) r then Config.freeByte s.draws x
  else if eccData s x && s.dram.poison.contains (sectorOf x) then 0
  else s.dram.mem.get x

/-- Consecutive bytes as a node reads them. -/
def memBytes (s : State) (x n : Nat) : List Byte := (List.range n).map fun i => memByte s (x + i)

/-- 512 B as read at dispatch, where the node has read them then (R334, R341), else as read now. -/
def headBytes (s : State) (heads : List (Nat × List Byte)) (x : Nat) : List Byte :=
  match heads.find? fun h => decide (h.1 = x) with
  | some h => h.2
  | none => memBytes s x 512

/-- A little-endian number in memory. -/
def memNat (s : State) (x n : Nat) : Nat := leNat (memBytes s x n)

/-- Bytes completed with zeros to whole rows or sectors (R313). -/
def wholeUnits (x : Nat) (d : List Byte) : List Byte := fit (ceilDiv d.length (unitOf x) * unitOf x) d

/-- Bytes written from an address, completed with zeros to whole rows or sectors (R313). -/
def store (x : Nat) (d : List Byte) (s : State) : State :=
  if d = [] then s
  else if x < dramBase then putRows (rowOf x) (wholeUnits x d) s else writeDram x (wholeUnits x d) s

/-- Rows or sectors written each by itself, but for those that have gone out already (R313). -/
def storeUnits (gone : List Nat) (x : Nat) : Nat → List Byte → State → State
  | 0, _, s => s
  | n + 1, d, s =>
    let u := unitOf x
    storeUnits gone (x + u) n (d.drop u) (if gone.contains x then s else store x (d.take u) s)

/-- A write of an output, without the rows and sectors that have gone out already. -/
def storeRest (gone : List Nat) (w : Nat × List Byte) (s : State) : State :=
  if gone = [] then store w.1 w.2 s
  else
    let d := wholeUnits w.1 w.2
    storeUnits gone w.1 (d.length / unitOf w.1) d s

/-- What the work of a node comes to: its output writes, in groups of which each begins once the previous one has been
acknowledged (R338, R366, R400); the packets of its stream port and tap (R333, R371); and the free values it takes. -/
structure Work where
  groups : List (List (Nat × List Byte))
  packets : List (List Byte)
  draws : Nat
  deriving DecidableEq, Repr

/-- Work that comes to nothing. -/
def Work.none : Work := { groups := [], packets := [], draws := 0 }

/-- The output writes of a node, in order. -/
def Work.writes (w : Work) : List (Nat × List Byte) := w.groups.flatMap id

/-- The writes of a work that have not gone out yet are made. -/
def Work.apply (gone : List Nat) (w : Work) (s : State) : State :=
  let s := w.writes.foldl (fun s p => storeRest gone p s) s
  { s with draws := s.draws + w.draws }

/-- Why an access of a node or lane is not performed: 0 outside its contract, 1 a resident row, 2 a Carafe row, 3 a
backing range written, 4 an ECC check area, or a backing range read (R17, R231, R233, R234, R241, R448, R514; assumption log
70). -/
def refusedUnit (s : State) (tenant : Nat) (write carafe : Bool) (x n : Nat) : Option Nat :=
  if !inContract (s.contract tenant) (x, n) || !(inLoft x n || inDram s x n) then some 0
  else if x < dramBase then
    if write && (regionAt s (rowOf x)).isSome then some 1
    else if write && !carafe && (carafeOf s (rowOf x)).isSome then some 2 else none
  else if hitsCheck s x n then some 4
  else if hitsBacking s x n then some (if write then 3 else 4) else none

/-- The first refused row or sector of a range. -/
def refusedAt (s : State) (tenant : Nat) (write carafe : Bool) (r : Nat × Nat) : Option (Nat × Nat) :=
  let w := whole r
  let u := unitOf r.1
  (List.range (w.2 / u)).findSome? fun k =>
    (refusedUnit s tenant write carafe (w.1 + k * u) u).map fun why => (why, w.1 + k * u)

/-- The fault cause of a refusal (Table 16.2). -/
def refusalCause (why : Nat) : Nat := if why = 0 then 0x06 else 0x07

/-- A detected row is marked for a node: cause 1 for a LOADED resident row, else 2 (R555). -/
def markRow (g i row : Nat) (s : State) : State :=
  markNode g i (if rowKind s row = 1 then 0x01 else 0x02) (detailRow row) (some row) s

/-- Rows and sectors of a range that read as detected or poisoned and are not marked yet are found now (R253, R517;
assumption log 12). -/
def readMarks (g i : Nat) (s : State) (r : Nat × Nat) : State :=
  let marks := match s.inst g with | some inst => (inst.run i).marks | none => []
  if r.1 < dramBase then
    let bad := (badRowsOf s).filter fun row =>
      decide (rowOf r.1 ≤ row) && decide (512 * row < r.1 + r.2) && !thas s.loft.refills row &&
        !(marks.any fun m => decide (m.row = some row))
    bad.foldl (fun s row => markRow g i row (detect row .node s)) s
  else
    let bad := s.dram.poison.filter fun k =>
      overlap (sectorAddr k, 64) r && eccData s (sectorAddr k) &&
        !(marks.any fun m => decide (m.cause = 0x04) && decide (m.detail = detailSector (sectorAddr k)))
    bad.foldl (fun s k => markNode g i 0x04 (detailSector (sectorAddr k)) none (repeatPoison (sectorAddr k) 0 s)) s

/-- The first refused access among ranges read and ranges written. -/
def firstRefusal (s : State) (tenant : Nat) (reads writes : List (Nat × Nat)) : Option (Nat × Nat) :=
  match reads.findSome? (refusedAt s tenant false false) with
  | some r => some r
  | none => writes.findSome? (refusedAt s tenant true false)

/-- What a node does with the memory it names: a refused access faults it at once, reads are checked for detections,
and then it computes and writes. -/
def access (g i : Nat) (reads writes : List (Nat × Nat)) (compute : State → State) (s : State) : State :=
  match firstRefusal s (tenantOf g) reads writes with
  | some (why, x) =>
    let s := if why = 4 then s else refuseAccess (tenantOf g) why x s
    immediateFault g i (refusalCause why) (if x < dramBase then detailRow (rowOf x) else detailSector x) s
  | none => compute (reads.foldl (readMarks g i) s)

/-! ### Planes -/

/-- A plane of values, line by line. -/
abbrev Plane := List (List Int)

/-- The value at (x, y); 0 outside. -/
def Plane.get (p : Plane) (x y : Nat) : Int := (p.getD y []).getD x 0

/-- The value at an offset from (x, y). -/
def Plane.rel (p : Plane) (x y : Nat) (o : Int × Int) : Int := p.get ((x : Int) + o.1).toNat ((y : Int) + o.2).toNat

/-- A plane computed from its coordinates. -/
def mkPlane (w h : Nat) (f : Nat → Nat → Int) : Plane :=
  (List.range h).map fun y => (List.range w).map fun x => f x y

/-- The pixels of an image as the node reads them. -/
def readImg (s : State) (i : Img) : Plane :=
  mkPlane i.width i.height fun x y =>
    let v := memNat s (i.addr + y * i.stride + x * bpp i.fmt) (bpp i.fmt)
    if i.fmt = 2 then sext 16 v else v

/-- A plane as the bytes of an image: e bytes per pixel, lines `stride` apart, zeros between (R313). -/
def imgBytes (stride e : Nat) (p : Plane) : List Byte :=
  p.flatMap fun line => fit stride (line.flatMap (leI e))

/-- The write of a plane to an image's place; the bytes after the last line end with its row or sector. -/
def planeWrite (addr stride e : Nat) (p : Plane) : Nat × List Byte :=
  (addr, (imgBytes stride e p).take ((p.length - 1) * stride + (p.getD 0 []).length * e))

/-- The reflection of a coordinate into 0 to n − 1, repeated as often as needed (R324). -/
def reflect (n : Nat) (k : Int) : Nat :=
  if n ≤ 1 then 0
  else
    let j := (k % (2 * (n - 1) : Nat)).toNat
    if j < n then j else 2 * (n - 1) - j

/-- A coordinate clamped to 0 to n − 1. -/
def clampTo (n : Nat) (k : Int) : Nat := if k < 0 then 0 else min k.toNat (n - 1)

/-- A coordinate lies in 0 to n − 1. -/
def within (n : Nat) (k : Int) : Bool := decide (0 ≤ k) && decide (k < n)

/-- A value clamped to a range. -/
def clampI (lo hi v : Int) : Int := max lo (min hi v)

/-- A quotient rounded to nearest with ties away from zero. -/
def roundDiv (a : Int) (b : Nat) : Int :=
  if b = 0 then 0 else if 0 ≤ a then (2 * a + b) / (2 * b) else -((2 * (-a) + b) / (2 * b))

/-- Number of one bits among the low k bits. -/
def popcount : Nat → Nat → Nat
  | 0, _ => 0
  | k + 1, v => v % 2 + popcount k (v / 2)

/-- A list of bits as a number, the first most significant. -/
def packBits (l : List Bool) : Nat := l.foldl (fun a b => 2 * a + b2n b) 0

/-- The sum of a list. -/
def sumI (l : List Int) : Int := l.foldl (· + ·) 0

/-! ### Sines for FEA (R331, R332), in units of 2^-64 -/

/-- π in units of 2^-64. -/
def piFix : Int := 57952155664616982739

/-- Product of two values in units of 2^-64. -/
def mulFix (a b : Int) : Int := a * b / 2 ^ 64

/-- Terms of the sine or cosine series from a first term on. -/
def series (x2 : Int) : Nat → Nat → Int → Int
  | 0, _, _ => 0
  | k + 1, n, t => t + series x2 k (n + 2) (-(mulFix t x2) / ((n + 1) * (n + 2) : Nat))

/-- Cosine and sine of an angle given in units of 2π ÷ 65,536, for angles up to half a turn either way. -/
def cosSin (a : Int) : Int × Int :=
  let x := a * piFix / 32768
  let x2 := mulFix x x
  (series x2 24 0 (2 ^ 64), series x2 24 1 x)

/-- Whole-turn angle brought to −32,768 to 32,767. -/
def halfTurn (a : Nat) : Int := let b := a % 65536; if b < 32768 then b else (b : Int) - 65536

/-- The angle of (x, y) is at least a (both in the same half plane): y cos a − x sin a is not negative. -/
def atLeast (x y : Int) (a : Nat) : Bool :=
  let c := cosSin (halfTurn a)
  decide (0 ≤ y * c.1 - x * c.2)

/-- The largest angle in 0 to 32,767 not above that of a point in the upper half plane. -/
def searchAngle (x y : Int) : Nat → Nat → Nat
  | 0, lo => lo
  | k + 1, lo => searchAngle x y k (if atLeast x y (lo + 2 ^ k) then lo + 2 ^ k else lo)

/-- atan2(y, x) rounded down to units of 2π ÷ 65,536 (R331). -/
def atanFloor (x y : Int) : Nat :=
  if 0 < y ∨ (y = 0 ∧ 0 < x) then searchAngle x y 15 0 else 32768 + searchAngle (-x) (-y) 15 0

/-- The angle of a point on an axis or a diagonal, where it is a whole number of units. -/
def exactAngle (x y : Int) : Nat :=
  if y = 0 then (if 0 < x then 0 else 32768)
  else if x = 0 then (if 0 < y then 16384 else 49152)
  else if x = y then (if 0 < x then 8192 else 40960)
  else if 0 < y then 24576 else 57344

/-- θ of R331: 0 without moments, else a value within ±1 unit of the exact angle, free within that bound (assumption
log 15). -/
def orientation (x y : Int) (draw : Nat) : Nat :=
  if x = 0 ∧ y = 0 then 0
  else if x = 0 ∨ y = 0 ∨ x = y ∨ x = -y then (exactAngle x y + 65535 + Config.draw draw % 3) % 65536
  else (atanFloor x y + Config.draw draw % 2) % 65536

end Sys2Proof.Machine
end

