-- ==== Sys2Proof/Machine/Foresee.lean ====
section
/-!
DEFINITION. Deferred effects: the state the checks of a command see (R147, R148), and the checks that several commands
share.
-/
namespace Sys2Proof.Machine

/-- Windows open: class D* defers (Table 4.2). -/
def State.windowsOpen (s : State) : Bool := decide (s.tick.state = .running) || decide (s.tick.state = .switching)

/-- No window opens in the tick state (R466, R526, R598). -/
def noWindows (s : State) : Bool := decide (s.tick.state ≠ .running)

/-- A deferred effect as the checks count it (R148). -/
def foreseeOne (s : State) (e : Effect) : State :=
  match e with
  | .partition t c => { s with contracts := s.contracts.set t c }
  | .gateOpen k g => s.modLoft fun l => { l with gates := tset l.gates k g }
  | .gateClose k => s.modLoft fun l => { l with gates := tdel l.gates k }
  | .arm g spec => s.modGraph g fun x => { x with arm := some { spec := spec, openings := 0 } }
  | .disarm g => s.modGraph g fun x => { x with arm := none }
  | .halterConfig u r => s.modHalter u fun h => { h with config := some r }
  | .halterEnable u on => s.modHalter u fun h => { h with state := if on then (if h.state = .disabled then .stop else h.state) else .disabled }
  | .tallyConfig c => { s with tally := { s.tally with config := some c } }
  | .tallyStart => { s with tally := { s.tally with state := .running } }
  | .tallyStop => { s with tally := { s.tally with state := .stopped } }
  | .systemArm _ | .param .. | .fsync .. | .xfer .. => s

/-- The state as though every pending deferred effect had taken place, in acceptance order (R148). -/
def foreseen (s : State) : State := s.deferred.foldl foreseeOne s

/-- An effect is recorded for the next window opening (R147). -/
def defer (e : Effect) (s : State) : State := { s with deferred := s.deferred ++ [e] }

/-- A graph is armed, or an arm of it is pending. -/
def Graph.isArmed (g : Graph) : Bool := g.arm.isSome || g.systemArm.isSome

/-- Guard of a source in µs (Table 2.1). -/
def guardUs (src : TickSource) (p : Nat) : Nat := match src with | .tickIn => ceilDiv p 50 | _ => 0

/-- W − R in µs: the length of OPEN (R38, R40). -/
def openUs (src : TickSource) (m : TickParams) : Nat := m.p - guardUs src m.p - m.r

/-- P, R and M as they stand once pending changes have taken place (R64, R148). -/
def prmSoon (s : State) : TickParams := s.tick.newParams.getD s.tick.prm

/-- The source once a switch in progress has completed. -/
def srcSoon (s : State) : TickSource := match s.tick.switch with | some w => w.source | none => s.tick.source

/-- DECAF is in force or pending (R593). -/
def decafSoon (s : State) : Bool :=
  match s.power.pending with | some p => decide (p.1 = .decaf) | none => decide (s.power.state = .decaf)

/-- DECAF is in force or pending: checks take stretched bounds (R593). -/
def stretchNow (s : State) : Bool := decide (s.power.state = .decaf) || decafSoon s

/-- Critical paths of the graphs armed or to be armed, largest first not needed: the largest in µs. -/
def longestArmed (s : State) (stretched : Bool) : Nat :=
  s.drover.graphs.foldl (fun m p => if p.2.isArmed then max m (critPath s (tenantOf p.1) p.2 stretched) else m) 0

/-- The TENANT operand is 0 to 3 (R151). -/
def badTenant (e : Entry) : Bool × Status := badIf (decide (3 < efld e 16 1))

/-- A command of class I that has nothing to return. -/
def done (seq : Nat) (s : State) : State := finish seq .ok 0 s

/-- A command of class D or S. -/
def deferredOk (seq : Nat) (s : State) : State := finish seq .deferred 0 s

/-- A class D* effect: deferred while windows open, at once otherwise (Table 4.2). -/
def deferStar (seq : Nat) (e : Effect) (now : State → State) (s : State) : State :=
  if s.windowsOpen then deferredOk seq (defer e s) else done seq (now s)

end Sys2Proof.Machine
end

