-- ==== Sys2Proof/Machine/LaneStages.lean ====
section
/-!
DEFINITION. The lane stages of Table 7.3 and the layout of a frame in the Loft (07).
-/
namespace Sys2Proof.Machine

/-! ### Fields of a context image (Table 7.5) -/

/-- Unsigned field of a context image. -/
def cf (c : List Byte) (o n : Nat) : Nat := fld c o n

def cWidth (c : List Byte) : Nat := cf c 0 2
def cHeight (c : List Byte) : Nat := cf c 2 2
def cCfa (c : List Byte) : Nat := cf c 4 1
def cStage (c : List Byte) (k : Nat) : Bool := bit (cf c 5 1) k
def cFormat (c : List Byte) : Nat := cf c 6 1
def cTap (c : List Byte) : Nat := cf c 7 1

/-- Classes of data types (Table 7.2). -/
def dtRaw (d : Nat) : Bool := decide (0x2A ≤ d) && decide (d ≤ 0x2E)
def dtUser (d : Nat) : Bool := decide (0x30 ≤ d) && decide (d ≤ 0x37)

/-- Data types a context may be bound to (R271). -/
def dtBindable (d : Nat) : Bool := decide (d = 0x1E) || decide (d = 0x24) || dtRaw d || dtUser d

/-- Data types a port accepts in long packets (Table 7.2). -/
def dtAccepted (d : Nat) : Bool := decide (d = 0x12) || dtBindable d

/-- Bits per pixel or byte (Table 7.2). -/
def dtBits (d : Nat) : Nat :=
  match d with
  | 0x1E => 16 | 0x24 => 24 | 0x2B => 10 | 0x2C => 12 | 0x2D => 14 | 0x2E => 16 | _ => 8

/-- Payload bytes of a line of WIDTH pixels. -/
def payloadLen (d w : Nat) : Nat := ceilDiv (w * dtBits d) 8

/-- Planes of an output format (Table 7.4). -/
def outPlanes (f : Nat) : Nat := if f = 3 ∨ f = 5 then 3 else 1

/-- Bytes per pixel per plane (Table 7.4). -/
def outBytes (f : Nat) : Nat := match f with | 1 | 5 => 2 | 4 => 4 | _ => 1

/-- Bytes of one line of one plane. -/
def outLine (d : Nat) (c : List Byte) : Nat :=
  if cFormat c = 6 then payloadLen d (cWidth c) else cWidth c * outBytes (cFormat c)

/-- Bytes of one tapped line. -/
def tapLine (d : Nat) (c : List Byte) : Nat := if cTap c = 1 then payloadLen d (cWidth c) else 2 * cWidth c

/-- Pixels a lane counts for a line (R281). -/
def lanePixels (d : Nat) (c : List Byte) : Nat := if cFormat c = 6 then payloadLen d (cWidth c) else cWidth c

/-! ### Unpack (R283) -/

/-- Pixel values of a line of RAW or luma data, as the CSI-2 packings place them (assumption log 21). -/
def unpackLine (d w : Nat) (p : List Byte) : List Int :=
  let b := fun k => (p.getD k 0).toNat
  (List.range w).map fun x =>
    (match d with
     | 0x2A => b x * 256
     | 0x2B => (4 * b (x / 4 * 5 + x % 4) + bits (b (x / 4 * 5 + 4)) (2 * (x % 4) + 1) (2 * (x % 4))) * 64
     | 0x2C => (16 * b (x / 2 * 3 + x % 2) + bits (b (x / 2 * 3 + 2)) (4 * (x % 2) + 3) (4 * (x % 2))) * 16
     | 0x2D =>
       let low := b (x / 4 * 7 + 4) + 256 * b (x / 4 * 7 + 5) + 65536 * b (x / 4 * 7 + 6)
       (64 * b (x / 4 * 7 + x % 4) + bits low (6 * (x % 4) + 5) (6 * (x % 4))) * 4
     | 0x2E => 256 * b (2 * x) + b (2 * x + 1)
     | 0x1E => b (2 * x + 1) * 257
     | _ => b x * 257 : Nat)

/-- One component of RGB888: 0 R, 1 G, 2 B (assumption log 21). -/
def unpackRgb (w k : Nat) (p : List Byte) : List Int :=
  (List.range w).map fun x => ((p.getD (3 * x + 2 - k) 0).toNat * 257 : Nat)

/-! ### RAW stages (R284 to R288) -/

/-- CFA phase of a pixel; a MONO context uses phase 0 (R282). -/
def phaseOf (c : List Byte) (x y : Nat) : Nat := if cCfa c = 0 then 0 else 2 * (y % 2) + x % 2

/-- A plane changed pixel by pixel. -/
def mapPlane (w h : Nat) (p : Plane) (f : Nat → Nat → Int → Int) : Plane := mkPlane w h fun x y => f x y (p.get x y)

/-- Black level (R284). -/
def blackLevel (c : List Byte) (w h : Nat) (p : Plane) : Plane :=
  mapPlane w h p fun x y v =>
    let k := phaseOf c x y
    min 65535 ((max 0 (v - (cf c (40 + 2 * k) 2 : Nat)) * (cf c (48 + 2 * k) 2 : Nat) + 8192) / 16384)

/-- A pixel at reflected coordinates (R282). -/
def reflected (w h : Nat) (p : Plane) (x y : Int) : Int := p.get (reflect w x) (reflect h y)

/-- Pixels of the static defect list. -/
def defectList (c : List Byte) : List (Nat × Nat) :=
  (List.range (cf c 66 2)).map fun k => (cf c (4608 + 4 * k) 2, cf c (4610 + 4 * k) 2)

/-- Defect correction (R285). -/
def defects (c : List Byte) (w h : Nat) (p : Plane) : Plane :=
  let step : Int := if cCfa c = 0 then 1 else 2
  let th : Int := (cf c 64 2 : Nat)
  let listed := defectList c
  mapPlane w h p fun x y v =>
    if listed.contains (x, y) then
      (reflected w h p (x - step) y + reflected w h p (x + step) y + 1) / 2
    else
      let ns := [(-step, -step), (0, -step), (step, -step), (-step, 0), (step, 0), (-step, step), (0, step), (step, step)].map
        fun (o : Int × Int) => reflected w h p (x + o.1) (y + o.2)
      let hi := ns.foldl max 0
      let lo := ns.foldl min 65535
      if hi + th < v then hi else if v < lo - th then lo else v

/-- Shading (R286). -/
def shading (c : List Byte) (w h : Nat) (p : Plane) : Plane :=
  let lx := cf c 68 1
  let ly := cf c 69 1
  mapPlane w h p fun x y v =>
    let g := fun i j => cf c (1792 + 2 * (289 * phaseOf c x y + 17 * j + i)) 2
    let i := x / 2 ^ lx
    let fx := x % 2 ^ lx
    let j := y / 2 ^ ly
    let fy := y % 2 ^ ly
    let a := (g i j * (2 ^ lx - fx) + g (i + 1) j * fx) * (2 ^ ly - fy)
    let b := (g i (j + 1) * (2 ^ lx - fx) + g (i + 1) (j + 1) * fx) * fy
    let q := (a + b + 2 ^ (lx + ly - 1)) / 2 ^ (lx + ly)
    min 65535 ((v * (q : Int) + 2048) / 4096)

/-- White balance (R287). -/
def whiteBalance (c : List Byte) (w h : Nat) (p : Plane) : Plane :=
  mapPlane w h p fun x y v => min 65535 ((v * (cf c (56 + 2 * phaseOf c x y) 2 : Nat) + 2048) / 4096)

/-- The colour of a CFA phase: 0 R, 1 G, 2 B (R288). -/
def cfaColour (cfa phase : Nat) : Nat :=
  match cfa with
  | 1 => [0, 1, 1, 2].getD phase 1
  | 2 => [1, 0, 2, 1].getD phase 1
  | 3 => [1, 2, 0, 1].getD phase 1
  | _ => [2, 1, 1, 0].getD phase 1

/-- One colour of a demosaiced plane (R288). -/
def demosaic (c : List Byte) (w h : Nat) (p : Plane) (k : Nat) : Plane :=
  mapPlane w h p fun x y v =>
    let at_ := fun (dx dy : Int) => reflected w h p (x + dx) (y + dy)
    let here := cfaColour (cCfa c) (phaseOf c x y)
    if here = k then v
    else if k = 1 then
      let l := at_ (-1) 0
      let r := at_ 1 0
      let u := at_ 0 (-1)
      let d := at_ 0 1
      let dh := (l - r).natAbs
      let dv := (u - d).natAbs
      if dh < dv then (l + r + 1) / 2 else if dv < dh then (u + d + 1) / 2 else (l + r + u + d + 2) / 4
    else if here = 1 then
      if cfaColour (cCfa c) (phaseOf c (x + 1) y) = k then (at_ (-1) 0 + at_ 1 0 + 1) / 2
      else (at_ 0 (-1) + at_ 0 1 + 1) / 2
    else (at_ (-1) (-1) + at_ 1 (-1) + at_ (-1) 1 + at_ 1 1 + 2) / 4

/-- Colour matrix, one output channel (R289). -/
def colour (c : List Byte) (w h : Nat) (ps : List Plane) (k : Nat) : Plane :=
  mkPlane w h fun x y =>
    let s := sumI ((List.range 3).map fun j => sext 16 (cf c (72 + 2 * (3 * k + j)) 2) * (ps.getD j []).get x y)
    clampI 0 65535 ((s + 512) / 1024 + sext 16 (cf c (90 + 2 * k) 2))

/-- Tone curve k (R290). -/
def tone (c : List Byte) (w h : Nat) (k : Nat) (p : Plane) : Plane :=
  mapPlane w h p fun _ _ v =>
    let i := (v / 256).toNat
    let f := v % 256
    let t := fun j => (cf c (128 + 2 * (257 * k + j)) 2 : Int)
    t i + ((t (i + 1) - t i) * f + 128) / 256

/-- The planes after every stage: one for MONO and luma, R, G and B otherwise (Table 7.3). -/
def stages (d : Nat) (c : List Byte) (w h : Nat) (lines : List (List Byte)) : List Plane :=
  let toneIf := fun (ps : List Plane) => if cStage c 5 then ps.zipIdx.map fun q => tone c w h q.2 q.1 else ps
  let colourIf := fun (ps : List Plane) => if cStage c 4 then (List.range 3).map (colour c w h ps) else ps
  if dtRaw d then
    let p := lines.map (unpackLine d w)
    let p := if cStage c 0 then blackLevel c w h p else p
    let p := if cStage c 1 then defects c w h p else p
    let p := if cStage c 2 then shading c w h p else p
    let p := if cStage c 3 then whiteBalance c w h p else p
    if cCfa c = 0 then toneIf [p] else toneIf (colourIf ((List.range 3).map (demosaic c w h p)))
  else if d = 0x24 then toneIf (colourIf ((List.range 3).map fun k => lines.map (unpackRgb w k)))
  else [lines.map (unpackLine d w)]

/-- Pixels that defect correction changes (Table 7.9 byte 192). -/
def defectsChanged (d : Nat) (c : List Byte) (w h : Nat) (lines : List (List Byte)) : Nat :=
  if dtRaw d && cStage c 1 then
    let p := lines.map (unpackLine d w)
    let p := if cStage c 0 then blackLevel c w h p else p
    let q := defects c w h p
    (List.zipWith (fun a b => (List.zipWith (fun u v => b2n (decide (u ≠ v))) a b).foldl (· + ·) 0) p q).foldl (· + ·) 0
  else 0

/-! ### Output conversion (R291) -/

/-- An 8-bit value. -/
def to8 (v : Int) : Nat := (min 255 ((v + 128) / 256)).toNat

/-- The bytes of one pixel of one plane of an output format. -/
def pixelBytes (f plane : Nat) (px : Nat → Int) : List Byte :=
  match f with
  | 0 => le 1 (to8 (px 0))
  | 1 => le 2 (px 0).toNat
  | 2 => le 1 (to8 ((19595 * px 0 + 38470 * px 1 + 7471 * px 2 + 32768) / 65536))
  | 3 => le 1 (to8 (px plane))
  | 4 => le 1 (to8 (px 0)) ++ le 1 (to8 (px 1)) ++ le 1 (to8 (px 2)) ++ le 1 0xFF
  | _ => le 2 (px plane).toNat

/-- Line y of a plane of the output. -/
def outputLine (f plane w : Nat) (ps : List Plane) (y : Nat) : List Byte :=
  (List.range w).flatMap fun x => pixelBytes f plane fun k => (ps.getD k []).get x y

/-! ### Rows (R292, R293) -/

/-- How many further lines a line's output depends on (R285, R288). -/
def laneReach (d : Nat) (c : List Byte) : Nat :=
  if cFormat c = 6 ∨ dtRaw d = false then 0
  else (if cStage c 1 then (if cCfa c = 0 then 1 else 2) else 0) + (if cCfa c = 0 then 0 else 1)

/-- Rows of a region of n lines. -/
def regionRows (stride len n : Nat) : Nat := if n = 0 then 0 else ceilDiv ((n - 1) * stride + len) 512

/-- Where one line of a region stands: its bytes are known, it will never be written, or it is still to come. -/
inductive LineOut where
  | bytes (l : List Byte)
  | never
  | pending
  deriving DecidableEq, Repr

/-- Where a row of a region stands, with its bytes from the last to the first: the gap after a line is zero, once the line is
known (R292). -/
def regionRow (stride len : Nat) (line : Nat → LineOut) (r : Nat) : LineOut :=
  (List.range 512).foldr (fun i acc =>
    let b := 512 * r + i
    match line (b / stride), acc with
    | .never, _ => .never
    | _, .never => .never
    | .bytes d, .bytes l => .bytes ((if len ≤ b % stride then 0 else d.getD (b % stride) 0) :: l)
    | _, _ => .pending) (.bytes [])

/-- The ranges of rows a frame can write: planes, raw tap, embedded data, record (R275). -/
def frameRanges (d : Nat) (c : List Byte) : List (Nat × Nat) :=
  ((List.range (outPlanes (cFormat c))).map fun k =>
    (cf c 8 4 + k * cf c 16 4, regionRows (cf c 12 4) (outLine d c) (cHeight c))) ++
  (if cTap c = 0 then [] else [(cf c 20 4, regionRows (cf c 24 4) (tapLine d c) (cHeight c))]) ++
  (if cf c 32 2 = 0 then [] else [(cf c 28 4, 32 * cf c 32 2)]) ++ [(cf c 36 4, 1)]

/-! ### The image rules (Table 7.5, R296) -/

/-- STAGES bits a data type allows (Table 7.3). -/
def stagesAllowed (d cfa : Nat) : Nat :=
  if dtRaw d then (if cfa = 0 then 0b101111 else 0b111111) else if d = 0x24 then 0b110000 else 0

/-- Output formats a data type allows (Table 7.4). -/
def formatAllowed (d cfa f : Nat) : Bool :=
  match f with
  | 0 => (dtRaw d && decide (cfa = 0)) || decide (d = 0x1E)
  | 1 => dtRaw d && decide (cfa = 0)
  | 2 | 3 | 4 | 5 => (dtRaw d && decide (cfa ≠ 0)) || decide (d = 0x24)
  | 6 => true
  | _ => false

/-- Grid entries beyond the counts in use are zero; `on` says whether the stage is. -/
def gridOk (on : Bool) (c : List Byte) : Bool :=
  (List.range 4).all fun p => (List.range 17).all fun j => (List.range 17).all fun i =>
    (on && decide (i < cf c 70 1) && decide (j < cf c 71 1) && (decide (p = 0) || decide (cCfa c ≠ 0))) ||
      zeros c (1792 + 2 * (289 * p + 17 * j + i)) 2

/-- The defect list is inside the image, ascending, and zero beyond its count. -/
def defectsOk (c : List Byte) : Bool :=
  let n := cf c 66 2
  let x := fun k => cf c (4608 + 4 * k) 2
  let y := fun k => cf c (4610 + 4 * k) 2
  decide (n ≤ 1024) && zeros c (4608 + 4 * n) (4096 - 4 * n) &&
    (List.range n).all fun k => decide (x k < cWidth c) && decide (y k < cHeight c) &&
      (decide (k = 0) || decide (y (k - 1) < y k) || (decide (y (k - 1) = y k) && decide (x (k - 1) < x k)))

/-- A context image keeps every rule of Table 7.5 for a data type. The BYTES format leaves the CFA and every stage unused, so
their fields are zero (R296; assumption log 73). -/
def contextImageOk (d : Nat) (c : List Byte) : Bool :=
  let w := cWidth c
  let h := cHeight c
  let cfa := cCfa c
  let phases := if cfa = 0 then 1 else 4
  let raw := decide (cFormat c = 6)
  let on := fun k => cStage c k && !raw
  decide (16 ≤ w) && decide (w ≤ 8192) && decide (w % 2 = 0) && decide (2 ≤ h) && decide (h ≤ 8192) &&
    (decide (cfa = 0) || (dtRaw d && decide (h % 2 = 0))) && decide (cfa ≤ 4) &&
    (!raw || zeros c 4 2) && decide (cf c 5 1 &&& stagesAllowed d cfa = cf c 5 1) && formatAllowed d cfa (cFormat c) &&
    (decide (cTap c < 2) || (decide (cTap c = 2) && dtRaw d)) &&
    decide (cf c 12 4 % 64 = 0) && decide (outLine d c ≤ cf c 12 4) && decide (cf c 12 4 ≤ 65536) &&
    (if outPlanes (cFormat c) = 3 then decide (ceilDiv (h * cf c 12 4) 512 ≤ cf c 16 4) else decide (cf c 16 4 = 0)) &&
    (if cTap c = 0 then zeros c 20 8 else decide (cf c 24 4 % 64 = 0) && decide (tapLine d c ≤ cf c 24 4)) &&
    decide (cf c 32 2 ≤ 16) && zeros c 34 2 &&
    (if on 0 then zeros c (40 + 2 * phases) (8 - 2 * phases) && zeros c (48 + 2 * phases) (8 - 2 * phases)
     else zeros c 40 16) &&
    (if on 3 then zeros c (56 + 2 * phases) (8 - 2 * phases) else zeros c 56 8) &&
    (if on 1 then defectsOk c else zeros c 64 4 && zeros c 4608 4096) &&
    (if on 2 then decide (4 ≤ cf c 68 1) && decide (cf c 68 1 ≤ 10) && decide (4 ≤ cf c 69 1) && decide (cf c 69 1 ≤ 10) &&
        decide (2 ≤ cf c 70 1) && decide (cf c 70 1 ≤ 17) && decide (2 ≤ cf c 71 1) && decide (cf c 71 1 ≤ 17) &&
        decide (w ≤ (cf c 70 1 - 1) * 2 ^ cf c 68 1) && decide (h ≤ (cf c 71 1 - 1) * 2 ^ cf c 69 1)
     else zeros c 68 4) && gridOk (on 2) c &&
    (on 4 || zeros c 72 24) && zeros c 96 32 &&
    (if on 5 then (decide (cfa ≠ 0) || decide (d = 0x24) || zeros c 642 1028) else zeros c 128 1542) &&
    zeros c 1670 122 && zeros c 4104 504

end Sys2Proof.Machine
end

