-- ==== Sys2Proof/Machine/StallOps.lean ====
section
/-!
DEFINITION. Arbitration at the stalls of the Loft (R224 to R229, R254): which pending access a stall grants, what a lost cycle
counts, and how an access that arrives meets those that wait.
-/
namespace Sys2Proof.Machine

/-! ### Order of grants (R227, R228) -/

/-- A GATE or HOST access that has lost 64 consecutive cycles (R228). -/
def Access.promoted (a : Access) : Bool := (decide (a.cls = .gate) || decide (a.cls = .host)) && decide (64 ≤ a.lost)

/-- The place of a pending access in the order of a stall: RECOVERY, then promoted accesses, then the classes of Table 6.2. -/
def Access.place (a : Access) : Nat := if a.promoted then 0 else a.cls.rank + b2n (decide (a.cls ≠ .recovery))

/-- The accesses a stall can grant: a row under refill is not served (R254). -/
def ready (s : State) (stall : Nat) : List Access :=
  s.loft.waiting.filter fun a => decide (stallOf a.row = stall) && !thas s.loft.refills a.row

/-- The access a stall grants: the first class that has one, and in it the clients in turn (R227, R228). -/
def stallGrant (s : State) (stall : Nat) : Option Access :=
  match minBy Access.place (ready s stall) with
  | none => none
  | some b =>
    let last := (tget s.loft.lastClient (8 * stall + b.cls.rank)).getD 0
    minBy (fun a : Access => (a.client + 1023 - last) % 1024)
      ((ready s stall).filter fun a => decide (a.cls = b.cls) && decide (a.place = b.place))

/-- Length of a core-domain cycle in whole ns (R229; assumption log 13). -/
def cycleNs (s : State) : Nat := if s.power.state = .decaf then 2 else 1

/-- The stall has granted nothing in this cycle (R224). -/
def cycleFree (s : State) (stall : Nat) : Bool :=
  match tget s.loft.granted stall with
  | some t => decide (t + cycleNs s ≤ s.now)
  | none => true

/-! ### Lost cycles (R229) -/

/-- A class loses cycles. -/
def countLost (cls : StallClass) (n : Nat) (c : LoftCounts) : LoftCounts := { c with lost := lmod c.lost cls.rank (· + n) }

/-- One pending access has lost a cycle. -/
def Access.loses (a : Access) : Access := { a with lost := a.lost + 1 }

/-- Counts of accesses that have lost a cycle each. -/
def countLosers (l : List Access) (c : LoftCounts) : LoftCounts :=
  l.foldl (fun c a =>
    let c := countLost a.cls 1 c
    if a.cls = .node then { c with largestWait := max c.largestWait (a.lost + 1) } else c) c

/-- A stall spends a cycle on an access that is not among those that wait: each that could have been granted loses it. -/
def spendCycle (stall : Nat) (s : State) : State :=
  let losers := ready s stall
  s.modLoft fun l =>
    { l with
      waiting := l.waiting.map fun a => if losers.contains a then a.loses else a,
      granted := tset l.granted stall s.now,
      counts := countLosers losers l.counts }

/-- A stall spends a cycle on a waiting access, which leaves the queue. -/
def loseCycle (stall : Nat) (granted : Access) (s : State) : State :=
  spendCycle stall (s.modLoft fun l =>
    { l with waiting := l.waiting.erase granted,
             lastClient := tset l.lastClient (8 * stall + granted.cls.rank) granted.client })

/-- Accesses that waited for a row under refill have lost the cycles of the wait (R254). -/
def refillLost (row : Nat) (since : Instant) (s : State) : State :=
  s.modLoft fun l =>
    let wait := fun a : Access => (s.now - max since a.since) / cycleNs s
    let held := l.waiting.filter fun a => a.row = row
    { l with
      waiting := l.waiting.map fun a => if a.row = row then { a with lost := a.lost + wait a } else a,
      counts := held.foldl (fun c a =>
        let c := countLost a.cls (wait a) c
        if a.cls = .node then { c with largestWait := max c.largestWait (a.lost + wait a) } else c) l.counts }

/-! ### Recovery accesses -/

/-- A row access of class RECOVERY takes the next cycle of its stall (R228): it loses one where the stall has granted in this
cycle already. -/
def recoveryAccess (row : Nat) (s : State) : State :=
  spendCycle (stallOf row) (if cycleFree s (stallOf row) then s
    else s.modLoft fun l => { l with counts := countLost .recovery 1 l.counts })

/-! ### Accesses that come all at once

A node at its end, a lane, egress, or a data movement at its end accesses rows that its work has spread over time (assumption
log 67); each row takes a cycle of its own at its stall. Such an access waits, and is tried again, while the stall of one of
its rows has an access to grant first, or while a row it reads is under refill. -/

/-- A range of rows, as first row and count, touches a stall. -/
def touches (r : Nat × Nat) (stall : Nat) : Bool :=
  decide (64 ≤ r.2) || decide ((stall + 64 - stallOf r.1) % 64 < r.2)

/-- Pending accesses at the stalls of ranges of rows. -/
def pendingAt (s : State) (rs : List (Nat × Nat)) : List Access :=
  s.loft.waiting.filter fun a => !thas s.loft.refills a.row && rs.any fun r => touches r (stallOf a.row)

/-- A pending access goes before one of a class that has lost a number of consecutive cycles (R227, R228). -/
def Access.before (cls : StallClass) (lost : Nat) (a : Access) : Bool :=
  if cls = .host ∧ 64 ≤ lost then decide (a.cls = .recovery) else decide (a.cls.rank ≤ cls.rank) || a.promoted

/-- Pending accesses that go before new ones of a class to ranges of rows. -/
def aheadOf (s : State) (cls : StallClass) (lost : Nat) (rs : List (Nat × Nat)) : List Access :=
  (pendingAt s rs).filter (·.before cls lost)

/-- New accesses of a class to ranges of rows: granted, where each pending access they pass loses a cycle; the answer tells
whether they are. Otherwise they lose a cycle to each access ahead of them. `owner` keeps the consecutive cycles lost (R228, R229). -/
def passStalls (cls : StallClass) (owner : Nat) (rs : List (Nat × Nat)) (s : State) : State × Bool :=
  let tries := ((tget s.loft.tries owner).map (·.1)).getD 0
  let first := aheadOf s cls tries rs
  if first = [] then
    let passed := pendingAt s rs
    (s.modLoft fun l =>
      { l with
        waiting := l.waiting.map fun a => if passed.contains a then a.loses else a,
        tries := tdel l.tries owner,
        counts := countLosers passed l.counts }, true)
  else
    (s.modLoft fun l =>
      { l with
        tries := tset l.tries owner (tries + first.length, (first.map fun a => stallOf a.row).eraseDups),
        counts :=
          let c := countLost cls first.length l.counts
          if cls = .node then { c with largestWait := max c.largestWait (tries + first.length) } else c }, false)

/-- One row that a lane writes by itself, or that the Loft tests: it loses a cycle to each access ahead of it, and is
granted. -/
def passAccess (cls : StallClass) (row : Nat) (s : State) : State :=
  (passStalls cls (2 ^ 56) [(row, 1)] s).1.modLoft fun l => { l with tries := tdel l.tries (2 ^ 56) }

/-- Row accesses of fabric requests are discarded with their requests (R43, R458). -/
def dropRequestAccesses (s : State) : State :=
  s.modLoft fun l => { l with waiting := l.waiting.filter fun a => match a.what with | .request .. => false | .bar2 _ => true }

/-! ### Reads that meet refills -/

/-- Every detected row among those read is reported (R253); a row under refill is not read (R254). -/
def detectRows (by_ : DetectBy) (rows : List Nat) (s : State) : State :=
  rows.foldl (fun s row => if rowBad s row && !thas s.loft.refills row then detect row by_ s else s) s

end Sys2Proof.Machine
end

