-- ==== Sys2Proof/Machine/CameraOps.lean ====
section
/-!
DEFINITION. Camera ports, contexts and frames (07, R266 to R302): packets, pending effects, rows, records, cuts.
-/
namespace Sys2Proof.Machine

/-! ### Ports -/

/-- A port accepts line activity (R266). -/
def CamPort.listens (p : CamPort) (now : Instant) : Bool := p.enabled && p.quietUntil.all fun q => decide (q ≤ now)

/-- Port counters changed. -/
def countPort (p : Nat) (f : PortCounts → PortCounts) (s : State) : State :=
  s.modPort p fun x => { x with counts := f x.counts }

/-- An error counter of a port rises (R309). -/
def portError (p : Nat) (f : PortCounts → PortCounts) (s : State) : State :=
  s.modPort p fun x => { x with counts := f x.counts, errors := x.errors + 1 }

/-- Contexts bound to a port and virtual channel, by number. -/
def boundTo (s : State) (port vc : Nat) : List Nat :=
  (List.range 32).filter fun k =>
    match (s.ctx k).binding with | some b => decide (b.port = port) && decide (b.vc = vc) | none => false

/-- A frame takes packets: it has not ended and no later frame-start packet came. -/
def Frame.takes (f : Frame) : Bool := f.ended.isNone && !f.superseded

/-- A frame of a context changed. -/
def modFrame (k : Nat) (g : Frame → Frame) (s : State) : State := s.modCtx k fun c => { c with frame := c.frame.map g }

/-- Every frame in progress on a port becomes DAMAGED (R270). -/
def damagePort (port : Nat) (s : State) : State :=
  (List.range 32).foldl (fun s k => modFrame k (fun f =>
    if f.binding.port = port ∧ f.ended = none then { f with damaged := true, badHeader := true } else f) s) s

/-- A packet header is checked (R269, R270): a sound or corrected one on a virtual channel up to 15 goes on; the
corrections of a header count in the frames of its channel. -/
def withHeader (port vc : Nat) (hdr : HeaderCheck) (k : State → State) (s : State) : State :=
  if !(s.port port).listens s.now then s
  else match hdr with
    | .unsynchronised => portError port (fun c => { c with phySync := c.phySync + 1 }) s
    | .uncorrectable => damagePort port (portError port (fun c => { c with hdrBad := c.hdrBad + 1 }) s)
    | .sound => onVc s
    | .corrected =>
      onVc (portError port (fun c => { c with hdrCorrected := c.hdrCorrected + 1 }) s)
where
  /-- The packet is sorted by its virtual channel. -/
  onVc (s : State) : State :=
    if 15 < vc then portError port (fun c => { c with unmatched := c.unmatched + 1 }) s else k s

/-- A corrected header counts in the frames of its channel that take packets (Table 7.6). -/
def countCorrected (hdr : HeaderCheck) (ks : List Nat) (s : State) : State :=
  if hdr = .corrected then
    ks.foldl (fun s k => modFrame k (fun f => if f.takes then { f with corrected := f.corrected + 1 } else f) s) s
  else s

/-! ### Rows (R292, R293, R302) -/

/-- A lane's write was refused: counted, and the frame becomes DAMAGED (R302). -/
def refuseLane (k : Nat) (s : State) : State :=
  modFrame k (fun f => { f with damaged := true, refused := true })
    (s.modLane (k / 4) fun l => { l with refused := l.refused + 1 })

/-- A lane writes a row in class LANE, or its write is refused (R227, R302). -/
def laneRow (k row : Nat) (d : List Byte) (s : State) : State :=
  match (s.ctx k).frame with
  | none => s
  | some f =>
    match refusedUnit s f.binding.tenant true false (512 * row) 512 with
    | none => putRow row d (passAccess .lane row (modFrame k (fun f => { f with wrote := row :: f.wrote }) s))
    | some why => refuseAccess f.binding.tenant why (512 * row) (refuseLane k s)

/-- The instant up to which a lane's processing counts for a frame: now, or the instant at which it was cut (R277). -/
def Frame.limit (f : Frame) (now : Instant) : Instant :=
  match f.ended with | some (t, cut) => if cut = 0 then now else t | none => now

/-- The frame ended at its frame-end packet. -/
def Frame.full (f : Frame) : Bool := match f.ended with | some (_, 0) => true | _ => false

/-- The frame was cut, or ends as a cut one at t_g. -/
def Frame.cut (f : Frame) : Bool := match f.ended with | some (_, 0) => false | some _ => true | none => false

/-- Where input line y of a frame stands; an empty line beyond a frame-end packet stands for the zeros that complete
its final partial row. -/
def inputLine (f : Frame) (now : Instant) (y : Nat) : LineOut :=
  match f.lines[y]? with
  | some (some (d, t)) => if t ≤ f.limit now then .bytes d else if f.cut then .never else .pending
  | some none => .never
  | none => if f.full then .bytes [] else if f.cut then .never else .pending

/-- Where output line y stands: it needs every line of the image within reach (R285, R288). -/
def outputState (f : Frame) (now : Instant) (y : Nat) : LineOut :=
  let h := cHeight f.image
  let r := laneReach f.binding.dtype f.image
  if h ≤ y ∨ f.lines.length ≤ y then inputLine f now y
  else
    let need := ((List.range (2 * r + 1)).map fun i => y + i - r).filter fun i => decide (i < h)
    let here := fun i => if f.full ∧ f.lines.length ≤ i then LineOut.never else inputLine f now i
    need.foldl (fun acc i =>
      match acc, here i with
      | .never, _ => .never
      | _, .never => .never
      | .bytes l, .bytes _ => .bytes l
      | _, _ => .pending) (.bytes [])

/-- The lines of a frame with those not known empty. -/
def knownLines (f : Frame) (now : Instant) : List (List Byte) :=
  (List.range (cHeight f.image)).map fun y => match inputLine f now y with | .bytes d => d | _ => []

/-- The regions of a frame: first row, stride, bytes of a line, and where each of its lines stands. -/
def frameRegions (f : Frame) (now : Instant) : List (Nat × Nat × Nat × (Nat → LineOut)) :=
  let d := f.binding.dtype
  let c := f.image
  let w := cWidth c
  let ps := if cFormat c = 6 then [] else stages d c w (cHeight c) (knownLines f now)
  let real := fun y => decide (y < cHeight c) && decide (y < f.lines.length)
  let plane := fun k y =>
    match outputState f now y, inputLine f now y with
    | .bytes _, .bytes l =>
      if real y then .bytes (if cFormat c = 6 then l else outputLine (cFormat c) k w ps y) else .bytes []
    | st, _ => st
  let tap := fun y =>
    match inputLine f now y with
    | .bytes l =>
      if real y ∧ cTap c = 2 then .bytes ((unpackLine d w l).flatMap fun v => le 2 v.toNat) else .bytes l
    | st => st
  ((List.range (outPlanes (cFormat c))).map fun k => (cf c 8 4 + k * cf c 16 4, cf c 12 4, outLine d c, plane k)) ++
    (if cTap c = 0 then [] else [(cf c 20 4, cf c 24 4, tapLine d c, tap)])

/-- Rows of one region that are known are written in increasing order, and those that will never be known are passed
over; the answer is the first row that is still to come. -/
def writeRegion (k first stride len : Nat) (line : Nat → LineOut) (total : Nat) : Nat → Nat → State → State × Nat
  | 0, r, s => (s, r)
  | n + 1, r, s =>
    if total ≤ r then (s, r)
    else match regionRow stride len line r with
      | .pending => (s, r)
      | .never => writeRegion k first stride len line total n (r + 1) s
      | .bytes d => writeRegion k first stride len line total n (r + 1) (laneRow k (first + r) d s)

/-- The lane writes every row of a context's frame that it has completed by now and not sent as a packet; once the frame is
cut it writes none (R277, R292, R293). -/
def writeRows (k : Nat) (s : State) : State :=
  match (s.ctx k).frame with
  | none => s
  | some f =>
    if f.cut then s else
    let n := if f.full then f.lines.length else cHeight f.image
    let regs := frameRegions f s.now
    let s := (List.range regs.length).foldl (fun s i =>
      match regs[i]? with
      | some (first, stride, len, line) =>
        let total := regionRows stride len n
        let r0 := f.next.getD i 0
        let r := writeRegion k first stride len line total (total - r0) r0 s
        modFrame k (fun f => { f with next := f.next.set i r.2 }) r.1
      | none => s) s
    let done := ((List.range f.lines.length).filter fun y =>
      match outputState f s.now y with | .bytes _ => true | _ => false).length
    modFrame k (fun f => { f with linesWritten := done }) s

/-- A row, if it is the next that a lane has completed and not written of one of the frame's regions: the region, its place
there and its bytes. -/
def nextLaneRow (f : Frame) (now : Instant) (row : Nat) : Option (Nat × Nat × List Byte) :=
  let n := if f.full then f.lines.length else cHeight f.image
  let regs := frameRegions f now
  (List.range regs.length).findSome? fun i =>
    match regs[i]? with
    | some (first, stride, len, line) =>
      let r := row - first
      let skipped := fun j => match regionRow stride len line j with | .never => true | _ => false
      if first ≤ row ∧ r < regionRows stride len n ∧ f.next.getD i 0 ≤ r ∧
          (((List.range r).drop (f.next.getD i 0)).all skipped) = true ∧ f.cut = false then
        match regionRow stride len line r with | .bytes d => some (i, r, d) | _ => none
      else none
    | none => none

/-- Rows of a context's frame that are out in the fabric. -/
def rowsOut (s : State) (k : Nat) : List Nat :=
  (s.fabric.reqs.filter fun p => decide (p.2.issuer = .lane (k / 4) (k % 4))).map fun p => rowOf p.2.pkt.addr

/-- The rows of a frame's planes, raw tap and embedded data that the lane did not write are undefined in a frame that ended
LATE or DAMAGED (R301). Rows whose write was refused stay as they are. -/
def undefineUnwritten (k : Nat) (f : Frame) (s : State) : State :=
  if f.damaged ∨ f.late then
    let wrote := f.wrote.filter fun row => !(rowsOut s k).contains row
    (frameRanges f.binding.dtype f.image).dropLast.foldl (fun s q =>
      (List.range q.2).foldl (fun s r =>
        let row := q.1 + r
        if wrote.contains row ∨ (refusedUnit s f.binding.tenant true false (512 * row) 512).isSome then s
        else undefineRows row 1 s) s) s
  else s

/-! ### The lane's input buffer (R280, R281) -/

/-- Bytes in a lane's input buffer. -/
def Lane.occupancy (l : Lane) (now : Instant) : Nat :=
  l.buffer.foldl (fun n b => if now < b.done then n + b.bytes else n) 0

/-- Pixels a lane has processed (Table 7.9). -/
def Lane.processed (l : Lane) (now : Instant) : Nat :=
  l.buffer.foldl (fun n b => if b.done ≤ now then n + b.pixels else n) l.pixels

/-- A line follows another context's, or the end of the lane's work, by an instant (R281). -/
def LaneLine.place (b : LaneLine) (after : Option Nat) (from_ : Instant) : LaneLine :=
  { b with after := after,
           done := from_ + (if after.all (fun c => decide (c = b.ctx)) then 0 else 32) + ceilDiv (5 * b.pixels) 3 }

/-- Lines placed one after the other. -/
def placeLines (after : Option Nat) (from_ : Instant) : List LaneLine → List LaneLine
  | [] => []
  | b :: l => let b := b.place after from_; b :: placeLines (some b.ctx) b.done l

/-- The latest line of a context's frame that was to be processed at one instant is processed at another. -/
def retime (b : LaneLine) (done : Instant) (s : State) : State :=
  modFrame b.ctx (fun f =>
    { f with lines := f.lines.map fun x => x.map fun p => if p.2 = b.done then (p.1, done) else p }) s

/-- A line enters the lane: the instant at which it is processed, or nothing where it does not fit. Lines are processed in
the order their last byte arrived, at one instant by lower context (R280). -/
def enterLane (ctx bytes pixels : Nat) (s : State) : State × Option Instant :=
  let k := ctx / 4
  let l := s.lane k
  let used := l.occupancy s.now
  if 65536 < used + bytes then (s.modLane k fun l => { l with dropped := l.dropped + 1 }, none)
  else
    let live := l.buffer.filter fun b => decide (s.now < b.done)
    let later := fun b : LaneLine => decide (b.arrived = s.now) && decide (ctx < b.ctx)
    let ahead := live.filter fun b => !later b
    let behind := live.filter later
    let after := match behind with | b :: _ => b.after | [] => l.lastCtx
    let from_ := ahead.foldl (fun m b => max m b.done) s.now
    let new : LaneLine := { ctx := ctx, bytes := bytes, pixels := pixels, arrived := s.now, done := 0, after := none }
    let new := new.place after from_
    let moved := placeLines (some ctx) new.done behind
    let s := (behind.zip moved).foldl (fun s p => retime p.1 p.2.done s) s
    (s.modLane k fun l =>
      { l with buffer := ahead ++ new :: moved, lastCtx := if behind = [] then some ctx else l.lastCtx,
               highest := max l.highest (used + bytes), pixels := l.processed s.now }, some new.done)

/-- A line of a context's frame arrives (R279, R280). Bytes missing from a short line are undefined. -/
def takeLine (k : Nat) (data : List Byte) (crcOk : Bool) (s : State) : State :=
  match (s.ctx k).frame with
  | none => s
  | some f =>
    let d := f.binding.dtype
    let c := f.image
    let n := payloadLen d (cWidth c)
    let s := modFrame k (fun f =>
      { f with received := f.received + 1, crcLines := f.crcLines + b2n !crcOk, damaged := f.damaged || !crcOk }) s
    if cHeight c ≤ f.received then modFrame k (fun f => { f with long := f.long + 1, damaged := true }) s
    else
      let short := decide (data.length < n)
      let long := decide (n < data.length)
      let line := data.take n ++ (List.range (n - data.length)).map fun i => Config.freeByte s.draws i
      let r := enterLane k data.length (lanePixels d c) (if short then drawn s else s)
      writeRows k (modFrame k (fun f =>
        { f with short := f.short + b2n short, long := f.long + b2n long, dropped := f.dropped + b2n r.2.isNone,
                 damaged := f.damaged || short || long || r.2.isNone,
                 lines := f.lines ++ [r.2.map fun t => (line, t)] }) r.1)

/-- An embedded-data packet of a context's frame (R294). -/
def takeEmbedded (k : Nat) (data : List Byte) (s : State) : State :=
  match (s.ctx k).frame with
  | none => s
  | some f =>
    let drop := fun (n : Nat) (s : State) => s.modLane (k / 4) fun l => { l with embedDropped := l.embedDropped + n }
    if cf f.image 32 2 ≤ f.embedded then drop 1 s
    else
      let d := data.take 16384
      let row := cf f.image 28 4 + 32 * f.embedded
      let s := if d.length < data.length then drop (data.length - d.length) s else s
      let s := (List.range (ceilDiv d.length 512)).foldl (fun s i => laneRow k (row + i) (slice d (512 * i) 512) s) s
      modFrame k (fun f => { f with embedded := f.embedded + 1 }) s

/-! ### Ends and records (R277, R278, R295) -/

/-- The frame-end packet ends a frame (R277, R279). -/
def frameEnd (k : Nat) (s : State) : State :=
  writeRows k (modFrame k (fun f =>
    if f.ended.isSome then f
    else { f with ended := some (s.now, 0), endSeen := some s.now,
                  damaged := f.damaged || decide (f.lines.length < cHeight f.image) }) s)

/-- A frame is cut at an instant: 1 by a LANE_INPUT bound, even after its frame-end packet while its record is not written; 2
by a rebind, where it is in progress (R274, R277, R298). What the lane has completed is written; the rest never will be. -/
def cutFrame (k cut : Nat) (s : State) : State :=
  let s := writeRows k s
  match (s.ctx k).frame with
  | none => s
  | some f =>
    if f.cut ∨ (f.ended.isSome ∧ cut = 2) then s
    else
      let s := modFrame k (fun f => { f with ended := some (s.now, cut), late := decide (cut = 1),
                                             damaged := f.damaged || decide (cut = 2) }) s
      match (s.ctx k).frame with
      | some f => undefineUnwritten k f s
      | none => s

/-- Every line of the frame that the lane will write has been processed. -/
def Frame.drained (f : Frame) (now : Instant) : Bool :=
  f.cut || f.lines.all fun l => match l with | some (_, t) => decide (t ≤ now) | none => true

/-- Status of an ended frame (Table 7.6). -/
def Frame.status (f : Frame) : Status := if f.late then .late else if f.damaged then .damaged else .ok

/-- The frame record (Table 7.6). -/
def frameRecord (k : Nat) (f : Frame) : List Byte :=
  let cut := match f.ended with | some (_, c) => c | none => 0
  fit 512 (le 2 f.status.code ++ le 1 (k / 4) ++ le 1 (k % 4) ++ le 2 f.number.toNat ++ le 2 0 ++ le 8 f.start ++
    le 8 (f.endSeen.getD 0) ++ le 4 f.tickno.toNat ++ le 2 f.received ++
    le 2 f.linesWritten ++ le 2 f.crcLines ++ le 2 f.corrected ++ le 2 f.short ++ le 2 f.long ++ le 2 f.dropped ++
    le 1 f.embedded ++
    le 1 (b2n f.endSeen.isSome + 2 * b2n (decide (cut = 1)) + 4 * b2n (decide (cut = 2)) + 8 * b2n f.refused +
      16 * b2n f.badHeader))

/-- LANE_INPUT nodes that wait for a context, for the tenant of its frame (R298). -/
def laneWaiters (s : State) (k tenant : Nat) : List (Nat × Nat) :=
  (runningNodes s).filter fun p =>
    decide ((s.node p.1 p.2).kind = .laneInput) && decide (tenantOf p.1 = tenant) &&
    match s.inst p.1 with
    | some inst => decide (4 * bf (inst.run p.2).body 64 1 + bf (inst.run p.2).body 65 1 = k)
    | none => false

/-- Counts of a frame that ended (Table 7.9). -/
def countFrame (st : Status) (l : Lane) : Lane :=
  match st with
  | .late => { l with framesLate := l.framesLate + 1 }
  | .damaged => { l with framesDamaged := l.framesDamaged + 1 }
  | _ => { l with framesOk := l.framesOk + 1 }

/-- The pixels of a frame that defect correction has changed are counted (Table 7.9). -/
def countDefects (k : Nat) (f : Frame) (s : State) : State :=
  let n := defectsChanged f.binding.dtype f.image (cWidth f.image) (cHeight f.image) (knownLines f s.now)
  s.modLane (k / 4) fun l => { l with defects := l.defects + n }

/-- FRAME_FAULT, at most once per context per window (Table 7.8). -/
def postFrameFault (k : Nat) (f : Frame) (s : State) : State :=
  if f.status = .ok ∨ (s.ctx k).faulted then s
  else postTenant f.binding.tenant clsCamera 1
    (detail [(0, k / 4), (3, k % 4), (16, f.status.code), (32, f.linesWritten), (48, f.number.toNat)])
    (s.modCtx k fun c => { c with faulted := true })

/-- The record of an ended frame is written, and the LANE_INPUT nodes that wait for the frame end (R295, R298). -/
def writeRecord (k : Nat) (s : State) : State :=
  let s := writeRows k s
  match (s.ctx k).frame with
  | none => s
  | some f =>
    let s := if f.cut then s else undefineUnwritten k f s
    let s := laneRow k (cf f.image 36 4) (frameRecord k f) s
    let f := ((s.ctx k).frame).getD f
    let s := (countDefects k f s).modLane (k / 4) (countFrame f.status)
    let s := postFrameFault k f (s.modCtx k fun c => { c with frame := none, recorded := some f.status })
    (laneWaiters s k f.binding.tenant).foldl (fun s p => endLaneInput p.1 p.2 f.status s) s

/-- The guillotine ends every frame without its record (R277, R278): one in progress is counted as cut, one that had ended as
what it ended as. -/
def cutFrames (s : State) : State :=
  (List.range 32).foldl (fun s k =>
    let s := writeRows k s
    match (s.ctx k).frame with
    | none => s
    | some f =>
      let s := if f.ended.isNone then portError f.binding.port (fun c => { c with cutAtTg := c.cutAtTg + 1 }) s
        else s.modLane (k / 4) (countFrame f.status)
      let s := if f.cut then s else undefineUnwritten k f s
      (countDefects k f s).modCtx k fun c => { c with frame := none }) s

/-! ### Effects on contexts (R272 to R274) -/

/-- A binding after one effect. -/
def CtxEffect.binding (b : Option Binding) (e : CtxEffect) : Option Binding :=
  match e with | .bind x => some x | .unbind => none | .params _ => b

/-- The bindings whose packets an effect waits for, effect by effect: for an UNBIND the one before it (R272). -/
def awaited (b : Option Binding) : List CtxEffect → List Binding
  | [] => []
  | e :: l => (match e with | .unbind => b | _ => e.binding b).toList ++ awaited (e.binding b) l

/-- The bindings that UNBIND effects undo, effect by effect: their tenants learn of it (Table 7.8). -/
def unboundFrom (b : Option Binding) : List CtxEffect → List Binding
  | [] => []
  | e :: l => (match e with | .unbind => b | _ => none).toList ++ unboundFrom (e.binding b) l

/-- The binding a context will have once its pending effects have taken place (R148). -/
def Ctx.bindingSoon (c : Ctx) : Option Binding := c.pending.foldl CtxEffect.binding c.binding

/-- One pending effect takes place. A LANE_BIND effect clears the parameters and ends a frame in progress (R273,
R274). -/
def applyCtx (k : Nat) (e : CtxEffect) (s : State) : State :=
  match e with
  | .bind b => (cutFrame k 2 s).modCtx k fun c => { c with binding := some b, image := none, discarding := false }
  | .unbind => (cutFrame k 2 s).modCtx k fun c => { c with binding := none, image := none, discarding := false }
  | .params i => s.modCtx k fun c => { c with image := some i }

/-- Every pending effect of a context takes place at one packet or opening, and is reported (R272, R309). -/
def applyPending (k number : Nat) (s : State) : State :=
  let c := s.ctx k
  if c.pending = [] then s
  else
    let has := fun p : CtxEffect → Bool => b2n (c.pending.any p)
    let d := detail [(0, k / 4), (3, k % 4), (8, has fun e => match e with | .bind _ => true | _ => false),
      (9, has fun e => match e with | .unbind => true | _ => false),
      (10, has fun e => match e with | .params _ => true | _ => false), (32, number)]
    let s := c.pending.foldl (fun s e => applyCtx k e s) (s.modCtx k fun c => { c with pending := [] })
    let to_ := ((unboundFrom c.binding c.pending) ++ (s.ctx k).binding.toList).map (·.tenant)
    to_.eraseDups.foldl (fun s n => postTenant n clsCamera 3 d s) s

/-- Contexts with an effect that a frame-start packet on a port and virtual channel makes take place (R272). -/
def effectContexts (s : State) (port vc : Nat) : List Nat :=
  (List.range 32).filter fun k =>
    (awaited (s.ctx k).binding (s.ctx k).pending).any fun b => decide (b.port = port) && decide (b.vc = vc)

/-- At a window opening: a context without a frame takes its pending UNBIND with all else that is pending; frames of
the window are to come (R272, R276). -/
def openContexts (s : State) : State :=
  (List.range 32).foldl (fun s k =>
    let c := s.ctx k
    let s := if c.frame.isNone && c.pending.any (fun e => match e with | .unbind => true | _ => false)
      then applyPending k 0 s else s
    s.modCtx k fun c => { c with opened := false, recorded := none, faulted := false })
    { s with ports := s.ports.map fun p => { p with errors := 0 } }

/-! ### Frame start (R276) -/

/-- A frame that has just opened. -/
def Frame.start_ (b : Binding) (image : List Byte) (number : BitVec 16) (tickno : BitVec 32) (now : Instant) : Frame :=
  { number := number, start := now, tickno := tickno, binding := b, image := image, lines := [], received := 0,
    linesWritten := 0, crcLines := 0, corrected := 0, short := 0, long := 0, dropped := 0, embedded := 0,
    damaged := false, refused := false, badHeader := false, ended := none, endSeen := none, late := false,
    superseded := false, next := [0, 0, 0, 0], wrote := [] }

/-- Graphs armed ON_FRAME_START on a context bound to their tenant are triggered (R193 to R195). -/
def frameTriggers (k : Nat) (b : Binding) (s : State) : State :=
  (s.drover.graphs.filterMap fun p =>
    match p.2.arm with
    | some a => if a.spec.mode = .onFrameStart ∧ 4 * a.spec.lane + a.spec.context = k ∧ tenantOf p.1 = b.tenant
        then some (p.1, a.spec) else none
    | none => none).foldl (fun s p => trigger p.1 p.2 s) s

/-- A frame-start packet reaches a context: it opens a frame, or is discarded and counted (R273, R276). -/
def openFrame (k port : Nat) (number : BitVec 16) (s : State) : State :=
  let c := s.ctx k
  let s := modFrame k (fun f => if f.ended.isNone then { f with superseded := true } else f) s
  match c.binding with
  | none => s
  | some b =>
    let s := s.modCtx k fun c => { c with discarding := true }
    let s := match c.image with
      | none => s.modLane (k / 4) fun l => { l with unset := l.unset + 1 }
      | some img =>
        if !(match s.tick.window with | some w => decide (s.now < w.td) | none => false) then
          portError port (fun c => { c with outOfWindow := c.outOfWindow + 1 }) s
        else if c.opened then portError port (fun c => { c with extra := c.extra + 1 }) s
        else s.modCtx k fun c =>
          { c with opened := true, discarding := false, frame := some (Frame.start_ b img number s.tick.tickno s.now) }
    frameTriggers k b s

/-- A frame-start packet (R272, R276). -/
def frameStart (port vc : Nat) (number : BitVec 16) (hdr : HeaderCheck) (s : State) : State :=
  let s := (effectContexts s port vc).foldl (fun s k => applyPending k number.toNat s) s
  let ks := boundTo s port vc
  if ks = [] then portError port (fun c => { c with unmatched := c.unmatched + 1 }) s
  else countCorrected hdr ks (ks.foldl (fun s k => openFrame k port number s) s)

/-- PORT_ERRORS in the maintenance slot (Table 7.8). -/
def postPortErrors (s : State) : State :=
  (List.range 8).foldl (fun s p =>
    let n := (s.port p).errors
    if n = 0 then s else postAll clsCamera 2 (detail [(0, p), (16, min n 0xFFFF)]) s) s

end Sys2Proof.Machine
end

