-- ==== Sys2Proof/Machine/StereoOps.lean ====
section
/-!
DEFINITION. Prediction planes, and what STE nodes compute (09).
-/
namespace Sys2Proof.Machine

/-! ### Prediction planes (R340 to R345) -/

/-- A prediction as read: its status byte (Table 9.4 byte 48), its input STAMP field, and its raw entries, one per
block of the plane (empty unless used). -/
structure Pred where
  status : Nat
  stamp : Nat
  bw : Nat
  entries : List Nat
  deriving DecidableEq, Repr

/-- Age of a stamp (R345). -/
def ageOk (s : State) (maxAge stamp : Nat) : Bool :=
  decide (maxAge = 0xFF) || decide ((s.tick.tickno - BitVec.ofNat 32 stamp).toNat ≤ maxAge)

/-- The plane at an address, with the checks of R341 on its header as read at dispatch. -/
def readPlane (s : State) (heads : List (Nat × List Byte)) (a kind bw bh e maxAge : Nat) : Pred :=
  let hd := headBytes s heads a
  let st := planeStride bw e
  let stamp := fld hd 24 4
  if !(decide (hd.take 4 = [0x50, 0x52, 0x45, 0x44]) && decide (fld hd 4 1 = kind) && decide (fld hd 5 1 < 2) &&
      decide (fld hd 8 2 = bw) && decide (fld hd 10 2 = bh) && decide (fld hd 12 4 = st)) then
    { status := 2, stamp := 0, bw := bw, entries := [] }
  else if !ageOk s maxAge stamp then { status := 3, stamp := stamp, bw := bw, entries := [] }
  else
    let body := memBytes s (a + 512) (bh * st)
    if bit (fld hd 5 1) 0 && decide (crc32 body ≠ fld hd 28 4) then { status := 4, stamp := stamp, bw := bw, entries := [] }
    else { status := 1, stamp := stamp, bw := bw,
           entries := (List.range bh).flatMap fun y => (List.range bw).map fun x => fld body (y * st + x * e) e }

/-- The header of a plane (Table 9.1), with its CRC. -/
def planeHeader (kind bw bh e : Nat) (tickno : BitVec 32) (body : List Byte) : List Byte :=
  fit 512 ([0x50, 0x52, 0x45, 0x44] ++ le 1 kind ++ le 1 1 ++ le 2 0 ++ le 2 bw ++ le 2 bh ++ le 4 (planeStride bw e) ++
    le 8 0 ++ le 4 tickno.toNat ++ le 4 (crc32 body))

/-- The entries of a plane as bytes, line by line (R340). -/
def planeBody (bw e : Nat) (entries : List (List Nat)) : List Byte :=
  entries.flatMap fun line => fit (planeStride bw e) (line.flatMap (le e))

/-! ### Census and aggregation (R348, R349) -/

/-- The 62 neighbours of the 9 × 7 census, in raster order (R348). -/
def censusOffsets : List (Int × Int) :=
  ((List.range 7).flatMap fun (j : Nat) => (List.range 9).map fun (i : Nat) => ((i : Int) - 4, (j : Int) - 3)).filter
    fun o => decide (o ≠ (0, 0))

/-- The census of every pixel of an image (R348). -/
def census (p : Plane) (w h : Nat) : Plane :=
  mkPlane w h fun x y =>
    (packBits (censusOffsets.map fun o =>
      decide (p.get (reflect w ((x : Int) + o.1)) (reflect h ((y : Int) + o.2)) < p.get x y)) : Nat)

/-- Path costs of one pixel: the first disparity of its window, and one cost per disparity of the window, none outside
the computed set (R347). -/
structure Costs where
  lo : Nat
  vals : List (Option Nat)
  deriving DecidableEq, Repr

/-- The cost at a disparity, if it is in the computed set. -/
def Costs.at_ (c : Costs) (d : Nat) : Option Nat := if d < c.lo then none else (c.vals[d - c.lo]?).join

/-- The least of the costs present. -/
def Costs.least (c : Costs) : Option Nat := c.vals.foldl (fun m v => match m, v with
  | some a, some b => some (min a b)
  | none, v => v
  | m, none => m) none

/-- Matching costs C of pixel (x, y) over its window (R347, R348). -/
def matchCosts (cl cr : Plane) (lo n x y : Nat) : Costs :=
  { lo := lo, vals := (List.range n).map fun k =>
      let d := lo + k
      if d ≤ x then some (popcount 62 ((cl.get x y).toNat ^^^ (cr.get (x - d) y).toNat)) else none }

/-- One path cost: the matching cost, with the previous pixel's costs q whose least is m (R349). -/
def stepCost (p1 p2 : Nat) (q : Costs) (m d cost : Nat) : Nat :=
  let t := m + p2
  let t := match q.at_ d with | some a => min t a | none => t
  let t := if d = 0 then t else match q.at_ (d - 1) with | some a => min t (a + p1) | none => t
  let t := match q.at_ (d + 1) with | some a => min t (a + p1) | none => t
  cost + t - m

/-- The path costs of a pixel from those of the previous pixel along the path (R349). -/
def pathStep (p1 p2 : Nat) (c : Costs) (prev : Option Costs) : Costs :=
  match prev.bind fun q => q.least.map fun m => (q, m) with
  | none => c
  | some (q, m) =>
    { lo := c.lo, vals := (List.zip (List.range c.vals.length) c.vals).map fun v => v.2.map (stepCost p1 p2 q m (c.lo + v.1)) }

/-- Path costs of a line along path 0, left to right. -/
def pathAcross (p1 p2 : Nat) : Option Costs → List Costs → List Costs
  | _, [] => []
  | prev, c :: l => let r := pathStep p1 p2 c prev; r :: pathAcross p1 p2 (some r) l

/-- Path costs of a line along a path whose previous pixel lies in the line above, at x + dx. -/
def pathDown (p1 p2 : Nat) (dx : Int) (above : List Costs) (line : List Costs) : List Costs :=
  (List.zip (List.range line.length) line).map fun c =>
    let x : Int := (c.1 : Int) + dx
    pathStep p1 p2 c.2 (if x < 0 then none else above[x.toNat]?)

/-- Sum of path costs over the enabled paths (R349). -/
def sumCosts (ls : List (List Costs)) (line : List Costs) : List Costs :=
  (List.zip (List.range line.length) line).map fun c =>
    { c.2 with vals := (List.zip (List.range c.2.vals.length) c.2.vals).map fun v => v.2.map fun _ =>
        ls.foldl (fun a l => a + (((l[c.1]?).bind fun q => (q.vals[v.1]?).join).getD 0)) 0 }

/-- S of every pixel, line by line (R349). -/
def aggregate (paths p1 p2 : Nat) : List (List Costs) → List (List Costs) → List (List Costs)
  | _, [] => []
  | above, line :: rest =>
    let l0 := pathAcross p1 p2 none line
    let l1 := pathDown p1 p2 0 (above.getD 0 []) line
    let l2 := pathDown p1 p2 (-1) (above.getD 1 []) line
    let l3 := pathDown p1 p2 1 (above.getD 2 []) line
    let on := (if bit paths 0 then [l0] else []) ++ (if bit paths 1 then [l1] else []) ++
      (if bit paths 2 then [l2] else []) ++ (if bit paths 3 then [l3] else [])
    sumCosts on line :: aggregate paths p1 p2 [l1, l2, l3] rest

/-! ### Disparity (R350 to R355) -/

/-- Why a pixel is invalid, in the order of R354. -/
inductive Cut where
  | outOfView | consistency | edge | lowConfidence
  deriving DecidableEq, Repr

/-- What is decided for one pixel: its disparity or flow, confidence, validity and edge hits. -/
structure StePixel where
  disp : Nat
  conf : Nat
  cut : Option Cut
  high : Bool
  low : Bool
  deriving DecidableEq, Repr

/-- The disparity of least S, the larger among equals (R350, R353). -/
def bestOf (l : List (Nat × Nat)) : Option (Nat × Nat) :=
  l.foldl (fun m v => match m with
    | none => some v
    | some a => if v.2 < a.2 ∨ (v.2 = a.2 ∧ a.1 < v.1) then some v else some a) none

/-- The confidence of R352. -/
def confidence (s1 : Nat) (s2 : Option Nat) : Nat :=
  match s2 with | some v => if v = 0 then 0 else 255 * (v - s1) / v | none => 0

/-- The subpixel offset δ of R351. -/
def subpixel (a b c : Nat) : Int := clampI (-8) 8 (roundDiv (16 * ((a : Int) - c)) (2 * (a + c - 2 * b)))

/-- The least S2 at a distance of at least 2 (R352). -/
def secondBest (l : List (Nat × Nat)) (d : Nat) : Option Nat :=
  (bestOf (l.filter fun v => decide (v.1 + 2 ≤ d) || decide (d + 2 ≤ v.1))).map (·.2)

/-- One pixel of a line of S (R350 to R355). -/
def stePixel (b : List Byte) (line : List Costs) (x : Nat) : StePixel :=
  let c := line.getD x { lo := 0, vals := [] }
  let n := c.vals.length
  let l := (List.range n).filterMap fun k => ((c.vals[k]?).join).map fun v => (c.lo + k, v)
  let flags := bf b 69 1
  match bestOf l with
  | none => { disp := 0xFFFF, conf := 0, cut := some .outOfView, high := false, low := false }
  | some (d, s1) =>
    let delta := match (if d = 0 then none else c.at_ (d - 1)), c.at_ (d + 1) with
      | some a, some e => if bit flags 1 then subpixel a s1 e else 0
      | _, _ => 0
    let conf := confidence s1 (secondBest l d)
    let high := decide (d + 1 = c.lo + n) && decide (d < 2047)
    let low := decide (d = c.lo) && decide (0 < c.lo)
    let right := (List.range n).filterMap fun k =>
      let e := c.lo + k
      (getElem? line (x - d + e)).bind fun q => (q.at_ e).map fun v => (e, v)
    let pass := !bit flags 0 || (match bestOf right with
      | some (e, _) => decide (((d : Int) - e).natAbs ≤ bf b 68 1)
      | none => false)
    let cut := if !pass then some Cut.consistency
      else if bit flags 2 && (high || low) then some .edge
      else if conf < bf b 70 1 then some .lowConfidence else none
    { disp := if cut.isSome then 0xFFFF else (max 0 (16 * (d : Int) + delta)).toNat,
      conf := if cut.isSome then 0 else conf, cut := cut, high := high, low := low }

/-- First disparity of a block's window (R346). -/
def windowLo (c n : Nat) : Nat := min ((c + 8) / 16 - n / 2) (2048 - n)

/-- The centre of each block: its value, and whether it is FALLBACK (R342, R343). -/
def steCentre (b : List Byte) (p : Pred) (bx by_ : Nat) : Nat × Bool :=
  if bf b 71 1 = 0 then (bf b 72 2, false)
  else if p.status ≠ 1 then (bf b 74 2, true)
  else
    let sh := bf b 77 1
    let e := p.entries.getD (by_ / 2 ^ sh * p.bw + bx / 2 ^ sh) 0xFFFF
    if e = 0xFFFF then (bf b 74 2, true) else (min (e * 2 ^ sh) 0x7FF0, false)

/-- The block of pixels at (bx, by). -/
def blockOf (px : List (List StePixel)) (bx by_ : Nat) : List StePixel :=
  ((px.drop (16 * by_)).take 16).flatMap fun l => (l.drop (16 * bx)).take 16

/-- The output centre of a block (R364). -/
def steOut (b : List Byte) (n lo : Nat) (blk : List StePixel) : Nat × Nat :=
  let high := (blk.filter (·.high)).length
  let low := (blk.filter (·.low)).length
  let ds := (blk.filter fun p => p.cut = none).map (·.disp)
  if bf b 79 1 ≤ high then (16 * min (lo + n) 2047, 1)
  else if bf b 79 1 ≤ low then (16 * lo, 2)
  else if bf b 78 1 ≤ ds.length then ((ds.foldl min 0xFFFF + ds.foldl max 0 + 1) / 2, 0)
  else (0xFFFF, 0)

/-- One pixel of a tile packet: its bytes, its confidence, whether it is valid and whether it is an edge hit. -/
structure TilePixel where
  bytes : List Byte
  conf : Nat
  valid : Bool
  edge : Bool
  deriving DecidableEq, Repr

/-- The packet of tile (tx, ty) of an image: a header of 64 B, the 64 × 32 values in raster order, the confidences; pixels
beyond the image are the given invalid one (R371). -/
def tilePacket (tx ty pair flags : Nat) (tickno : BitVec 32) (px : Nat → Nat → Option TilePixel) (void : TilePixel) :
    List Byte :=
  let cells := (List.range 32).flatMap fun j => (List.range 64).map fun i => (px (64 * tx + i) (32 * ty + j)).getD void
  fit 64 (le 2 tx ++ le 2 ty ++ le 4 tickno.toNat ++ le 1 pair ++ le 1 flags ++ le 2 (cells.filter (·.valid)).length ++
    le 2 (cells.filter (·.edge)).length) ++ cells.flatMap (·.bytes) ++ cells.flatMap fun c => le 1 c.conf

/-- The tile packets of one image in raster order (R371 to R373); the last one carries the flag of its image, and that of
the node if no image follows. -/
def tilePackets (w h pair : Nat) (lastImage : Bool) (tickno : BitVec 32) (px : Nat → Nat → Option TilePixel)
    (void : TilePixel) : List (List Byte) :=
  let nx := ceilDiv w 64
  let ny := ceilDiv h 32
  (List.range (nx * ny)).map fun k =>
    let last := decide (k + 1 = nx * ny)
    tilePacket (k % nx) (k / nx) pair (b2n (last && lastImage) + 2 * b2n last) tickno px void

/-- The summary shared by STE and FLO (Table 9.4). -/
def summaryBytes (l : List (Nat × Nat × Nat)) : List Byte :=
  l.foldl (fun acc p => patch acc p.1 (le p.2.1 p.2.2)) (List.replicate 512 0)

/-- What one image pair or image of an STE or FLO node comes to, in the groups of R366, with its tile packets. -/
structure ImageWork where
  planes : List (Nat × List Byte)
  copy : List (Nat × List Byte)
  entries : List (Nat × List Byte)
  headers : List (Nat × List Byte)
  stamp : List (Nat × List Byte)
  summary : List (Nat × List Byte)
  packets : List (List Byte)
  deriving DecidableEq, Repr

/-- The work of a node over its images, each group of R366 over all of them. -/
def imagesWork (l : List ImageWork) : Work :=
  { groups := [l.flatMap (·.planes), l.flatMap (·.copy), l.flatMap (·.entries), l.flatMap (·.headers),
      l.flatMap (·.stamp), l.flatMap (·.summary)], packets := l.flatMap (·.packets), draws := 0 }

/-- Address of the plane an STE node reads for pair 0 (Table 9.2). -/
def stePlane (b : List Byte) (tickno : BitVec 32) : Nat :=
  if bf b 71 1 = 1 ∨ tickno.getLsbD 0 = true then bf b 136 8 else bf b 144 8

/-- The work of pair i of an STE node (R346 to R371). -/
def stereoPair (heads : List (Nat × List Byte)) (b : List Byte) (i : Nat) (s : State) : ImageWork :=
  let l := imgAt b 80
  let r := imgAt b 96
  let w := l.width
  let h := l.height
  let bw := blocks w
  let bh := blocks h
  let n := if bf b 64 1 = 0 then 64 else 128
  let src := bf b 71 1
  let odd := s.tick.tickno.getLsbD 0
  let po := i * bf b 184 4
  let sh := bf b 77 1
  let pred := if src = 0 then { status := 0, stamp := 0, bw := bw, entries := [] }
    else readPlane s heads (stePlane b s.tick.tickno + po) 1 (shifted bw sh) (shifted bh sh) 2 (bf b 76 1)
  let step := i * bf b 176 4
  let cl := census (readImg s { l with addr := l.addr + step }) w h
  let cr := census (readImg s { r with addr := r.addr + step }) w h
  let lo := fun bx by_ => windowLo (steCentre b pred bx by_).1 n
  let costs := (List.range h).map fun y => (List.range w).map fun x => matchCosts cl cr (lo (x / 16) (y / 16)) n x y
  let px := (aggregate (bf b 65 1) (bf b 66 1) (bf b 67 1) [] costs).map fun line =>
    (List.range line.length).map (stePixel b line)
  let all := px.flatMap id
  let blks := (List.range bh).map fun by_ => (List.range bw).map fun bx =>
    (blockOf px bx by_, lo bx by_, (steCentre b pred bx by_).2)
  let outs := blks.map fun row => row.map fun k => steOut b n k.2.1 k.1
  let flat := outs.flatMap id
  let oo := i * bf b 180 4
  let cnt := fun (f : StePixel → Bool) (k : List StePixel) => (k.filter f).length
  let outAddr := if src = 2 then some (if odd then bf b 144 8 else bf b 136 8)
    else if bf b 152 8 = 0 then none else some (bf b 152 8)
  let body := planeBody bw 2 (outs.map fun row => row.map (·.1))
  let cuts := fun c => cnt (fun p => p.cut = some c) all
  { planes :=
      (if bf b 112 8 = 0 then []
       else [planeWrite (bf b 112 8 + oo) (bf b 128 4) 2 (px.map fun q => q.map fun v => (v.disp : Int))]) ++
      (if bf b 120 8 = 0 then []
       else [planeWrite (bf b 120 8 + oo) (bf b 132 4) 1 (px.map fun q => q.map fun v => (v.conf : Int))]) ++
      (if bf b 160 8 = 0 then []
       else [(bf b 160 8 + i * bf b 188 4, blks.flatMap fun row => fit (64 * ceilDiv (4 * bw) 64)
        (row.flatMap fun k => le 4 (min 255 (cnt (·.high) k.1) + 2 ^ 8 * min 255 (cnt (·.low) k.1) +
          2 ^ 16 * cnt (fun p => p.cut = none) k.1 + 2 ^ 25 * b2n k.2.2)))]),
    copy := [], entries := outAddr.toList.map fun a => (a + po + 512, body),
    headers := outAddr.toList.map fun a => (a + po, planeHeader 1 bw bh 2 s.tick.tickno body), stamp := [],
    packets := tilePackets w h i (decide (i + 1 = bf b 192 1)) s.tick.tickno
      (fun x y => ((px.getD y [])[x]?).map fun p =>
        { bytes := le 2 p.disp, conf := p.conf, valid := decide (p.cut = none), edge := p.high || p.low })
      { bytes := [0xFF, 0xFF], conf := 0, valid := false, edge := false },
    summary := [(bf b 168 8 + 512 * i, summaryBytes
    [(0, 4, ceilDiv w 64 * ceilDiv h 32), (4, 4, cnt (fun p => p.cut = none) all), (8, 4, cuts .consistency),
     (12, 4, cuts .outOfView), (16, 4, cuts .lowConfidence), (20, 4, cuts .edge), (24, 4, cnt (·.high) all),
     (28, 4, cnt (·.low) all), (32, 4, ((blks.flatMap id).filter (·.2.2)).length),
     (36, 4, (flat.filter fun o => o.1 = 0xFFFF).length), (40, 4, (flat.filter fun o => o.2 = 1).length),
     (44, 4, (flat.filter fun o => o.2 = 2).length), (48, 1, pred.status), (52, 4, pred.stamp)])] }

/-- An STE node's work: pair by pair (R368, R372). -/
def stereo (heads : List (Nat × List Byte)) (b : List Byte) (s : State) : Work :=
  imagesWork ((List.range (bf b 192 1)).map fun i => stereoPair heads b i s)

end Sys2Proof.Machine
end

