-- ==== Sys2Proof/Machine/FlowOps.lean ====
section
/-!
DEFINITION. What FLO nodes compute (09).
-/
namespace Sys2Proof.Machine

/-- A displacement with its cost A. -/
structure Hit where
  u : Int
  v : Int
  cost : Nat
  deriving DecidableEq, Repr

/-- The positions within rx and ry of a centre, in raster order of (v, u). -/
def window (cx cy : Int) (rx ry : Nat) : List (Int × Int) :=
  (List.range (2 * ry + 1)).flatMap fun (j : Nat) => (List.range (2 * rx + 1)).map fun (i : Nat) =>
    (cx + (i : Int) - (rx : Int), cy + (j : Int) - (ry : Int))

/-- The best position of a search: the least cost, then the nearest to the centre, then the earlier (R358). -/
def search (cx cy : Int) (hits : List Hit) : Hit :=
  let dist := fun (h : Hit) => (h.u - cx).natAbs + (h.v - cy).natAbs
  (hits.foldl (fun (m : Option Hit) h => match m with
    | none => some h
    | some b => if h.cost < b.cost ∨ (h.cost = b.cost ∧ dist h < dist b) then some h else some b) none).getD
    { u := cx, v := cy, cost := 0 }

/-- The 25 offsets of the 5 × 5 neighbourhood (R357). -/
def five : List (Int × Int) := window 0 0 2 2

/-- The census at a position, reflected into its level (R357). -/
def censusAt (c : Plane) (w h : Nat) (x y : Int) : Nat := (c.get (reflect w x) (reflect h y)).toNat

/-- The cost A of a displacement (R357): the census of `a` around p against that of `b` displaced by −(u, v). -/
def flowCost (a b : Plane) (w h : Nat) (x y u v : Int) : Nat :=
  (five.map fun k => popcount 62 (censusAt a w h (x + k.1) (y + k.2) ^^^ censusAt b w h (x + k.1 - u) (y + k.2 - v))).foldl
    (· + ·) 0

/-- Everything searched for one pixel of a level: the centre of its search and its hits. -/
def searchLevel (a b : Plane) (w h : Nat) (x y : Nat) (cx cy : Int) (rx ry : Nat) : List Hit :=
  (window cx cy rx ry).map fun d => { u := d.1, v := d.2, cost := flowCost a b w h x y d.1 d.2 }

/-- The best displacement of every pixel of a level, with a centre per pixel. -/
def flowLevel (a b : Plane) (w h : Nat) (rx ry : Nat) (centre : Nat → Nat → Int × Int) : List (List Hit) :=
  (List.range h).map fun y => (List.range w).map fun x =>
    let c := centre x y
    search c.1 c.2 (searchLevel a b w h x y c.1 c.2 rx ry)

/-- A hit of a level at (x, y). -/
def hitAt (l : List (List Hit)) (x y : Nat) : Hit := (l.getD y []).getD x { u := 0, v := 0, cost := 0 }

/-- The centre of a block: dx, dy, and whether it is FALLBACK (R342, R343). -/
def floCentre (b : List Byte) (p : Pred) (bx by_ : Nat) : (Int × Int) × Bool :=
  let cl := fun v => clampI (-32767) 32767 v
  let pair := fun o => (cl (sext 16 (bf b o 2)), cl (sext 16 (bf b (o + 2) 2)))
  if bf b 66 1 = 0 then (pair 72, false)
  else if p.status ≠ 1 then (pair 76, true)
  else
    let sh := bf b 68 1
    let e := p.entries.getD (by_ / 2 ^ sh * p.bw + bx / 2 ^ sh) 0x80008000
    if e = 0x80008000 then (pair 76, true)
    else ((cl (sext 16 (e % 65536) * 2 ^ sh), cl (sext 16 (e / 65536) * 2 ^ sh)), false)

/-- What is decided for one pixel of a FLO node. -/
structure FloPixel where
  fx : Int
  fy : Int
  conf : Nat
  cut : Option Cut
  xp : Bool
  xn : Bool
  yp : Bool
  yn : Bool
  deriving DecidableEq, Repr

/-- A pixel that was not searched (R356). -/
def FloPixel.none : FloPixel :=
  { fx := -32768, fy := -32768, conf := 0, cut := some .outOfView, xp := false, xn := false, yp := false, yn := false }

def FloPixel.edge (p : FloPixel) : Bool := p.xp || p.xn || p.yp || p.yn

/-- The forward-backward check of a flow (R361): the cut, if any. -/
def fbCheck (b : List Byte) (cur ref : Plane) (w h : Nat) (x y : Nat) (fx fy : Int) : Option Cut :=
  if !bit (bf b 64 1) 0 then none
  else
    let rx := (fx + 8) / 16
    let ry := (fy + 8) / 16
    let qx := (x : Int) - rx
    let qy := (y : Int) - ry
    if !(within w qx && within h qy) then some .outOfView
    else
      let hits := (window rx ry 2 2).map fun g =>
        { u := g.1, v := g.2,
          cost := (five.map fun k => popcount 62 (censusAt ref w h (qx + k.1) (qy + k.2) ^^^
            censusAt cur w h (qx + k.1 + g.1) (qy + k.2 + g.2))).foldl (· + ·) 0 : Hit }
      let g := search rx ry hits
      if (g.u - rx).natAbs ≤ bf b 65 1 ∧ (g.v - ry).natAbs ≤ bf b 65 1 then none else some .consistency

/-- One full-resolution pixel (R359 to R362). -/
def floPixel (b : List Byte) (cur ref : Plane) (w h : Nat) (l1 l2 : List (List Hit)) (e2 : Nat → Nat → Int × Int)
    (x y : Nat) : FloPixel :=
  let flags := bf b 64 1
  let p1 := hitAt l1 (x / 2) (y / 2)
  let cx := 2 * p1.u
  let cy := 2 * p1.v
  let hits := searchLevel cur ref w h x y cx cy 2 2
  let s := search cx cy hits
  let at_ := fun u v => (hits.find? fun k => decide (k.u = u) && decide (k.v = v)).map (·.cost)
  let sub := fun (lo hi : Option Nat) => match lo, hi with
    | some a, some c => if bit flags 1 then subpixel a s.cost c else 0
    | _, _ => 0
  let fx := clampI (-32767) 32767 (16 * s.u + sub (at_ (s.u - 1) s.v) (at_ (s.u + 1) s.v))
  let fy := clampI (-32767) 32767 (16 * s.v + sub (at_ s.u (s.v - 1)) (at_ s.u (s.v + 1)))
  let far := hits.filter fun k => decide (2 ≤ (k.u - s.u).natAbs) || decide (2 ≤ (k.v - s.v).natAbs)
  let conf := confidence s.cost (far.foldl (fun m k => some (match m with | some a => min a k.cost | none => k.cost)) none)
  let h2 := hitAt l2 (x / 4) (y / 4)
  let e := e2 (x / 4) (y / 4)
  let xp := decide (h2.u - e.1 = 8)
  let xn := decide (h2.u - e.1 = -8)
  let yp := decide (h2.v - e.2 = 4)
  let yn := decide (h2.v - e.2 = -4)
  let cut := match fbCheck b cur ref w h x y fx fy with
    | some c => some c
    | none => if bit flags 2 && (xp || xn || yp || yn) then some Cut.edge
        else if conf < bf b 69 1 then some .lowConfidence else none
  { fx := if cut.isSome then -32768 else fx, fy := if cut.isSome then -32768 else fy,
    conf := if cut.isSome then 0 else conf, cut := cut, xp := xp, xn := xn, yp := yp, yn := yn }

/-- The reference as read (R356): status byte 49, its STAMP, usable or not. -/
def readRef (s : State) (b : List Byte) (base : Nat) : Nat × Nat :=
  let c := imgAt b 80
  let hd := memBytes s base 512
  if !(decide (hd.take 4 = [0x46, 0x52, 0x45, 0x46]) && decide (fld hd 4 2 = c.width) && decide (fld hd 6 2 = c.height))
  then (2, 0)
  else if ageOk s (bf b 67 1) (fld hd 24 4) then (1, fld hd 24 4) else (3, fld hd 24 4)

/-- The output prediction of a block (R365): the entry, and the x and y shift codes of Table 9.3. -/
def floOut (b : List Byte) (centre : Int × Int) (blk : List FloPixel) : Nat × Nat × Nat :=
  let cnt := fun (f : FloPixel → Bool) => (blk.filter f).length
  let m := bf b 71 1
  let entry := fun (x y : Int) => tc 16 x + 65536 * tc 16 y
  let ok := blk.filter fun p => p.cut = none
  let shift := fun (p n : Nat) => if m ≤ p ∧ n < p then 1 else if m ≤ n ∧ p < n then 2 else 0
  if m ≤ cnt (·.edge) then
    let sx := shift (cnt (·.xp)) (cnt (·.xn))
    let sy := shift (cnt (·.yp)) (cnt (·.yn))
    let by_ := fun (k : Nat) (d : Int) => if k = 1 then d else if k = 2 then -d else 0
    (entry (clampI (-32767) 32767 (centre.1 + by_ sx 256)) (clampI (-32767) 32767 (centre.2 + by_ sy 128)), sx, sy)
  else if bf b 70 1 ≤ ok.length then
    let mid := fun (f : FloPixel → Int) =>
      ((ok.map f).foldl min 32767 + (ok.map f).foldl max (-32768) + 1) / 2
    (entry (mid (·.fx)) (mid (·.fy)), 0, 0)
  else (0x80008000, 0, 0)

/-- The copy of the current pyramid (R356). -/
def refCopy (b : List Byte) (base : Nat) (s : State) : List (Nat × List Byte) :=
  (List.range 3).map fun k =>
    let l := floLevel b k
    planeWrite (base + 512 + refOffset b k) l.stride 1 (readImg s l)

/-- The stamp row of a reference copy (R356). -/
def refStamp (b : List Byte) (tickno : BitVec 32) : List Byte :=
  let c := imgAt b 80
  fit 512 ([0x46, 0x52, 0x45, 0x46] ++ le 2 c.width ++ le 2 c.height ++ List.replicate 16 0 ++ le 4 tickno.toNat)

/-- Address of the plane a FLO node reads (Table 9.2). -/
def floPlane (b : List Byte) (tickno : BitVec 32) : Nat :=
  if bf b 66 1 = 1 ∨ tickno.getLsbD 0 = true then bf b 152 8 else bf b 160 8

/-- A FLO node's work (R356 to R371). -/
def flow (heads : List (Nat × List Byte)) (b : List Byte) (s0 : State) : Work :=
  let c := imgAt b 80
  let w := c.width
  let h := c.height
  let bw := blocks w
  let bh := blocks h
  let odd := s0.tick.tickno.getLsbD 0
  let carry := decide (bf b 192 1 = 0)
  let refBase := if carry then (if odd then bf b 112 8 else bf b 120 8) else bf b 112 8
  let rs := readRef s0 b refBase
  let src := bf b 66 1
  let sh := bf b 68 1
  let pred := if src = 0 then { status := 0, stamp := 0, bw := bw, entries := [] }
    else readPlane s0 heads (floPlane b s0.tick.tickno) 2 (shifted bw sh) (shifted bh sh) 4 (bf b 67 1)
  let size := fun k => levelSize w h k
  let cur := fun k => census (readImg s0 (floLevel b k)) (size k).1 (size k).2
  let ref := fun k => census (readImg s0 { floLevel b k with addr := refBase + 512 + refOffset b k }) (size k).1 (size k).2
  let e2 := fun x y =>
    let f := (floCentre b pred (4 * x / 16) (4 * y / 16)).1
    ((f.1 + 32) / 64, (f.2 + 32) / 64)
  let px := if rs.1 = 1 then
      let l2 := flowLevel (cur 2) (ref 2) (size 2).1 (size 2).2 8 4 e2
      let l1 := flowLevel (cur 1) (ref 1) (size 1).1 (size 1).2 2 2 fun x y =>
        let q := hitAt l2 (x / 2) (y / 2)
        (2 * q.u, 2 * q.v)
      let c0 := cur 0
      let r0 := ref 0
      (List.range h).map fun y => (List.range w).map fun x => floPixel b c0 r0 w h l1 l2 e2 x y
    else (List.range h).map fun _ => List.replicate w FloPixel.none
  let all := px.flatMap id
  let blks := (List.range bh).map fun by_ => (List.range bw).map fun bx =>
    let blk := ((px.drop (16 * by_)).take 16).flatMap fun l => (l.drop (16 * bx)).take 16
    let ce := floCentre b pred bx by_
    (blk, ce.2, floOut b ce.1 blk)
  let flat := blks.flatMap id
  let cnt := fun (f : FloPixel → Bool) (k : List FloPixel) => (k.filter f).length
  let outAddr := if src = 2 then some (if odd then bf b 160 8 else bf b 152 8)
    else if bf b 168 8 = 0 then none else some (bf b 168 8)
  let body := planeBody bw 4 (blks.map fun row => row.map fun k => k.2.2.1)
  let refOut := if odd then bf b 120 8 else bf b 112 8
  let used := decide (rs.1 = 1)
  let n := fun (v : Nat) => if used then v else 0
  let cuts := fun k => n (cnt (fun p => p.cut = some k) all)
  imagesWork [{
    planes :=
      (if bf b 128 8 = 0 then []
       else [(bf b 128 8, ((px.flatMap fun q => fit (bf b 144 4) (q.flatMap fun v => leI 2 v.fx ++ leI 2 v.fy))).take
         ((h - 1) * bf b 144 4 + 4 * w))]) ++
      (if bf b 136 8 = 0 then []
       else [planeWrite (bf b 136 8) (bf b 148 4) 1 (px.map fun q => q.map fun v => (v.conf : Int))]) ++
      (if bf b 176 8 = 0 then []
       else [(bf b 176 8, blks.flatMap fun row => fit (64 * ceilDiv (4 * bw) 64)
        (row.flatMap fun k => le 4 (min 255 (cnt (·.edge) k.1) + 2 ^ 8 * k.2.2.2.1 + 2 ^ 10 * k.2.2.2.2 +
          2 ^ 16 * cnt (fun p => p.cut = none) k.1 + 2 ^ 25 * b2n k.2.1)))]),
    copy := if carry then refCopy b refOut s0 else [],
    entries := outAddr.toList.map fun a => (a + 512, body),
    headers := outAddr.toList.map fun a => (a, planeHeader 2 bw bh 4 s0.tick.tickno body),
    stamp := if carry then [(refOut, refStamp b s0.tick.tickno)] else [],
    packets := tilePackets w h 0 true s0.tick.tickno
      (fun x y => ((px.getD y [])[x]?).map fun p =>
        { bytes := leI 2 p.fx ++ leI 2 p.fy, conf := p.conf, valid := decide (p.cut = none), edge := p.edge })
      { bytes := [0x00, 0x80, 0x00, 0x80], conf := 0, valid := false, edge := false },
    summary := [(bf b 184 8, summaryBytes
    [(0, 4, ceilDiv w 64 * ceilDiv h 32), (4, 4, n (cnt (fun p => p.cut = none) all)), (8, 4, cuts .consistency),
     (12, 4, cuts .outOfView), (16, 4, cuts .lowConfidence), (20, 4, cuts .edge),
     (24, 4, cnt (fun p => p.xp || p.xn) all), (28, 4, cnt (fun p => p.yp || p.yn) all),
     (32, 4, (flat.filter fun k => k.2.1).length), (36, 4, (flat.filter fun k => k.2.2.1 = 0x80008000).length),
     (40, 4, (flat.filter fun k => k.2.2.2.1 ≠ 0).length), (44, 4, (flat.filter fun k => k.2.2.2.2 ≠ 0).length),
     (48, 1, pred.status), (49, 1, rs.1), (52, 4, pred.stamp), (56, 4, rs.2)])] }]

end Sys2Proof.Machine
end

