-- ==== Sys2Proof/Machine/Float.lean ====
section
/-!
DEFINITION. IEEE 754 binary32 as the homography of WRP uses it (R318).
-/
namespace Sys2Proof.Machine

/-- A binary32 value: a finite value is its sign and m × 2^e. -/
inductive F32 where
  | nan
  | inf (neg : Bool)
  | fin (neg : Bool) (m : Nat) (e : Int)
  deriving DecidableEq, Repr

/-- The value of 32 bits. -/
def F32.ofBits (v : Nat) : F32 :=
  let neg := bit v 31
  let ex := bits v 30 23
  let fr := bits v 22 0
  if ex = 255 then (if fr = 0 then .inf neg else .nan)
  else if ex = 0 then .fin neg fr (-149)
  else .fin neg (fr + 2 ^ 23) (ex - 150)

/-- a ÷ b compared with 2^x: whether it is at least that. -/
def geTwoPow (a b : Nat) (x : Int) : Bool :=
  if 0 ≤ x then decide (b * 2 ^ x.toNat ≤ a) else decide (b ≤ a * 2 ^ (-x).toNat)

/-- The floor of log2 (a ÷ b), for positive a and b. -/
def floorLog (a b : Nat) : Int :=
  let x : Int := (Nat.log2 a : Int) - (Nat.log2 b : Int)
  if geTwoPow a b x then x else x - 1

/-- A quotient of naturals rounded to nearest, ties to even. -/
def roundEven (a b : Nat) : Nat :=
  let q := a / b
  let r := a % b
  if 2 * r < b then q else if b < 2 * r then q + 1 else if q % 2 = 0 then q else q + 1

/-- (a ÷ b) × 2^e rounded to binary32, ties to even (R318). -/
def F32.round (neg : Bool) (a b : Nat) (e : Int) : F32 :=
  if a = 0 ∨ b = 0 then .fin neg 0 0
  else
    let u := max (floorLog a b + e - 23) (-149)
    let sh := e - u
    let m := if 0 ≤ sh then roundEven (a * 2 ^ sh.toNat) b else roundEven a (b * 2 ^ (-sh).toNat)
    if decide (2 ^ 24 ≤ m * 1 ∧ 104 ≤ u) || decide (105 ≤ u) then .inf neg else .fin neg m u

/-- Product, rounded. -/
def F32.mul : F32 → F32 → F32
  | .nan, _ | _, .nan => .nan
  | .inf s, .inf t => .inf (s != t)
  | .inf s, .fin t m _ | .fin s m _, .inf t => if m = 0 then .nan else .inf (s != t)
  | .fin s m e, .fin t n f => .round (s != t) (m * n) 1 (e + f)

/-- Sum, rounded. -/
def F32.add : F32 → F32 → F32
  | .nan, _ | _, .nan => .nan
  | .inf s, .inf t => if s = t then .inf s else .nan
  | .inf s, .fin _ _ _ | .fin _ _ _, .inf s => .inf s
  | .fin s m e, .fin t n f =>
    let g := min e f
    let a : Int := (if s then -1 else 1) * (m * 2 ^ (e - g).toNat : Nat)
    let b : Int := (if t then -1 else 1) * (n * 2 ^ (f - g).toNat : Nat)
    if a + b = 0 then .fin (s && t) 0 0 else .round (decide (a + b < 0)) (a + b).natAbs 1 g

/-- Quotient, rounded; the divisor is positive where R318 divides. -/
def F32.div : F32 → F32 → F32
  | .nan, _ | _, .nan => .nan
  | .inf _, .inf _ => .nan
  | .inf s, .fin t _ _ => .inf (s != t)
  | .fin s _ _, .inf t => .fin (s != t) 0 0
  | .fin s m e, .fin t n f =>
    if n = 0 then (if m = 0 then .nan else .inf (s != t)) else .round (s != t) m n (e - f)

/-- A natural number as binary32. -/
def F32.ofNat (n : Nat) : F32 := .round false n 1 0

/-- Zero, negative or not a number (R318). -/
def F32.degenerate : F32 → Bool
  | .nan => true
  | .inf s => s
  | .fin s m _ => s || decide (m = 0)

/-- The value × 256 rounded to an integer, ties away from zero, clamped to the range of R317; none for NaN, for which
the manual states no coordinate. -/
def F32.coord : F32 → Option Int
  | .nan => none
  | .inf s => some (if s then -8388608 else 8388607)
  | .fin s m e =>
    let v : Int := if 0 ≤ e + 8 then (m * 2 ^ (min (e + 8).toNat 64) : Nat) else roundDiv m (2 ^ (-(e + 8)).toNat)
    some (clampI (-8388608) 8388607 (if s then -v else v))

end Sys2Proof.Machine
end

