-- ==== Sys2Proof/Machine/NeOps.lean ====
section
/-!
DEFINITION. NE programs (10): element types, tensor layout, and the numeric rules of Table 10.6.
-/
namespace Sys2Proof.Machine

/-! ### Values -/

/-- A value inside the NE: an INT32 or an FP32. -/
inductive NeVal where
  | int (v : Int)
  | float (v : F32)
  deriving DecidableEq, Repr

/-- A floating-point format of Table 10.2: widths of the exponent and the fraction, the bias, the largest finite value as
significand and exponent of two, and whether it keeps the topmost exponent for infinities and NaNs. -/
structure Format where
  exp : Nat
  frac : Nat
  bias : Nat
  maxM : Nat
  maxE : Int
  ieee : Bool
  deriving DecidableEq, Repr

/-- The format of a type code (Table 10.2). -/
def formatOf (type : Nat) : Option Format :=
  match type with
  | 3 => some { exp := 4, frac := 3, bias := 7, maxM := 14, maxE := 5, ieee := false }
  | 4 => some { exp := 5, frac := 2, bias := 15, maxM := 7, maxE := 13, ieee := true }
  | 5 => some { exp := 5, frac := 10, bias := 15, maxM := 2047, maxE := 5, ieee := true }
  | 6 => some { exp := 8, frac := 7, bias := 127, maxM := 255, maxE := 120, ieee := true }
  | 10 => some { exp := 8, frac := 23, bias := 127, maxM := 2 ^ 24 - 1, maxE := 104, ieee := true }
  | _ => none

/-- The value of a bit pattern in a format; subnormals are kept (Tables 10.2, 10.6). -/
def Format.decode (f : Format) (v : Nat) : F32 :=
  let neg := bit v (f.exp + f.frac)
  let ex := bits v (f.exp + f.frac - 1) f.frac
  let fr := v % 2 ^ f.frac
  let top := 2 ^ f.exp - 1
  if f.ieee && decide (ex = top) then (if fr = 0 then .inf neg else .nan)
  else if !f.ieee && decide (ex = top) && decide (fr = 2 ^ f.frac - 1) then .nan
  else if ex = 0 then .fin neg fr (1 - (f.bias : Int) - f.frac)
  else .fin neg (fr + 2 ^ f.frac) ((ex : Int) - f.bias - f.frac)

/-- A finite value rounded to nearest even in a format: its significand and exponent (Table 10.6). -/
def Format.roundFin (f : Format) (m : Nat) (e : Int) : Nat × Int :=
  if m = 0 then (0, 1 - (f.bias : Int) - f.frac)
  else
    let u := max (floorLog m 1 + e - f.frac) (1 - (f.bias : Int) - f.frac)
    let sh := e - u
    let r := if 0 ≤ sh then m * 2 ^ sh.toNat else roundEven m (2 ^ (-sh).toNat)
    if r = 2 ^ (f.frac + 1) then (2 ^ f.frac, u + 1) else (r, u)

/-- A finite value lies above the largest one of a format. -/
def Format.above (f : Format) (m : Nat) (e : Int) : Bool :=
  let g := min e f.maxE
  decide (f.maxM * 2 ^ (f.maxE - g).toNat < m * 2 ^ (e - g).toNat)

/-- A value converted to a format, and whether the conversion overflowed: overflow gives the largest finite value of the
sign, NaN stays NaN (Table 10.6). -/
def Format.convert (f : Format) : F32 → F32 × Bool
  | .nan => (.nan, false)
  | .inf neg => (.fin neg f.maxM f.maxE, true)
  | .fin neg m e =>
    let r := f.roundFin m e
    if f.above r.1 r.2 then (.fin neg f.maxM f.maxE, true) else (.fin neg r.1 r.2, false)

/-- The bit pattern of a value that a format holds. A NaN has a free sign and payload. -/
def Format.encode (f : Format) (v : F32) : Nat :=
  let top := 2 ^ f.exp - 1
  match v with
  | .nan =>
    let free := (Config.neFree 5 []).toNat
    let sign := b2n (bit free 31) * 2 ^ (f.exp + f.frac)
    if f.ieee then sign + top * 2 ^ f.frac + 2 ^ (f.frac - 1) + free % 2 ^ (f.frac - 1)
    else sign + top * 2 ^ f.frac + (2 ^ f.frac - 1)
  | .inf neg => b2n neg * 2 ^ (f.exp + f.frac) + top * 2 ^ f.frac
  | .fin neg m e =>
    let r := f.roundFin m e
    let body := if r.1 < 2 ^ f.frac then r.1
      else (r.2 + f.bias + f.frac).toNat * 2 ^ f.frac + (r.1 - 2 ^ f.frac)
    b2n neg * 2 ^ (f.exp + f.frac) + body

/-- The 32 bits of a value. -/
def F32.bits (v : F32) : BitVec 32 :=
  BitVec.ofNat 32 ((({ exp := 8, frac := 23, bias := 127, maxM := 2 ^ 24 - 1, maxE := 104, ieee := true } : Format)).encode v)

/-- An element of a type as a value (R377, Table 10.2). -/
def elementVal (type v : Nat) : NeVal :=
  match formatOf type with
  | some f => .float (f.decode v)
  | none =>
    match type with
    | 0 => .int (sext 4 v)
    | 1 => .int (sext 8 v)
    | 7 => .int (sext 16 v)
    | 9 => .int (sext 32 v)
    | _ => .int (v : Nat)

/-- The least and the largest value of an integer type (Table 10.2). -/
def intRange (type : Nat) : Int × Int :=
  match type with
  | 0 => (-8, 7)
  | 1 => (-128, 127)
  | 2 => (0, 255)
  | 7 => (-32768, 32767)
  | 8 => (0, 65535)
  | _ => (-2147483648, 2147483647)

/-- A value as the bits of an element of a type. -/
def elementBits (type : Nat) (v : NeVal) : Nat :=
  match formatOf type, v with
  | some f, .float x => f.encode x
  | some f, .int i => f.encode (.round (decide (i < 0)) i.natAbs 1 0)
  | none, .int i => tc (4 * elemHalf type) i
  | none, .float x => x.bits.toNat % 2 ^ (4 * elemHalf type)

/-! ### Layout (R378 to R380) -/

/-- Row and half byte of element (y, x, c) of a ROWS tensor (R378). -/
def rowsPlace (t : Tensor) (y x c : Nat) : Nat × Nat :=
  ((c / t.cg * t.h + y) * ceilDiv t.w t.q + x / t.q, ((x % t.q) * t.cg + c % t.cg) * elemHalf t.type)

/-- Half byte of element k of a tensor from its start: elements are numbered (y, x, c) with c fastest. -/
def elementAt (t : Tensor) (k : Nat) : Nat :=
  match t.layout with
  | 0 =>
    let p := rowsPlace t (k / t.c / t.w) (k / t.c % t.w) (k % t.c)
    1024 * p.1 + p.2
  | 1 => 2 * (k / t.w * t.stride) + k % t.w * elemHalf t.type
  | _ => 2 * k

/-- Elements of a tensor. -/
def Tensor.size (t : Tensor) : Nat :=
  match t.layout with
  | 0 => t.h * t.w * t.c
  | 1 => t.h * t.w
  | _ => 512 * t.stride

/-- The bits of the element at a half byte of a list of bytes read through a function. -/
def halfBits (get : Nat → Byte) (half n : Nat) : Nat :=
  if n = 1 then (get (half / 2)).toNat / 16 ^ (half % 2) % 16
  else leNat ((List.range (n / 2)).map fun j => get (half / 2 + j))

/-! ### Operations (R393, R395) -/

/-- An NE program at work: results so far, the packets still to be read and the latest one read, elements written, and the
counts of R395. -/
structure NeRun where
  vals : List NeVal
  packets : List (List Byte)
  packet : List Byte
  outs : List (Nat × Nat × NeVal)
  saturated : Nat
  overflowed : Nat
  nans : Nat
  deriving DecidableEq, Repr

/-- A result of an earlier operation. -/
def NeRun.val (r : NeRun) (k : Nat) : NeVal := r.vals.getD k (.int 0)

/-- A value clamped to the range of an integer type, and whether it lay outside (R395). -/
def saturate (type : Nat) (v : Int) : Int × Bool :=
  let r := intRange type
  (clampI r.1 r.2 v, decide (v < r.1) || decide (r.2 < v))

/-- The exact product of two floats, for a sum that rounds (Table 10.6). -/
def F32.mulExact : F32 → F32 → F32
  | .fin s m e, .fin t n f => .fin (s != t) (m * n) (e + f)
  | a, b => .mul a b

/-- a is at most b, for values that are not NaN. -/
def F32.atMost (a b : F32) : Bool :=
  match a, b with
  | .inf s, .inf t => s || !t
  | .inf s, _ => s
  | _, .inf t => !t
  | .fin s m e, .fin t n f =>
    let g := min e f
    let x : Int := (if s then -1 else 1) * (m * 2 ^ (e - g).toNat : Nat)
    let y : Int := (if t then -1 else 1) * (n * 2 ^ (f - g).toNat : Nat)
    decide (x ≤ y)
  | _, _ => false

/-- The value as a float: integers are not mixed with floats by Table 10.6. -/
def NeVal.asFloat : NeVal → F32
  | .float x => x
  | .int i => .round (decide (i < 0)) i.natAbs 1 0

/-- The value as an integer. -/
def NeVal.asInt : NeVal → Int
  | .int i => i
  | .float x => x.bits.toNat

/-- A float with its sign changed. -/
def F32.neg : F32 → F32
  | .nan => .nan
  | .inf s => .inf (!s)
  | .fin s m e => .fin (!s) m e

/-- The larger of two floats, the smaller where `low`; a NaN operand leaves the result open (R393). -/
def F32.extreme (low : Bool) (a b : F32) : F32 :=
  if a = .nan ∨ b = .nan then .ofBits (Config.neFree (if low then 7 else 6) [a.bits, b.bits]).toNat
  else if F32.atMost a b = low then a else b

/-- Two values joined by an integer and a float operation of the same name; an integer result saturates to INT32. -/
def join2 (fi : Int → Int → Int) (ff : F32 → F32 → F32) (a b : NeVal) : NeVal × Bool :=
  match a, b with
  | .int x, .int y => let q := saturate 9 (fi x y); (.int q.1, q.2)
  | _, _ => (.float (ff a.asFloat b.asFloat), false)

/-- Requantise (Table 10.6): clamp(((a × M + 2^(S−1)) >> S) + Z, LO, HI); it saturated if the value lay outside the output
type. -/
def requantised (type : Nat) (a : Int) (m : BitVec 32) (sh : Nat) (z lo hi : Int) : Int × Bool :=
  let v := (a * m.toInt + 2 ^ (sh - 1)) / 2 ^ sh + z
  (clampI lo hi v, (saturate type v).2)

/-- A smooth activation of a float: a table value within its bound (Table 10.6). -/
def smoothOf (f : Nat) (x : F32) : F32 := .ofBits (Config.neFree f [x.bits]).toNat

/-- Element k of the softmax of a list, in FP32 with the maximum subtracted (Table 10.6). -/
def softmaxOf (l : List F32) (k : Nat) : F32 :=
  let top := l.foldl (F32.extreme false) (l.headD .nan)
  let es := l.map fun x => smoothOf 2 (F32.add x top.neg)
  F32.div (es.getD k .nan) (es.foldl F32.add (.fin false 0 0))

/-- The lowest index of the largest value of a list (Table 10.6). -/
def argmaxOf (l : List NeVal) : Nat :=
  let le_ := fun (a b : NeVal) => match a, b with
    | .int x, .int y => decide (x ≤ y)
    | _, _ => F32.atMost a.asFloat b.asFloat
  ((List.range l.length).find? fun k => l.all fun v => le_ v (l.getD k (.int 0))).getD 0

/-- A result joins the results so far. -/
def NeRun.push (r : NeRun) (v : NeVal) : NeRun := { r with vals := r.vals ++ [v] }

/-- A result that may have saturated. -/
def NeRun.pushSat (r : NeRun) (v : NeVal × Bool) : NeRun := { r.push v.1 with saturated := r.saturated + b2n v.2 }

/-- One operation (Table 10.6). `types` gives the types of the tensors, `read` their elements, `weight` those of the weight
rows. -/
def neStep (types : Nat → Nat) (read : Nat → Nat → NeVal) (weight : Nat → Nat → NeVal) (r : NeRun) (op : NeOp) : NeRun :=
  match op with
  | .input slot k => r.push (match r.outs.find? fun o => decide (o.1 = slot) && decide (o.2.1 = k) with
      | some o => elementVal (types slot) (elementBits (types slot) o.2.2)
      | none => read slot k)
  | .weight ty k => r.push (weight ty k)
  | .packet => { r.push (.int 0) with packets := r.packets.drop 1, packet := r.packets.headD [] }
  | .stream off ty => r.push (elementVal ty (halfBits (fun j => r.packet.getD j 0) (2 * off) (elemHalf ty)))
  | .constInt v => r.push (.int v)
  | .constFloat v => r.push (.float (.ofBits v.toNat))
  | .macInt acc a w =>
    let q := saturate 9 ((r.val acc).asInt + (r.val a).asInt * (r.val w).asInt)
    r.pushSat (.int q.1, q.2)
  | .macFloat acc a w =>
    r.push (.float (F32.add (r.val acc).asFloat (F32.mulExact (r.val a).asFloat (r.val w).asFloat)))
  | .requantise ty a m sh z lo hi =>
    let q := requantised ty (r.val a).asInt m sh z lo hi
    r.pushSat (.int q.1, q.2)
  | .convert ty a =>
    (match formatOf ty with
     | some f =>
       let q := f.convert (r.val a).asFloat
       { r.push (.float q.1) with overflowed := r.overflowed + b2n q.2 }
     | none => r.push (r.val a))
  | .add a b => r.pushSat (join2 (· + ·) F32.add (r.val a) (r.val b))
  | .sub a b => r.pushSat (join2 (· - ·) (fun x y => F32.add x y.neg) (r.val a) (r.val b))
  | .mul a b => r.pushSat (join2 (· * ·) F32.mul (r.val a) (r.val b))
  | .minimum a b => r.push (join2 min (F32.extreme true) (r.val a) (r.val b)).1
  | .maximum a b => r.push (join2 max (F32.extreme false) (r.val a) (r.val b)).1
  | .relu a => r.push (match r.val a with
      | .int x => .int (max 0 x)
      | .float x => .float (F32.extreme false x (.fin false 0 0)))
  | .clamp a lo hi =>
    r.push (match r.val a, r.val lo, r.val hi with
      | .int x, .int l, .int h => .int (clampI l h x)
      | x, l, h => .float (F32.extreme false l.asFloat (F32.extreme true h.asFloat x.asFloat)))
  | .leakyRelu a sl =>
    (match r.val a with
     | .int x => if x < 0 then r.pushSat (join2 (· * ·) F32.mul (.int x) (r.val sl)) else r.push (.int x)
     | .float x => r.push (.float (if F32.atMost x (.fin false 0 0) then F32.mul x (r.val sl).asFloat else x)))
  | .smooth f a => r.push (.float (smoothOf f (r.val a).asFloat))
  | .bilinear a b c d fx fy =>
    let v := fun k => (r.val k).asInt
    r.push (.int (((v a * (256 - fx.val) + v b * fx.val) * (256 - fy.val) +
      (v c * (256 - fx.val) + v d * fx.val) * fy.val + 32768) / 65536))
  | .softmax l k => r.push (.float (softmaxOf (l.map fun j => (r.val j).asFloat) k))
  | .argmax l => r.push (.int (argmaxOf (l.map r.val)))
  | .move a => r.push (r.val a)
  | .output slot k a =>
    { r.push (r.val a) with
      outs := (slot, k, r.val a) :: r.outs, nans := r.nans + b2n (decide (r.val a = .float .nan)) }

/-- A program before its first operation, with the packets it will read. -/
def NeRun.start (packets : List (List Byte)) : NeRun :=
  { vals := [], packets := packets, packet := [], outs := [], saturated := 0, overflowed := 0, nans := 0 }

/-- Packets a program reads before it ends: its operations do not depend on what it reads (R382). -/
def packetReads (prog b : List Byte) : Nat :=
  ((Config.neOps prog b).filter fun o => match o with | .packet => true | _ => false).length

end Sys2Proof.Machine
end

