-- ==== Sys2Proof/Machine/WarpOps.lean ====
section
/-!
DEFINITION. What WRP, PYR and FEA nodes compute (08).
-/
namespace Sys2Proof.Machine

/-! ### WRP -/

/-- The coordinate of R318 for one output pixel: none where the pixel is FILL; each component none where no rule gives
it a value. -/
def homography (h : List F32) (u v : Nat) : Option (Option Int × Option Int) :=
  let a := F32.ofNat u
  let b := F32.ofNat v
  let row := fun k => F32.add (F32.add (F32.mul (h.getD (3 * k) .nan) a) (F32.mul (h.getD (3 * k + 1) .nan) b))
    (h.getD (3 * k + 2) .nan)
  let w := row 2
  if w.degenerate then none else some ((F32.div (row 0) w).coord, (F32.div (row 1) w).coord)

/-- One component of the mesh coordinate (R319). -/
def meshAt (m : Nat → Nat → Int) (ls mx my u v : Nat) : Int :=
  let s := 2 ^ ls
  let i := u / s
  let fu : Int := (u % s : Nat)
  let j := v / s
  let fv : Int := (v % s : Nat)
  let at_ := fun x y => m (min x (mx - 1)) (min y (my - 1))
  let top := at_ i j * (s - fu) + at_ (i + 1) j * fu
  let bot := at_ i (j + 1) * (s - fu) + at_ (i + 1) (j + 1) * fu
  clampI (-8388608) 8388607 ((top * (s - fv) + bot * fv + 2 ^ (2 * ls - 1)) / 2 ^ (2 * ls))

/-- One tap of the source (R321). -/
def tap (p : Plane) (w h : Nat) (clamp : Bool) (fill x y : Int) : Int :=
  if clamp then p.get (clampTo w x) (clampTo h y)
  else if within w x && within h y then p.get x.toNat y.toNat else fill

/-- A sample at a coordinate with 8 fraction bits (R320). -/
def sample (p : Plane) (w h : Nat) (bilinear clamp : Bool) (fill x y : Int) : Int :=
  if bilinear then
    let x0 := x / 256
    let fx := x % 256
    let y0 := y / 256
    let fy := y % 256
    let t := tap p w h clamp fill
    ((t x0 y0 * (256 - fx) + t (x0 + 1) y0 * fx) * (256 - fy) +
      (t x0 (y0 + 1) * (256 - fx) + t (x0 + 1) (y0 + 1) * fx) * fy + 32768) / 65536
  else tap p w h clamp fill ((x + 128) / 256) ((y + 128) / 256)

/-- The output plane of image i of a WRP node. A coordinate that is not a number is a free value (assumption log 7). -/
def warpOne (s : State) (b : List Byte) (i : Nat) : Plane :=
  let src := imgAt b 80
  let dst := imgAt b 96
  let p := readImg s { src with addr := src.addr + i * bf b 120 4 }
  let fill : Int := (bf b 68 2 : Nat)
  let smp := sample p src.width src.height (decide (bf b 65 1 = 1)) (decide (bf b 66 1 = 1)) fill
  let free := fun (c : Option Int) (k : Nat) => c.getD ((Config.draw (s.draws + k) % 2 ^ 24 : Nat) - 2 ^ 23)
  let mesh := bf b 112 5 + i * bf b 128 4
  let ms := bf b 76 4
  let entry := fun (o x y : Nat) => sext 32 (memNat s (mesh + y * ms + 8 * x + o) 4)
  let hs := (List.range 9).map fun k => F32.ofBits (bf b (132 + 4 * k) 4)
  mkPlane dst.width dst.height fun u v =>
    if bf b 64 1 = 0 then
      match homography hs u v with
      | none => fill
      | some (x, y) => smp (free x (2 * (v * dst.width + u))) (free y (2 * (v * dst.width + u) + 1))
    else smp (meshAt (entry 0) (bf b 70 1) (bf b 72 2) (bf b 74 2) u v)
      (meshAt (entry 4) (bf b 70 1) (bf b 72 2) (bf b 74 2) u v)

/-- A WRP node's work (R316 to R322). -/
def warp (b : List Byte) (s : State) : Work :=
  let dst := imgAt b 96
  { groups := [(List.range (bf b 67 1)).map fun i =>
      planeWrite (dst.addr + i * bf b 124 4) dst.stride (bpp dst.fmt) (warpOne s b i)],
    packets := [], draws := 2 * dst.width * dst.height }

/-! ### PYR -/

/-- A read of a level under an EDGE rule (R324). -/
def edgeRead (p : Plane) (w h edge : Nat) (fill x y : Int) : Int :=
  if within w x && within h y then p.get x.toNat y.toNat
  else match edge with
    | 0 => p.get (reflect w x) (reflect h y)
    | 1 => p.get (clampTo w x) (clampTo h y)
    | _ => fill

/-- The kernel (1, 4, 6, 4, 1) at offsets −2 to 2 (R325). -/
def kernel : List (Int × Int) := [(-2, 1), (-1, 4), (0, 6), (1, 4), (2, 1)]

/-- The next Gaussian level (R325). -/
def gaussNext (p : Plane) (w h edge : Nat) (fill : Int) : Plane :=
  mkPlane (ceilDiv w 2) (ceilDiv h 2) fun x y =>
    (sumI (kernel.flatMap fun m => kernel.map fun n =>
      m.2 * n.2 * edgeRead p w h edge fill (2 * x + m.1) (2 * y + n.1)) + 128) / 256

/-- The first `n` Gaussian levels, the first given (R325). -/
def gaussLevels (edge : Nat) (fill : Int) : Nat → Nat → Nat → Plane → List Plane
  | 0, _, _, _ => []
  | n + 1, w, h, p => p :: gaussLevels edge fill n (ceilDiv w 2) (ceilDiv h 2) (gaussNext p w h edge fill)

/-- The expansion of a level to the size of the level below (R326). -/
def expandAt (p : Plane) (w h edge : Nat) (fill : Int) (x y : Nat) : Int :=
  (sumI (kernel.flatMap fun m => kernel.map fun n =>
    let dx : Int := x - m.1
    let dy : Int := y - n.1
    if dx % 2 = 0 ∧ dy % 2 = 0 then m.2 * n.2 * edgeRead p w h edge fill (dx / 2) (dy / 2) else 0) + 32) / 64

/-- A PYR node's work (R323 to R326). -/
def pyramid (b : List Byte) (s : State) : Work :=
  let src := imgAt b 80
  let levels := bf b 65 1
  let edge := bf b 66 1
  let fill : Int := (bf b 68 2 : Nat)
  let g := gaussLevels edge fill levels src.width src.height (readImg s src)
  let out := (pyrOut b).map fun k =>
    let l := pyrLevel b k
    let p := g.getD k []
    (l, if bf b 64 1 = 1 ∧ k + 1 < levels then
        let q := g.getD (k + 1) []
        let sz := levelSize src.width src.height (k + 1)
        mkPlane l.width l.height fun x y => clampI (-32768) 32767 (p.get x y - expandAt q sz.1 sz.2 edge fill x y)
      else p)
  { groups := [out.map fun o => planeWrite o.1.addr o.1.stride (bpp o.1.fmt) o.2], packets := [], draws := 0 }

/-! ### FEA, detection (R327 to R333) -/

/-- The 16 offsets of the circle (R328). -/
def circle : List (Int × Int) :=
  [(0, -3), (1, -3), (2, -2), (3, -1), (3, 0), (3, 1), (2, 2), (1, 3), (0, 3), (-1, 3), (-2, 2), (-3, 1), (-3, 0),
   (-3, -1), (-2, -2), (-1, -3)]

/-- The largest, over the 16 arcs, of the least of `arc` consecutive differences (R328). -/
def arcScore (arc : Nat) (ds : List Int) : Int :=
  ((List.range 16).map fun a => ((List.range arc).map fun k => ds.getD ((a + k) % 16) 0).foldl min 255).foldl max (-255)

/-- The score of a level pixel (R328). -/
def cornerScore (p : Plane) (w h arc thresh x y : Nat) : Int :=
  if x < 16 ∨ y < 16 ∨ w < x + 17 ∨ h < y + 17 then 0
  else
    let c := p.get x y
    let ds := circle.map fun o => p.rel x y o - c
    let sc := max (arcScore arc ds) (arcScore arc (ds.map (- ·))) - 1
    if thresh ≤ sc then sc else 0

/-- A kept feature: level, level pixel, score, cell. -/
structure Feature where
  level : Nat
  x : Nat
  y : Nat
  score : Nat
  cell : Nat
  deriving DecidableEq, Repr

/-- A pixel with nonzero score survives suppression (R329). -/
def survives (sc : Plane) (x y : Nat) : Bool :=
  let c := sc.get x y
  decide (c ≠ 0) &&
    ([(-1, -1), (0, -1), (1, -1), (-1, 0)].all fun (o : Int × Int) => decide (sc.rel x y o < c)) &&
    ([(1, 0), (-1, 1), (0, 1), (1, 1)].all fun (o : Int × Int) => decide (sc.rel x y o ≤ c))

/-- The features kept in one level, by cell, then descending score, then raster order (R329, R330). -/
def levelFeatures (b : List Byte) (k : Nat) (p : Plane) (w h : Nat) : List Feature :=
  let cl := bf b 69 1
  let across := ceilDiv w (2 ^ cl)
  let sc := mkPlane w h fun x y => cornerScore p w h (bf b 67 1) (bf b 68 1) x y
  let all := (List.range h).flatMap fun y => (List.range w).filterMap fun x =>
    if survives sc x y then
      some { level := k, x := x, y := y, score := (sc.get x y).toNat, cell := y / 2 ^ cl * across + x / 2 ^ cl : Feature }
    else none
  (List.range (across * ceilDiv h (2 ^ cl))).flatMap fun c =>
    (sortBy (fun f : Feature => 255 - f.score) (all.filter fun f => f.cell = c)).take (bf b 70 1)

/-- The features left by the cap, in their order (R330). -/
def capFeatures (cap : Nat) (fs : List Feature) : List Feature :=
  if fs.length ≤ cap then fs
  else
    let ix := List.zip (List.range fs.length) fs
    let kept := (sortBy (fun p : Nat × Feature => (255 - p.2.score) * 8 + p.2.level) ix).take cap
    (ix.filter fun p => kept.any fun q => q.1 = p.1).map (·.2)

/-- m10 and m01 of a feature (R331). -/
def moments (p : Plane) (f : Feature) : Int × Int :=
  let offs := (List.range 31).flatMap fun (j : Nat) => (List.range 31).map fun (i : Nat) => ((i : Int) - 15, (j : Int) - 15)
  (offs.filter fun o => decide (o.1 * o.1 + o.2 * o.2 ≤ 225)).foldl (fun (a : Int × Int) o =>
    let v := p.rel f.x f.y o
    (a.1 + o.1 * v, a.2 + o.2 * v)) (0, 0)

/-- The generator of the sampling pattern (R332). -/
def draw32 (st : BitVec 32) : BitVec 32 :=
  let a := st ^^^ (st <<< 13)
  let c := a ^^^ (a >>> 17)
  c ^^^ (c <<< 5)

/-- draw(): the value of a state (R332). -/
def drawValue (st : BitVec 32) : Int := ((st >>> 8).toNat % 27 : Nat) - 13

/-- point(), drawing until it lies in the circle and differs from a given point (R332). -/
def drawPoint (avoid : Option (Int × Int)) : Nat → BitVec 32 → (Int × Int) × BitVec 32
  | 0, st => ((0, 0), st)
  | k + 1, st =>
    let s1 := draw32 st
    let s2 := draw32 s1
    let q := (drawValue s1, drawValue s2)
    if q.1 * q.1 + q.2 * q.2 ≤ 169 ∧ avoid ≠ some q then (q, s2) else drawPoint avoid k s2

/-- The pairs of points of the pattern (R332). -/
def pattern : Nat → BitVec 32 → List ((Int × Int) × (Int × Int))
  | 0, _ => []
  | k + 1, st =>
    let a := drawPoint none 1000 st
    let c := drawPoint (some a.1) 1000 a.2
    (a.1, c.1) :: pattern k c.2

/-- A point rotated by b × 11.25°, each coordinate rounded to nearest (R332). -/
def rotate (b : Nat) (q : Int × Int) : Int × Int :=
  let c := cosSin (halfTurn (2048 * b))
  (roundDiv (q.1 * c.1 - q.2 * c.2) (2 ^ 64), roundDiv (q.1 * c.2 + q.2 * c.1) (2 ^ 64))

/-- The sum of the 3 × 3 pixels centred on a point (R332). -/
def box (p : Plane) (x y : Int) : Int :=
  sumI ([-1, 0, 1].flatMap fun (j : Int) => [-1, 0, 1].map fun (i : Int) => p.get (x + i).toNat (y + j).toNat)

/-- The 32 B descriptor of a feature with orientation θ (R332). -/
def descriptorOf (p : Plane) (f : Feature) (theta : Nat) : List Byte :=
  let r := (theta + 1024) / 2048 % 32
  let bitsOf := (pattern 256 0x4a1c0d25#32).map fun q =>
    let a := rotate r q.1
    let c := rotate r q.2
    decide (box p (f.x + a.1) (f.y + a.2) < box p (f.x + c.1) (f.y + c.2))
  (List.range 32).map fun k => BitVec.ofNat 8 (packBits ((List.range 8).map fun j => bitsOf.getD (8 * k + 7 - j) false))

/-- The 32 B record of a feature (Table 8.6). -/
def featureRecord (f : Feature) (theta flags : Nat) : List Byte :=
  le 2 (16 * (f.x * 2 ^ f.level)) ++ le 2 (16 * (f.y * 2 ^ f.level)) ++ le 2 f.score ++ le 2 theta ++ le 1 f.level ++
    le 1 flags ++ le 2 f.cell ++ List.replicate 20 0

/-- An FEA DETECT node's work: the summary comes last, and a stream producer sends each feature, the record followed by the
descriptor, in place of writing it; without DESCRIBE the 32 B of the descriptor are zero (R327 to R333, R338; assumption
log 69). -/
def detectFeatures (b : List Byte) (producer : Bool) (s : State) : Work :=
  let src := imgAt b 80
  let levels := bf b 65 1
  let orient := bit (bf b 66 1) 0
  let desc := bit (bf b 66 1) 1
  let ps := (List.range levels).map fun k => readImg s (feaLevel b k)
  let kept := (List.range levels).flatMap fun k =>
    let sz := levelSize src.width src.height k
    levelFeatures b k (ps.getD k []) sz.1 sz.2
  let fs := capFeatures (bf b 72 2) kept
  let thetas := (List.zip (List.range fs.length) fs).map fun p =>
    if orient then let m := moments (ps.getD p.2.level []) p.2; orientation m.1 m.2 (s.draws + p.1) else 0
  let ft := List.zip fs thetas
  let recs := ft.map fun p => featureRecord p.1 p.2 (b2n orient + 2 * b2n desc)
  let descs := ft.map fun p => if desc then descriptorOf (ps.getD p.1.level []) p.1 p.2 else List.replicate 32 0
  let sum := le 2 fs.length ++ le 2 0 ++ le 4 kept.length ++
    ((List.range 8).flatMap fun k => le 2 (fs.filter fun f => f.level = k).length) ++ le 4 (kept.length - fs.length)
  { groups := [if producer then []
      else (bf b 160 5, recs.flatMap id) :: (if desc then [(bf b 168 5, descs.flatMap id)] else []),
      [(bf b 176 5, fit 512 sum)]],
    packets := if producer then (List.zip recs descs).map fun p => p.1 ++ p.2 else [], draws := fs.length }

/-! ### FEA, matching (R334 to R337) -/

/-- The predicted position of query q (R335). -/
def predicted (s : State) (b : List Byte) (q : Nat) (x y : Int) : Option (Int × Int) :=
  match bf b 65 1 with
  | 0 => some (x, y)
  | 2 => some ((memNat s (bf b 128 8 + 4 * q) 2 : Nat), (memNat s (bf b 128 8 + 4 * q + 2) 2 : Nat))
  | _ =>
    let bx := (x / 256).toNat
    let by_ := (y / 256).toNat
    if bf b 140 2 ≤ bx ∨ bf b 142 2 ≤ by_ then none
    else
      let a := bf b 128 8 + by_ * bf b 136 4 + bx * 4
      let dx := memNat s a 2
      let dy := memNat s (a + 2) 2
      if dx = 0x8000 ∧ dy = 0x8000 then none else some (x + sext 16 dx, y + sext 16 dy)

/-- A feature as MATCH reads it: X, Y, LEVEL, descriptor. -/
structure Feat where
  x : Int
  y : Int
  level : Nat
  desc : Nat
  deriving DecidableEq, Repr

def readFeat (s : State) (rec_ desc n : Nat) : Feat :=
  { x := (memNat s (rec_ + 32 * n) 2 : Nat), y := (memNat s (rec_ + 32 * n + 2) 2 : Nat),
    level := memNat s (rec_ + 32 * n + 8) 1, desc := memNat s (desc + 32 * n) 32 }

/-- One match record before it is written (Table 8.8). -/
structure MatchOut where
  best : Option Nat
  d1 : Nat
  d2 : Option Nat
  examined : Nat
  matched : Bool
  edge : Bool
  noCand : Bool
  ratio : Bool
  dist : Bool
  invalid : Bool
  reached : Bool
  deriving DecidableEq, Repr

/-- The match of query q among the references (R336, R337). -/
def matchOne (s : State) (b : List Byte) (refs : List (Nat × Feat)) (q : Nat) (f : Feat) : MatchOut :=
  let wx : Int := 16 * (bf b 68 1 : Nat)
  let wy : Int := 16 * (bf b 69 1 : Nat)
  match predicted s b q f.x f.y with
  | none => { best := none, d1 := 0xFFFF, d2 := none, examined := 0, matched := false, edge := false, noCand := true,
              ratio := false, dist := false, invalid := true, reached := false }
  | some (px, py) =>
    let near := refs.filter fun r =>
      decide ((r.2.x - px).natAbs ≤ wx.natAbs) && decide ((r.2.y - py).natAbs ≤ wy.natAbs) &&
        (!bit (bf b 66 1) 0 || decide (((r.2.level : Int) - f.level).natAbs ≤ bf b 67 1))
    let cand := near.take (bf b 74 2)
    let ds := cand.map fun r => (r.1, r.2, popcount 256 (f.desc ^^^ r.2.desc))
    match minBy (fun d : Nat × Feat × Nat => d.2.2) ds with
    | none => { best := none, d1 := 0xFFFF, d2 := none, examined := 0, matched := false, edge := false, noCand := true,
                ratio := false, dist := false, invalid := false, reached := false }
    | some d =>
      let second := (minBy (fun e : Nat × Feat × Nat => e.2.2) (ds.filter fun e => e.1 ≠ d.1)).map (·.2.2)
      let ratioOk := decide (16 * d.2.2 ≤ bf b 72 1 * second.getD 257)
      let distOk := decide (d.2.2 ≤ bf b 70 2)
      { best := some d.1, d1 := d.2.2, d2 := second, examined := cand.length, matched := ratioOk && distOk,
        edge := decide ((wx - 16).natAbs < (d.2.1.x - px).natAbs) || decide ((wy - 16).natAbs < (d.2.1.y - py).natAbs),
        noCand := false, ratio := !ratioOk, dist := !distOk, invalid := false,
        reached := decide (cand.length = bf b 74 2) }

/-- The record of a match (Table 8.8). -/
def MatchOut.bytes (m : MatchOut) (q : Nat) : List Byte :=
  le 2 q ++ le 2 (m.best.getD 0xFFFF) ++ le 2 m.d1 ++ le 2 (m.d2.getD 0xFFFF) ++
    le 2 (b2n m.matched + 2 * b2n m.edge + 4 * b2n m.noCand + 8 * b2n m.ratio + 16 * b2n m.dist + 32 * b2n m.invalid +
      64 * b2n m.reached) ++ le 2 m.examined ++ le 4 0

/-- Sizes of the sets of a MATCH node, as the summaries gave them at dispatch (R334). -/
def matchCounts (s : State) (heads : List (Nat × List Byte)) (b : List Byte) : Nat × Nat :=
  (min 16384 (fld (headBytes s heads (bf b 80 8)) 0 2), min 16384 (fld (headBytes s heads (bf b 104 8)) 0 2))

/-- An FEA MATCH node's work (R334 to R338). -/
def matchFeatures (heads : List (Nat × List Byte)) (b : List Byte) (s : State) : Work :=
  let n := matchCounts s heads b
  let refs := (List.range n.2).map fun k => (k, readFeat s (bf b 112 8) (bf b 120 8) k)
  let ms := (List.range n.1).map fun q => matchOne s b refs q (readFeat s (bf b 88 8) (bf b 96 8) q)
  let count := fun (p : MatchOut → Bool) => (ms.filter p).length
  let sum := le 2 n.1 ++ le 2 (count (·.matched)) ++ le 2 (count (·.edge)) ++ le 2 (count (·.noCand)) ++
    le 2 (count (·.ratio)) ++ le 2 (count (·.dist)) ++ le 2 (count (·.invalid)) ++ le 2 (count (·.reached)) ++
    le 8 (ms.foldl (fun a m => a + m.examined) 0)
  { groups := [[(bf b 144 8, (List.zip (List.range ms.length) ms).flatMap fun p => p.2.bytes p.1)],
      [(bf b 152 8, fit 512 sum)]], packets := [], draws := 0 }

/-- The ranges a MATCH node reads and writes once the sizes of its sets are known. -/
def matchRanges (s : State) (heads : List (Nat × List Byte)) (b : List Byte) : List (Nat × Nat) × List (Nat × Nat) :=
  let n := matchCounts s heads b
  let io := matchIo b
  (io.reads ++ [(bf b 88 8, 32 * n.1), (bf b 96 8, 32 * n.1), (bf b 112 8, 32 * n.2), (bf b 120 8, 32 * n.2)] ++
      (if bf b 65 1 = 2 then [(bf b 128 8, 4 * n.1)] else []),
    [(bf b 144 8, 16 * n.1), (bf b 152 8, 512)])

end Sys2Proof.Machine
end

