-- ==== Sys2Proof/Machine/NodeWork.lean ====
section
/-!
DEFINITION. What NE nodes and RESULT_OUT nodes write (10, 15), and the work of any node (assumption logs 12, 14).
-/
namespace Sys2Proof.Machine

/-! ### NE (10) -/

/-- The program of an NE node (R381). -/
def neProgram (b blob : List Byte) : List Byte := slice blob (bf b 64 4) (fld blob (bf b 64 4 + 12) 4)

/-- A half byte of a ROWS tensor belongs to an element, not to padding (R378, R379). -/
def halfUsed (t : Tensor) (row half : Nat) : Bool :=
  let line := ceilDiv t.w t.q
  let el := half / elemHalf t.type
  decide (row % line * t.q + el / t.cg < t.w) && decide (row / (line * t.h) * t.cg + el % t.cg < t.c)

/-- The element whose half byte stands at a half byte of a tensor, with the place within the element; none in padding and
between the lines of an image (R378 to R380). -/
def elementUnder (t : Tensor) (half : Nat) : Option (Nat × Nat) :=
  let eh := elemHalf t.type
  match t.layout with
  | 0 =>
    let row := half / 1024
    let h := half % 1024
    let line := ceilDiv t.w t.q
    let x := row % line * t.q + h / eh / t.cg
    let c := row / (line * t.h) * t.cg + h / eh % t.cg
    if halfUsed t row h then some ((row / line % t.h * t.w + x) * t.c + c, h % eh) else none
  | 1 =>
    let x := half % (2 * t.stride) / eh
    if x < t.w then some (half / (2 * t.stride) * t.w + x, half % (2 * t.stride) % eh) else none
  | _ => some (half / 2, half % 2)

/-- The bytes of an OUTPUT or SCRATCH tensor: its elements, a free value for one that nothing wrote, padding zero (R379). -/
def tensorBytes (t : Tensor) (value : Nat → Option Nat) (free : Nat → Byte) : List Byte :=
  let half := fun h => match elementUnder t h with
    | none => 0
    | some (k, j) => match value k with
      | some v => v / 16 ^ j % 16
      | none => (free (h / 2)).toNat / 16 ^ (h % 2) % 16
  (List.range t.len).map fun k => BitVec.ofNat 8 (half (2 * k) + 16 * half (2 * k + 1))

/-- An NE program at its end (R382, R393, R394): its operations on the elements of its tensors, its weight rows and the
packets it has read; padding is never read (R379). -/
def neRun (s : State) (gr : Graph) (inst : Inst) (i : Nat) : NeRun :=
  let r := inst.run i
  let b := r.body
  let base := match weightRange s b gr.blob with | w :: _ => w.1 | [] => 0
  let read := fun slot k => let t := tensorAt b slot
    elementVal t.type (halfBits (fun j => memByte s (t.addr + j)) (elementAt t k) (elemHalf t.type))
  let weight := fun ty k => elementVal ty (halfBits (fun j => memByte s (base + j)) (k * elemHalf ty) (elemHalf ty))
  (Config.neOps (neProgram b gr.blob) b).foldl (neStep (fun k => (tensorAt b k).type) read weight) (.start r.taken)

/-- The node record of an NE node (Table 10.7). How long it waited has no stated value (assumption log 14). -/
def neRecord (s : State) (n : Node) (r : NodeRun) (cycles : Nat) (overrun : Bool) (run : NeRun) (left : Nat) : List Byte :=
  fit 512 (le 4 cycles ++ le 4 (Config.draw s.draws) ++
    le 4 (if n.consumer then Config.draw (s.draws + 1) else 0) ++ le 4 s.tick.tickno.toNat ++ le 1 r.weightState ++
    le 1 (b2n overrun) ++ le 2 0 ++ le 4 run.saturated ++ le 4 run.overflowed ++ le 4 run.nans ++
    le 4 r.taken.length ++ le 4 left)

/-- Key of the stream port of a pair, by either of its nodes (R203). -/
def portKey (gr : Graph) (i : Nat) : Nat := let p := streamPort gr (pairHead gr i); 4 * p.1 + p.2

/-- Packets in the FIFO of a stream port. -/
def State.fifo (s : State) (k : Nat) : List (List Byte) := (tget s.drover.fifos k).getD []

/-- An NE node's work (R378 to R400): its output tensors, then its record. With weights that are not LOADED its outputs are
undefined (R387). -/
def neural (g i : Nat) (s : State) : Work :=
  match s.graph g, s.inst g with
  | some gr, some inst =>
    let n := gr.node i
    let r := inst.run i
    let b := r.body
    let run := neRun s gr inst i
    let outs := (List.range 5).filter fun k => decide ((tensorAt b k).role = 2) || decide ((tensorAt b k).role = 3)
    let loaded := decide (r.weightState = 0xF) || decide (r.weightState = RegionState.loaded.code)
    let value := fun (slot k : Nat) =>
      if loaded then (run.outs.find? fun o => decide (o.1 = slot) && decide (o.2.1 = k)).map fun o =>
        elementBits (tensorAt b slot).type o.2.2
      else none
    { groups := [outs.map fun k => let t := tensorAt b k
        (t.addr, tensorBytes t (value k) fun j => Config.freeByte (s.draws + 2) (t.addr + j)),
        (optAddr b 80).map fun a => (a, neRecord s n r (fld (neProgram b gr.blob) 8 4) false run
          (if n.consumer then (s.fifo (portKey gr i)).length else 0))],
      packets := [], draws := 3 }
  | _, _ => .none

/-- NE cores of a node, numbered 8 × cluster + core. -/
def coresOf (n : Node) : List Nat := n.units.map (· - 0x20)

/-- The local memory of a node's own cores changed. -/
def modCores (n : Node) (f : Core → Core) (s : State) : State :=
  s.modDrover fun d => { d with cores := (coresOf n).foldl (fun l k => lmod l k f) d.cores }

/-- At its dispatch every core of the node clears its local buffer and loads the program (R389, R399). -/
def loadCores (n : Node) (prog : List Byte) (s : State) : State :=
  modCores n (fun c => { imem := c.imem.write 0 prog, buffer := .empty }) s

/-- What a program leaves in the local buffers of its cores is not described. -/
def leaveCores (n : Node) (s : State) : State :=
  drawn (modCores n (fun c => { c with buffer := c.buffer.undefine 0 1048576 s.draws }) s)

/-! ### RESULT_OUT (15) -/

/-- The staged pages of a RESULT_OUT node: whole 4 KiB pages, zero beyond LENGTH (R533). -/
def stagedBytes (s : State) (b : List Byte) : List Byte :=
  fit (4096 * ceilDiv (bf b 72 4) 4096) (memBytes s (bf b 64 8) (bf b 72 4))

/-- A RESULT_OUT node copies its rows into its Carafe pages; only a node without faults gives them to the result
(R535, R537). -/
def stagePages (g i : Nat) (s : State) : State :=
  match s.inst g with
  | none => s
  | some inst =>
    let r := inst.run i
    match r.carafePage with
    | none => s
    | some first =>
      let d := stagedBytes s r.body
      let s := putRows (carafePageRow s (tenantOf g) first) d s
      if r.marks = [] then
        s.modInst g fun x => { x with staged := x.staged ++ [{ node := i, first := first, pages := d.length / 4096 }] }
      else s

/-! ### Any node -/

/-- Rows an engine node reads at its dispatch: the header of each input plane, the summaries of its feature sets (R334,
R341). -/
def headAddrs (s : State) (n : Node) (b : List Byte) : List Nat :=
  if n.kind ≠ .engine then []
  else if 0x14 ≤ n.unit ∧ n.unit < 0x16 then
    (if bf b 71 1 = 0 then []
     else (List.range (bf b 192 1)).map fun i => stePlane b s.tick.tickno + i * bf b 184 4)
  else if 0x16 ≤ n.unit ∧ n.unit < 0x18 then (if bf b 66 1 = 0 then [] else [floPlane b s.tick.tickno])
  else if isMatch n b then [bf b 80 8, bf b 104 8] else []

/-- The ranges a node reads. -/
def nodeReads (s : State) (n : Node) (r : NodeRun) (blob : List Byte) : List (Nat × Nat) :=
  let b := r.body
  let io := bodyIo s n b blob
  let odd := s.tick.tickno.getLsbD 0
  match n.kind with
  | .engine =>
    if n.unit < 0x14 then io.reads
    else if n.unit < 0x16 then
      let l := imgAt b 80
      io.reads ++ (if bf b 71 1 = 2 then
        stepped (bf b 192 1) (bf b 184 4) (stePlane b s.tick.tickno, planeLen (blocks l.width) (blocks l.height) 2) else [])
    else if n.unit < 0x18 then
      let c := imgAt b 80
      io.reads ++ [(bf b (if bf b 192 1 = 1 ∨ odd then 112 else 120) 8, 512 + refOffset b 3)] ++
        (if bf b 66 1 = 2 then [(floPlane b s.tick.tickno, planeLen (blocks c.width) (blocks c.height) 4)] else [])
    else if isMatch n b then (matchRanges s r.heads b).1 else io.reads
  | .ne => io.reads ++ weightRange s b blob
  | .resultOut => io.reads
  | _ => []

/-- What the work of an ENGINE or NE node comes to now. -/
def workOf (g i : Nat) (s : State) : Work :=
  match s.graph g, s.inst g with
  | some gr, some inst =>
    let n := gr.node i
    let r := inst.run i
    let b := r.body
    match n.kind with
    | .engine =>
      if n.unit < 0x12 then warp b s
      else if n.unit < 0x14 then pyramid b s
      else if n.unit < 0x16 then stereo r.heads b s
      else if n.unit < 0x18 then flow r.heads b s
      else if isMatch n b then matchFeatures r.heads b s
      else detectFeatures b n.producer s
    | .ne => neural g i s
    | _ => .none
  | _, _ => .none

/-! ### Accesses that Tally observes (R604 to R607) -/

/-- Requests that carry a range: one row of the Loft each, or up to 8 rows of DRAM (R429), as address and rows. -/
def requestsOf (r : Nat × Nat) : List (Nat × Nat) :=
  let a := r.1 / 512 * 512
  let n := ceilDiv (r.1 + r.2 - a) 512
  if r.2 = 0 then []
  else if a < dramBase then (List.range n).map fun k => (a + 512 * k, 1)
  else (List.range (ceilDiv n 8)).map fun k => (a + 4096 * k, min 8 (n - 8 * k))

/-- A row that a read finds damaged or poisoned. -/
def readFlagged (s : State) (addr rows : Nat) : Bool :=
  if addr < dramBase then rowBad s (rowOf addr)
  else (List.range (8 * rows)).any fun k => s.dram.poison.contains (sectorOf addr + k)

/-- One request of an ENGINE or NE node, recorded by the filter it matches (R606, R607). -/
def observe (src key : Nat) (write : Bool) (flagged : Bool) (data : List Byte) (q : Nat × Nat) (s : State) : State :=
  match s.tally.config with
  | some c =>
    (match tallyMatch c src write q.1 q.2 key with
     | some f => tallyAccess src f write q.1 q.2 flagged (some data) s
     | none => s)
  | none => s

/-- The requests a node makes at the end of its work, its reads and then the writes that have not gone out before; they leave
by the port of its first unit (R604; assumption log 53). -/
def observeNode (g i : Nat) (s : State) : State :=
  match s.graph g, s.inst g with
  | some gr, some inst =>
    let n := gr.node i
    let r := inst.run i
    let reads := nodeReads s n r gr.blob
    if !s.tally.capturing || !(decide (n.kind = .engine) || decide (n.kind = .ne)) ||
        (firstRefusal s (tenantOf g) reads (outputRanges s n r gr.blob)).isSome then s
    else
      let src := n.unit - 0x10
      let key := (s.contract (tenantOf g)).key
      let ws := ((workOf g i s).groups.flatten.filter fun w => !r.wrote.contains w.1).map fun w =>
        (w.1, wholeUnits w.1 w.2)
      let s := (reads.flatMap requestsOf).foldl (fun s q =>
        observe src key false (readFlagged s q.1 q.2) (memBytes s q.1 (512 * q.2)) q s) s
      ws.foldl (fun s w => (requestsOf (w.1, w.2.length)).foldl (fun s q =>
        observe src key true false (slice (List.replicate (w.1 - q.1) 0 ++ w.2) (q.1 - w.1) (512 * q.2)) q s) s) s
  | _, _ => s

/-- What a node does with its memory at its end, but for the rows that have gone out already (assumption log 12). -/
def workNode (g i : Nat) (s : State) : State :=
  match s.graph g, s.inst g with
  | some gr, some inst =>
    let n := gr.node i
    let r := inst.run i
    let reads := nodeReads s n r gr.blob
    match n.kind with
    | .engine => access g i reads (outputRanges s n r gr.blob) (fun s => (workOf g i s).apply r.wrote s) s
    | .ne => access g i reads (outputRanges s n r gr.blob) (fun s => leaveCores n ((workOf g i s).apply r.wrote s)) s
    | .resultOut =>
      match firstRefusal s (tenantOf g) reads [] with
      | some _ => access g i reads [] id s
      | none => stagePages g i (reads.foldl (readMarks g i) s)
    | _ => s
  | _, _ => s

/-- What an ENGINE or NE node does as its units start: it reads its heads, or its cores are loaded and its stream port is
empty (R334, R341, R389, R390). -/
def startUnits (g i : Nat) (s : State) : State :=
  match s.graph g, s.inst g with
  | some gr, some inst =>
    let n := gr.node i
    let b := (inst.run i).body
    if s.nodeRunning g i = false then s
    else match n.kind with
      | .ne =>
        let s := loadCores n (neProgram b gr.blob) s
        if n.consumer then s.modDrover fun d => { d with fifos := tdel d.fifos (portKey gr i) } else s
      | .engine =>
        let hs := headAddrs s n b
        if hs = [] then s
        else access g i (hs.map fun x => (x, 512)) [] (fun s =>
          s.modRun g i fun r => { r with heads := hs.map fun x => (x, memBytes s x 512) }) s
      | _ => s
  | _, _ => s

/-! ### Stream ports (R202, R390, R391) -/

/-- The program of a running consumer reads what it still asks for from its FIFO. -/
def readPackets (g : Nat) (gr : Graph) (c : Nat) (s : State) : State :=
  match s.inst g with
  | none => s
  | some inst =>
    let r := inst.run c
    let k := portKey gr c
    let n := packetReads (neProgram r.body gr.blob) r.body - r.taken.length
    (s.modDrover fun d => { d with fifos := tset d.fifos k ((s.fifo k).drop n) }).modRun g c fun r =>
      { r with taken := r.taken ++ (s.fifo k).take n }

/-- A packet meets the port: accepted when it fits whole in the free space of 64 KiB, discarded once the consumer has
ended. -/
def acceptPacket (g : Nat) (gr : Graph) (c : Nat) (p : List Byte) (s : State) : Option State :=
  if s.nodeRunning g c then
    let s := readPackets g gr c s
    let l := s.fifo (portKey gr c)
    if l.foldl (fun n q => n + q.length) 0 + p.length ≤ 65536 then
      some (readPackets g gr c (s.modDrover fun d => { d with fifos := tset d.fifos (portKey gr c) (l ++ [p]) }))
    else none
  else some s

/-- The packets of a producer go to its port in order while it accepts them; the answer tells whether all have gone. -/
def sendPackets (g : Nat) (gr : Graph) (i : Nat) : List (List Byte) → State → State × Bool
  | [], s => (s, true)
  | p :: l, s =>
    match acceptPacket g gr (i + 1) p s with
    | some s => sendPackets g gr i l (s.modRun g i fun r => { r with streamed := r.streamed + 1 })
    | none => (s, false)

/-- Packets a running producer has still to send. -/
def packetsLeft (g i : Nat) (s : State) : List (List Byte) :=
  match s.inst g with
  | some inst => (workOf g i s).packets.drop (inst.run i).streamed
  | none => []

/-- What a node that streams must have done before it ends: every packet of a producer is accepted, and a consumer has read
every packet its program asks for, the ones of a running producer as they come (R202, R371, R390). -/
def streamStep (g i : Nat) (s : State) : State × Bool :=
  match s.graph g, s.inst g with
  | some gr, some inst =>
    let n := gr.node i
    if n.producer then sendPackets g gr i (packetsLeft g i s) s
    else if n.consumer then
      let r := inst.run i
      let want := packetReads (neProgram r.body gr.blob) r.body
      let s := readPackets g gr i s
      let have_ := fun s : State => match s.inst g with | some x => (x.run i).taken.length | none => 0
      let s := if s.nodeRunning g (i - 1) then
          (sendPackets g gr (i - 1) ((packetsLeft g (i - 1) s).take (want - have_ s)) s).1
        else s
      (s, decide (want ≤ have_ s))
    else (s, true)
  | _, _ => (s, true)

/-- A consumer that ends leaves its port to discard what remains (R391). -/
def dropPackets (g i : Nat) (s : State) : State :=
  match s.graph g with
  | some gr => if (gr.node i).consumer then s.modDrover fun d => { d with fifos := tdel d.fifos (portKey gr i) } else s
  | none => s

/-- The packet an STE node with a tap sends to its Halter next (R371). -/
def nextTap (g i : Nat) (s : State) : Option (List Byte) :=
  match s.inst g with
  | some inst => (workOf g i s).packets[(inst.run i).tapped]?
  | none => none

/-- Every tap packet of a node has been accepted by its Halter (R371). -/
def tapsDone (g i : Nat) (s : State) : Bool := !(s.node g i).tap || (nextTap g i s).isNone

/-- Packets of a GATE_COPY node (R493). -/
def gatePackets (b : List Byte) : Nat := ceilDiv (bf b 76 4) (bf b 69 1)

/-- A GATE_COPY node has nothing outstanding: every packet's request has ended OK (R494). -/
def gateDone (r : NodeRun) : Bool := decide (r.acked = gatePackets r.body)

end Sys2Proof.Machine
end

