-- ==== Sys2Proof/Machine/FabricOps.lean ====
section
/-!
DEFINITION. The Paddock fabric (12): places of packets, routing, injection of requests, responses, ends of requests.
Ports of a router are numbered as the congestion map numbers them: 0 N, 1 E, 2 S, 3 W, 4 to 7 stall ports 0 to 3, 8 to
11 client ports 4 to 7, so that port p of an endpoint is number p + 4.
-/
namespace Sys2Proof.Machine

/-! ### Counts -/

def countFabric (f : FabricCounts → FabricCounts) (s : State) : State :=
  s.modFabric fun x => { x with counts := f x.counts }

/-- Cycles that a packet has spent without advancing since the latest one counted for it, from t0 to t_f of the window in
progress: this cycle is one of them unless the packet advances in it (R459; assumption log 30). -/
def stallCycles (s : State) (since : Option Instant) (moves : Bool) : Nat :=
  match s.tick.window with
  | none => 0
  | some w =>
    let past := match since with
      | none => 1
      | some t => (min s.now w.tf - max t w.t0) / cycleNs s + b2n (decide (t < w.t0))
    past - b2n (moves || decide (w.tf ≤ s.now))

/-- Stall cycles of a packet at a router's output port, counted and mapped (R459). -/
def stallAt (router output n : Nat) (s : State) : State :=
  if n = 0 then s
  else
    let k := 12 * router + output
    countFabric (fun c => { c with stalls := c.stalls + n }) (s.modFabric fun f =>
      { f with congestion := tset f.congestion k (min 0xFFFFFFFF ((tget f.congestion k).getD 0 + n)) })

/-- A packet at the head of its buffer advances through an output, or does not: the cycles it has stood are counted (R459). -/
def stallPacket (router output k : Nat) (moves : Bool) (f : Flight) (s : State) : State :=
  let s := stallAt router output (stallCycles s f.blocked moves) s
  if moves then s
  else s.modFabric fun x => { x with packets := tmod x.packets k fun f => { f with blocked := some s.now } }

/-- A client's packet at a port. -/
def waitKey (router port who : Nat) : Nat := (16 * router + port) * 2 ^ 32 + who

/-- Cycles spent waiting for injection, by what they were spent on (Table 12.9). -/
def countWait (w : WaitsFor) (n : Nat) (c : FabricCounts) : FabricCounts :=
  match w with
  | .room => c
  | .calendar => { c with calWaits := c.calWaits + n }
  | .window => { c with windowWaits := c.windowWaits + n }
  | .tag => { c with tagWaits := c.tagWaits + n }

/-- A client's packet is injected at a port, or waits there for something: the cycles it has waited are counted (R459). -/
def stallSource (router port who : Nat) (for_ : Option WaitsFor) (s : State) : State :=
  let k := waitKey router port who
  let since := tget s.fabric.waits k
  let n := stallCycles s (since.map (·.2)) for_.isNone
  let s := stallAt router (port + 4) n s
  let s := match since, for_ with
    | some w, _ => countFabric (countWait w.1 n) s
    | none, some w => countFabric (countWait w n) s
    | none, none => s
  s.modFabric fun f =>
    { f with waits := match for_ with | some w => tset f.waits k (w, s.now) | none => tdel f.waits k }

/-! ### Places -/

/-- Flits in one buffer. -/
def bufferFlits (s : State) (router port vc : Nat) : Nat :=
  s.fabric.packets.foldl (fun n p => if p.2.place = .buffer router port vc then n + p.2.pkt.flits else n) 0

/-- A buffer has room for a packet (R430, R431). -/
def roomFor (s : State) (router port : Nat) (p : Packet) : Bool :=
  decide (bufferFlits s router port p.vc + p.flits ≤ 129)

/-- A packet comes to a place. -/
def putPacket (place : Place) (entered : Option Nat) (p : Packet) (s : State) : State :=
  let s := s.modFabric fun f =>
    { f with packets := tset f.packets f.nextPacket { pkt := p, place := place, entered := entered, since := s.now, blocked := none },
             nextPacket := f.nextPacket + 1 }
  match place with
  | .buffer r q v => countFabric (fun c => { c with highest := max c.highest (bufferFlits s r q v) }) s
  | _ => s

/-- A packet leaves the fabric. -/
def removePacket (k : Nat) (s : State) : State := s.modFabric fun f => { f with packets := tdel f.packets k }

/-- Credits of a buffer return: over the P-link where the buffer is a gateway's (R478). -/
def returnCredits (place : Place) (flits : Nat) (s : State) : State :=
  match place with
  | .buffer r q v =>
    (match gatewayAt r q with
     | some g => s.modLink g fun l => { l with returns := lmod l.returns v (· + flits) }
     | none => s)
  | _ => s

/-- The oldest packet at a place that passes a test, with its key. -/
def firstAt (s : State) (place : Place) (test : Packet → Bool) : Option (Nat × Flight) :=
  s.fabric.packets.find? fun p => decide (p.2.place = place) && test p.2.pkt

/-! ### Responses (Table 12.5) -/

/-- The head of an answer to a packet, sent by a port of this device. -/
def answerHead (s : State) (router port op : Nat) (data : Bool) (p : Packet) : H0 :=
  { dest := p.src, dport := p.sport, epoch := s.fabric.epoch, data := data, dl := false, mcast := false, axis := 0,
    src := 16 * s.chip + router, sport := port, op := op, key := p.key, tag := p.tag, mask := 0, hops := 0 }

/-- A packet waits at a port to be injected. -/
def queueOut (router port : Nat) (p : Packet) (s : State) : State :=
  s.modFabric fun f => { f with outgoing := f.outgoing ++ [{ router := router, port := port, pkt := p }] }

/-- A NACK (Tables 12.5, 12.6), for a chip. -/
def nackFor (router port reason chip gate : Nat) (p : Packet) (s : State) : State :=
  let q : Packet :=
    { h0 := (answerHead s router port 0x03 false p).word, h1 := BitVec.ofNat 64 (reason + chip * 2 ^ 8 + gate * 2 ^ 16),
      rest := ctlRest }
  countFabric (fun c => { c with nacks := c.nacks + 1 }) (queueOut router port q s)

/-- A NACK from this chip about no gate. -/
def nack (router port reason : Nat) (p : Packet) (s : State) : State := nackFor router port reason s.chip 0xFFFF p s

/-- A WR_ACK. -/
def ack (router port : Nat) (p : Packet) (s : State) : State :=
  let q : Packet :=
    { h0 := (answerHead s router port 0x02 false p).word, h1 := BitVec.ofNat 64 (p.rows * 2 ^ 16 + s.chip * 2 ^ 24),
      rest := ctlRest }
  queueOut router port q s

/-- An RD_DATA with its rows and marks. -/
def readData (router port : Nat) (p : Packet) (d : List Byte) (detect poison : Nat) (s : State) : State :=
  let q : Packet :=
    { h0 := (answerHead s router port 0x11 true p).word, h1 := h1Rows p.addr p.mode p.rows detect poison,
      rest := fit (512 * p.rows) d }
  queueOut router port q s

/-! ### Routing (R433 to R436, R444, R466) -/

/-- Ports a link entry of a version leaves enabled, and the link carries the key (R434, R466, R481). -/
def linkUsable (s : State) (epoch egress key : Nat) : Bool :=
  (match (s.routes epoch).links[egress]? with | some e => e.enabled | none => false) &&
    decide ((s.plink egress).state = .up) && ((s.plink egress).tenantOk || decide (key = 0))

/-- The gateway a packet leaves by: for a firmware message the link to its neighbour, for a multicast E or S, else what
ROUTE gives (R434, R444, R504). -/
def egressOf (s : State) (p : Packet) : Option Nat :=
  if p.op = 0x05 then
    [0, 1, 2, 3].find? fun e => decide ((s.plink e).state = .up) && decide ((s.plink e).neighbour = chipOf p.dest)
  else if p.mcast then
    let e := if p.axis = 0 then 1 else 2
    if linkUsable s p.epoch e p.key then some e else none
  else
    let r := (s.routes p.epoch).route.getD (chipOf p.dest) 0xFF
    if 1 ≤ r ∧ r ≤ 4 ∧ linkUsable s p.epoch (r - 1) p.key = true then some (r - 1) else none

/-- The mesh port towards a router, along x first (R433). -/
def meshPort (router target : Nat) : Nat :=
  if router % 4 < target % 4 then 1 else if target % 4 < router % 4 then 3
  else if router / 4 < target / 4 then 2 else 0

/-- The output port a packet takes at a router; none where its egress is missing or disabled. -/
def outputOf (s : State) (router : Nat) (p : Packet) : Option Nat :=
  if chipOf p.dest = s.chip ∧ p.mcast = false then
    some (if router = p.dest % 16 then p.dport + 4 else meshPort router (p.dest % 16))
  else
    (egressOf s p).map fun e => if router = gatewayRouter e then e else meshPort router (gatewayRouter e)

/-- The router a mesh port leads to, and the input port there. -/
def neighbourOf (router port : Nat) : Nat × Nat :=
  match port with
  | 0 => (router - 4, 2) | 1 => (router + 1, 3) | 2 => (router + 4, 0) | _ => (router - 1, 1)

/-- Positions of chips on a packet's ring after this chip, in the positive direction (R443, R444). -/
def ringAfter (s : State) (p : Packet) : List Nat :=
  let n := if p.axis = 0 then s.boot.config.ringX else s.boot.config.ringY
  let me := if p.axis = 0 then s.chip % 4 else s.chip / 4
  let from_ := if p.axis = 0 then chipOf p.src % 4 else chipOf p.src / 4
  let far := (from_ + n - me) % n
  (List.range (if far = 0 then n else far)).map fun i => (me + i) % n

/-- The masked chips of a multicast that lie beyond this chip. -/
def maskedBeyond (s : State) (p : Packet) : List Nat :=
  ((ringAfter s p).drop 1).filterMap fun k =>
    if bit p.mask k then some (if p.axis = 0 then s.chip / 4 * 4 + k else 4 * k + s.chip % 4) else none

/-- Every masked chip of a multicast (R445). -/
def maskedChips (s : State) (axis mask : Nat) : List Nat :=
  (List.range 4).filterMap fun k =>
    if bit mask k then some (if axis = 0 then s.chip / 4 * 4 + k else 4 * k + s.chip % 4) else none

/-- A packet that can go no further is dropped, counted and posted; a request is answered (R434, R436, R444). -/
def dropPacket (router port reason : Nat) (p : Packet) (s : State) : State :=
  let s := lostPacket p (decide (reason = 0x09)) s
  if p.isRequest then
    if p.mcast then (maskedBeyond s p).foldl (fun s c => nackFor router port reason c 0xFFFF p s) s
    else nack router port reason p s
  else s

/-- A packet crosses to a P-link: one more hop, its DL set, held for replay (R435, R436, R475). The answer tells whether
it left the router. -/
def leaveBy (egress : Nat) (f : Flight) (s : State) : State × Bool :=
  let p := f.pkt
  if s.boot.config.hSys < p.hops + 1 then (dropPacket (gatewayRouter egress) 7 0x09 p s, true)
  else
    let q := crossed s p f.entered egress
    if linkReady s.now (s.plink egress) q then (linkSend egress q s, true) else (s, false)

/-! ### Requests (R443 to R457) -/

/-- The tenant of a key. -/
def keyTenant (s : State) (key : Nat) : Option Nat := (List.range 4).find? fun n => decide ((s.contract n).key = key)

/-- Key of a request in the table. -/
def reqKey (router port tag : Nat) : Nat := 64 * (16 * router + port) + tag

/-- The lowest tag a port can use (R450, R453). -/
def freeTag (s : State) (router port : Nat) : Option Nat :=
  (List.range 64).find? fun t => !thas s.fabric.reqs (reqKey router port t) && !thas s.fabric.tagHold (reqKey router port t)

/-- WR packets of a port outstanding to a chip (R457). -/
def writesTo (s : State) (router port chip : Nat) : Nat :=
  s.fabric.reqs.foldl (fun n p =>
    if reqPlace p.1 = (router, port) ∧ p.2.pkt.op = 0x10 then n + (p.2.waiting.filter (· = chip)).length else n) 0

/-- Requests may be injected: not from t_g on, but for key 0x00 in the maintenance slot (R458). -/
def mayInject (s : State) (key : Nat) : Bool :=
  match s.tick.window with
  | some w => decide (s.now < w.tg) || (decide (key = 0) && decide (w.tm ≤ s.now))
  | none => true

/-- What a request needs before it goes: a tag, its place in the windows of R457, room at the router. -/
inductive Ready where
  | go (tag : Nat)
  | noTag
  | noWindow
  | noRoom
  deriving DecidableEq, Repr

/-- Whether a request can be injected now at a port. -/
def requestReady (s : State) (router port : Nat) (p : Packet) (chips : List Nat) : Ready :=
  match freeTag s router port with
  | none => .noTag
  | some tag =>
    if p.op = 0x10 ∧ chips.any (fun c => decide (16 ≤ writesTo s router port c)) then .noWindow
    else if roomFor s router (port + 4) p then .go tag else .noRoom

/-- A packet without tag and source, as a port builds it. -/
def requestHead (s : State) (router port dest dport key op : Nat) (data mcast : Bool) (axis mask : Nat) : H0 :=
  { dest := dest, dport := dport, epoch := s.fabric.epoch, data := data, dl := false, mcast := mcast, axis := axis,
    src := 16 * s.chip + router, sport := port, op := op, key := key, tag := 0, mask := mask, hops := 0 }

/-- The number of an issuer among the clients of its port; 0 and 1 are answers that wait and firmware. -/
def Issuer.number : Issuer → Nat
  | .tally => 2
  | .lane l c => 2 + 4 * l + c
  | .node g i => 64 + 65536 * g + i

/-- Counts of an injected packet. -/
def countInjected (p : Packet) (s : State) : State :=
  countFabric (fun c => { c with injected := c.injected + 1, dataInjected := c.dataInjected + b2n p.isData }) s

/-- A request goes into the fabric (R450, R451), or waits; the answer tells whether it went. `chips` will answer it. -/
def sendRequest (router port : Nat) (issuer : Issuer) (h : H0) (h1 : BitVec 64) (rest : List Byte) (chips : List Nat)
    (filter : Option Nat) (s : State) : State × Bool :=
  let p0 : Packet := { h0 := h.word, h1 := h1, rest := rest }
  match requestReady s router port p0 chips with
  | .go tag =>
    let p : Packet := { p0 with h0 := ({ h with tag := tag } : H0).word }
    let r : Request := { issuer := issuer, pkt := p, injected := s.now,
                         expiry := s.now + 1000 * (s.routes s.fabric.epoch).timeoutUs, waiting := chips, refusals := [],
                         filter := filter }
    (countInjected p (putPacket (.buffer router (port + 4) p.vc) none p (stallSource router port issuer.number none
      (s.modFabric fun f => { f with reqs := tset f.reqs (reqKey router port tag) r }))), true)
  | .noTag => (stallSource router port issuer.number (some .tag) s, false)
  | .noWindow => (stallSource router port issuer.number (some .window) s, false)
  | .noRoom => (stallSource router port issuer.number (some .room) s, false)

/-! ### What a port does not inject (R443, R447, R449) -/

/-- Router and port of a DRAM channel (Table 12.1). -/
def dramPort (c : Nat) : Nat × Nat := match c with | 0 => (1, 6) | 1 => (2, 6) | 2 => (7, 5) | _ => (12, 4)

/-- A client port that a gateway hosts. -/
def isGatewayClient (router port : Nat) : Bool := [0, 1, 2, 3].any fun g => decide ((gatewayRouter g, 7) = (router, port))

/-- A multicast's ring and mask are legal for its source (R443). -/
def mcastOk (s : State) (h : H0) : Bool :=
  let own := if h.axis = 0 then s.chip % 4 else s.chip / 4
  !bit h.mask own && decide (h.mask ≠ 0) &&
    (if h.axis = 0 then decide (chipOf h.dest / 4 = s.chip / 4) else decide (chipOf h.dest % 4 = s.chip % 4))

/-- Why a port does not inject a request: 0x09 where its key may not ask for that destination (R447), 0x0A where its form is
wrong (R443, R449); the key is looked at first (assumption log 71). -/
def injectionRefusal (s : State) (router port : Nat) (h : H0) (mode : Nat) : Option Nat :=
  let own := decide (chipOf h.dest = s.chip) && !h.mcast
  let served := decide (h.dport < 4) || [0, 1, 2, 3].any fun c => decide (dramPort c = (h.dest % 16, h.dport))
  let keyOk := decide (h.key = 0) || (own && decide (mode = 0) && served) ||
    (isGatewayClient router port && !own && decide (mode = 1))
  let formOk := if own then decide (mode = 0)
    else decide (mode = 1) && decide (h.dest % 16 = 0) && decide (h.dport = 0) && (!h.mcast || mcastOk s h)
  if !keyOk then some 0x09 else if !formOk then some 0x0A else none

/-- A request that is not injected is counted, and posted where its key is refused (Table 12.8); its node faults. -/
def refuseInjection (g i router port : Nat) (h : H0) (cause : Nat) (s : State) : State :=
  let s := if cause = 0x09 then
      postTo (keyTenant s h.key) clsLink 2
        (detail [(0, 16 * s.chip + router), (8, port), (16, h.key), (24, h.dest)])
        (countFabric (fun c => { c with keyRefused := c.keyRefused + 1 }) s)
    else countFabric (fun c => { c with malformed := c.malformed + 1 }) s
  immediateFault g i cause (detailFabric h.dest 0) s

/-! ### Calendars (R456) -/

/-- A time of a calendar entry in DECAF (R592). -/
def calTime (s : State) (k : NodeKind) (x : Nat) : Nat := if s.power.state = .decaf then stretch k x else x

/-- What the calendar says of a packet of a node: the entry that counts it, that it waits, or that it may not go. -/
inductive CalSays where
  | free
  | entry (k : Nat)
  | wait
  | fault
  deriving DecidableEq, Repr

/-- The calendar of a running node (R456). -/
def calendarSays (s : State) (g i dest : Nat) (control : Bool) : CalSays :=
  match s.graph g, s.inst g with
  | some gr, some inst =>
    let n := gr.node i
    if n.calCount = 0 then .free
    else
      let since := match (inst.run i).phase with | .running t => t | _ => s.now
      let mine := (List.range n.calCount).filter fun k =>
        match gr.calendar[n.calFirst + k]? with
        | some e => decide (e.dest = dest) && (e.control == control) && decide ((inst.run i).calUsed.getD k 0 < e.maxPackets)
        | none => false
      let at_ := fun (k : Nat) (test : Nat → Nat → Bool) =>
        match gr.calendar[n.calFirst + k]? with
        | some e => test (since + calTime s n.kind e.offset) (since + calTime s n.kind e.offset + calTime s n.kind e.length)
        | none => false
      match mine.find? fun k => at_ k fun a b => decide (a ≤ s.now) && decide (s.now < b) with
      | some k => .entry k
      | none => if mine.any fun k => at_ k fun a _ => decide (s.now < a) then .wait else .fault
  | _, _ => .fault

/-- A packet counted against an entry. -/
def useEntry (g i : Nat) (c : CalSays) (s : State) : State :=
  match c with
  | .entry k => s.modRun g i fun r => { r with calUsed := lmod r.calUsed k (· + 1) }
  | _ => s

/-- CALENDAR_FAULT (Table 12.8), and the node's fault (R456). -/
def calendarFault (g i dest : Nat) (s : State) : State :=
  immediateFault g i 0x0B (detailFabric dest 0)
    (postTenant (tenantOf g) clsLink 6 (detail [(0, slotOf g), (8, i), (24, dest)]) s)

/-- A request of a node under its calendar: sent and counted, waiting, or refused with a fault (R447, R449, R456). -/
def sendUnderCalendar (g i router port : Nat) (h : H0) (h1 : BitVec 64) (rest : List Byte) (chips : List Nat)
    (filter : Option Nat) (after : State → State) (s : State) : State :=
  match injectionRefusal s router port h (bits h1.toNat 40 40), calendarSays s g i h.dest (!h.data) with
  | some cause, _ => refuseInjection g i router port h cause s
  | none, .fault => calendarFault g i h.dest s
  | none, .wait => stallSource router port (Issuer.node g i).number (some .calendar) s
  | none, c =>
    let r := sendRequest router port (.node g i) h h1 rest chips filter s
    if r.2 then after (useEntry g i c r.1) else r.1

/-! ### Ports of units (Table 12.1) -/

/-- Router and client port of a unit. -/
def unitPort (u : Nat) : Nat × Nat :=
  match u with
  | 0x10 => (4, 4) | 0x11 => (8, 4) | 0x12 => (4, 5) | 0x13 => (8, 5) | 0x14 => (4, 6) | 0x15 => (8, 6)
  | 0x16 => (4, 7) | 0x17 => (8, 7) | 0x18 => (7, 4) | 0x19 => (11, 4)
  | _ =>
    let core := (u - 0x20) % 8
    ((if u < 0x28 then 5 else 9) + core / 4, 4 + core % 4)

/-- Ports a node issues its requests at; a RESULT_OUT node's copy is made by the PCIe endpoint (R535). -/
def nodePorts (n : Node) : List (Nat × Nat) :=
  match n.kind with
  | .engine | .ne => n.units.map unitPort
  | .resultOut => [(0, 7)]
  | _ => []

/-- The port that serves an address of this device. -/
def addrPort (x : Nat) : Nat × Nat := if x < dramBase then stallPlace (rowOf x) else dramPort (channelOf x)

/-- Router and port of a lane (Table 12.1). -/
def lanePort (l : Nat) : Nat × Nat := (l / 2, 4 + l % 2)

/-! ### Ends of requests (R445, R451 to R454) -/

/-- How a request ended. -/
inductive Ending where
  | ok
  | refused (reason : Nat)
  | expired
  /-- the link to its destination went DOWN (R482) -/
  | lost
  deriving DecidableEq, Repr

/-- The fault cause of an ending (Table 16.2). -/
def Ending.cause : Ending → Nat
  | .ok => 0
  | .expired => 0x0D
  | .lost => 0x0E
  | .refused r =>
    if r = 0x06 then 0x06 else if r = 0x07 then 0x07 else if r = 0x08 ∨ r = 0x09 then 0x0E
    else if r = 0x0A then 0x09 else 0x0C

/-- The NACK reason of an ending. -/
def Ending.reason : Ending → Nat | .refused r => r | _ => 0

/-- How a multicast or unicast whose answers are in ended: LINK_LOST if any says so, else the refusal of the lowest
chip (R445). -/
def endingOf (r : Request) : Ending :=
  match r.refusals.find? fun q => decide (q.2 = 0x08) || decide (q.2 = 0x09) with
  | some q => .refused q.2
  | none =>
    match minBy (fun q : Nat × Nat => q.1) r.refusals with
    | some q => .refused q.2
    | none => .ok

/-- A node's request has ended (R454, R494, R555): a packet of a GATE_COPY node counts; any other end than OK faults the
node. -/
def nodeRequestEnded (g i : Nat) (r : Request) (e : Ending) (s : State) : State :=
  match e with
  | .ok => if (s.node g i).kind = .gateCopy then s.modRun g i fun x => { x with acked := x.acked + 1 } else s
  | _ => immediateFault g i e.cause (detailFabric r.pkt.dest e.reason) s

/-- Tally records a request that failed (R607). -/
def tallyFailed (key : Nat) (r : Request) (s : State) : State :=
  match r.filter, tallySource (reqPlace key).1 (reqPlace key).2 with
  | some f, some src => tallyAccess src f (decide (r.pkt.op = 0x10)) r.pkt.addr r.pkt.rows false none s
  | _, _ => s

/-- A lane's request has ended: a row that was not written is none of the rows its frame wrote, and a refusal is counted and
damages the frame (R295, R302). -/
def laneRequestEnded (ctx : Nat) (r : Request) (e : Ending) (s : State) : State :=
  let row := rowOf r.pkt.addr
  let lost := s.modCtx ctx fun c => { c with frame := c.frame.map fun f => { f with wrote := f.wrote.erase row } }
  match e with
  | .ok => s
  | .refused _ => (lost.modCtx ctx fun c => { c with frame := c.frame.map fun f => { f with damaged := true, refused := true } }).modLane
      (ctx / 4) fun l => { l with refused := l.refused + 1 }
  | _ => lost.modCtx ctx fun c => { c with frame := c.frame.map fun f => { f with damaged := true } }

/-- A write of Tally to its ring has ended: its bytes are in the ring, or its rows are lost (R617). -/
def tallyWritten (rows : Nat) (ok : Bool) (s : State) : State :=
  s.modTally fun t => { t with ringBytes := if ok then t.ringBytes + 512 * rows else t.ringBytes,
                               ringLost := if ok then t.ringLost else t.ringLost + rows }

/-- A request ends: its tag is free, unless it expired or its link was lost, and its issuer learns of it (R450 to R454,
R483). -/
def endRequest (key : Nat) (e : Ending) (s : State) : State :=
  match tget s.fabric.reqs key with
  | none => s
  | some r =>
    let s := s.modFabric fun f =>
      { f with reqs := tdel f.reqs key,
               tagHold := if e = .expired ∨ e = .lost then tset f.tagHold key s.now else f.tagHold }
    let s := if e = .ok then s else tallyFailed key r s
    match r.issuer with
    | .node g i => nodeRequestEnded g i r e s
    | .lane l c => laneRequestEnded (4 * l + c) r e s
    | .tally => tallyWritten r.pkt.rows (decide (e = .ok)) s

/-- Requests that a quiesce or an opening leaves without an answer: what they were writing for Tally is lost (R458, R617;
assumption log 53). -/
def dropTallyWrites (s : State) : State :=
  (s.fabric.reqs.filter fun p => decide (p.2.issuer = .tally)).foldl (fun s p => tallyWritten p.2.pkt.rows false s) s

end Sys2Proof.Machine
end

