-- ==== Sys2Proof/Machine/RowAccess.lean ====
section
/-!
DEFINITION. Row accesses at the stalls of the Loft (06): what a granted access does, and what its row is for.
-/
namespace Sys2Proof.Machine

/-! ### The BAR2 window (R79 to R82, R262, R263) -/

/-- Rows that a range of bytes touches. -/
def rowsOfRange (x n : Nat) : List Nat := (List.range ((x + n + 511) / 512 - x / 512)).map (x / 512 + ·)

/-- A function's BAR2 reads reach a row: its tenant's contract in force holds it (R80). -/
def bar2Reaches (s : State) (f row : Nat) : Bool :=
  decide (row < loftRows) && (s.contract f).loft.any fun e => inside (row, 1) e

/-- One completion of a BAR2 read: the bytes of one row, with EP set where the row's read was a detection (R263). -/
def bar2Piece (h : HeldRead) (row : Nat) (got : List Byte × Bool) (s : State) : State :=
  let a := max h.offset (512 * row)
  let b := min (h.offset + h.len) (512 * row + 512)
  emit (.reply h.fn (slice got.1 (a - 512 * row) (b - a)) got.2)
    (s.modLoft fun l => { l with counts := { l.counts with poisonedBar2 := l.counts.poisonedBar2 + b2n got.2 } })

/-- A BAR2 read all of whose rows have been read is completed. -/
def completeBar2 (k : Nat) (s : State) : State :=
  match tget s.loft.held k with
  | none => s
  | some h =>
    let rows := rowsOfRange h.offset h.len
    if rows.all (thas h.got) then
      rows.foldl (fun s row => bar2Piece h row ((tget h.got row).getD ([], false)) s)
        (s.modLoft fun l => { l with held := tdel l.held k })
    else s

/-- A row of a BAR2 read has been read. -/
def takeBar2 (k row : Nat) (got : List Byte × Bool) (s : State) : State :=
  completeBar2 k (s.modLoft fun l => { l with held := tmod l.held k fun h => { h with got := tset h.got row got } })

/-! ### Fabric requests in service -/

/-- Accesses of a packet are pending. -/
def Access.ofPacket (k : Nat) (a : Access) : Bool := match a.what with | .request j _ => decide (j = k) | .bar2 _ => false

/-- A request whose last row is done is answered (R223, R225). -/
def answerServed (k : Nat) (s : State) : State :=
  if s.loft.waiting.any (Access.ofPacket k) then s
  else match tget s.fabric.packets k with
    | none => s
    | some f =>
      match f.place with
      | .serving r q =>
        let p := f.pkt
        let s := removePacket k s
        if p.op = 0x10 then ack r q p s else readData r q p p.rest (hbits p.h1 55 48) 0 s
      | _ => s

/-- A row read for a packet joins it, with its detection mark. -/
def takeRequestRow (k index : Nat) (d : List Byte) (bad : Bool) (s : State) : State :=
  answerServed k (s.modFabric fun x =>
    { x with packets := tmod x.packets k fun f => { f with pkt :=
      { f.pkt with rest := patch f.pkt.rest (512 * index) d,
                   h1 := f.pkt.h1 ||| BitVec.ofNat 64 (b2n bad * 2 ^ (48 + index)) } } })

/-- A row written through a gate is kept with the key of the request, in case its frame ends aborted (R250). -/
def noteGateRow (a : Access) (s : State) : State :=
  match a.cls, a.what with
  | .gate, .request k _ =>
    (match tget s.fabric.packets k with
     | some f => s.modLoft fun l => { l with gateRows := (a.row, f.pkt.key) :: l.gateRows }
     | none => s)
  | _, _ => s

/-! ### One access -/

/-- The row of a write is stored, and its request learns of it. -/
def writeAccess (a : Access) (d : List Byte) (s : State) : State :=
  let s := noteGateRow a (putRow a.row d s)
  match a.what with
  | .request k _ => answerServed k s
  | .bar2 _ => s

/-- The source that a detection by an access names (Table 6.6). -/
def Access.source (a : Access) : DetectBy := match a.cls with | .host => .bar2 | .gate => .gate | _ => .node

/-- The row of a read goes to its reader, marked when its read is a detection (R253, R263). -/
def readAccess (a : Access) (bad : Bool) (s : State) : State :=
  match a.what with
  | .request k i => takeRequestRow k i (rowRead s a.row) bad s
  | .bar2 k => takeBar2 k a.row (storedRow s a.row, bad) s

/-- One row access (R224, R252, R253). A soft error found by a read shows as bits that have changed. A HOST reader whose
detection starts a refill is held until it ends (Table 6.5). -/
def rowAccess (a : Access) (flips : Flips) (s : State) : State :=
  match a.write with
  | some d => writeAccess a d s
  | none =>
    let s := if a.seen then s else damageRow a.row flips s
    let bad := rowBad s a.row
    let s := if bad && !a.seen then detect a.row a.source s else s
    if a.cls = .host ∧ thas s.loft.refills a.row = true then
      s.modLoft fun l => { l with waiting := l.waiting ++ [{ a with seen := true, since := s.now, lost := 0 }] }
    else readAccess a bad s

/-- A new access at its stall: granted at once where nothing waits and the stall is free, else it waits (R224, R254). -/
def offer (a : Access) (flips : Flips) (s : State) : State :=
  let stall := stallOf a.row
  if cycleFree s stall && (ready s stall).isEmpty && !thas s.loft.refills a.row then
    rowAccess a flips (loseCycle stall a s)
  else s.modLoft fun l => { l with waiting := l.waiting ++ [a] }

/-- LOFT_ROW_ACCESS: one cycle of a stall (R224, R227 to R229). -/
def execLoftRowAccess (t : Instant) (stall : Fin 64) (flips : Flips) (s : State) : Host.Outcome State Fault Refusal :=
  event t (fun s =>
    match stallGrant s stall with
    | none => s
    | some a => if cycleFree s stall then rowAccess a flips (loseCycle stall a s) else s) s

end Sys2Proof.Machine
end

