-- ==== Sys2Proof/Machine/FabricRows.lean ====
section
/-!
DEFINITION. Fabric rows (12): injection, forwarding, delivery, responses, expiries, gate requests, and the commands
ROUTE_LOAD and EPOCH_SWITCH (Table 4.12).
-/
namespace Sys2Proof.Machine

/-! ### Injection (R446 to R450, R456) -/

/-- What an NE program may not do: an access outside its tensors and weight rows, or a write to inputs or weights (R388).
-/
def neBreach (s : State) (g i : Nat) (write : Bool) (r : Nat × Nat) : Option Nat :=
  match s.graph g, s.inst g with
  | some gr, some inst =>
    let n := gr.node i
    if n.kind ≠ .ne then none
    else
      let b := (inst.run i).body
      let ts := tensors b
      let outs := (ts.filter fun t => decide (t.role = 2) || decide (t.role = 3)).map fun t => whole t.range
      let ins := ((ts.filter fun t => t.role = 1).map Tensor.range ++ weightRange s b gr.blob).map whole
      if outs.any (inside r) then none
      else if ins.any (inside r) then (if write then some 0x07 else none)
      else some (if write && ins.any (overlap r) then 0x07 else 0x06)
  | _, _ => none

/-- The rows and sectors of a write. -/
def unitsOf (w : Nat × List Byte) : List Nat :=
  let u := unitOf w.1
  (List.range (ceilDiv w.2.length u)).map fun k => w.1 + k * u

/-- Bytes of a block that one write of a group covers. -/
def blockIn (grp : List (Nat × List Byte)) (addr len : Nat) : Option (List Byte) :=
  grp.findSome? fun w =>
    let d := wholeUnits w.1 w.2
    if inside (addr, len) (w.1, d.length) then some (slice d (addr - w.1) len) else none

/-- Writes of a group are out in the fabric. -/
def groupOut (s : State) (g i : Nat) (grp : List (Nat × List Byte)) : Bool :=
  s.fabric.reqs.any fun p => decide (p.2.issuer = .node g i) && decide (p.2.pkt.op = 0x10) &&
    grp.any fun w => overlap (p.2.pkt.addr, 512 * p.2.pkt.rows) (w.1, (wholeUnits w.1 w.2).length)

/-- The bytes a node may write now at a block of its outputs: each group of its writes begins once the one before has gone
out and been acknowledged (R338, R366, R400), and each row and sector goes out once (R313). -/
def plannedIn (s : State) (g i addr len : Nat) (wrote : List Nat) : List (List (Nat × List Byte)) → Option (List Byte)
  | [] => none
  | grp :: l =>
    match blockIn grp addr len with
    | some d => if wrote.any fun x => inside (x, 1) (addr, len) then none else some d
    | none => if (grp.flatMap unitsOf).all wrote.contains && !groupOut s g i grp then plannedIn s g i addr len wrote l else none

/-- A block lies in a SCRATCH tensor of an NE node, whose program writes there what and when it wants. -/
def inScratch (n : Node) (r : NodeRun) (x : Nat × Nat) : Bool :=
  decide (n.kind = .ne) && (tensors r.body).any fun t => decide (t.role = 3) && inside x (whole t.range)

/-- The bytes a running node writes at a block now, if it writes there: what its work leaves there (assumption log 12); in a
SCRATCH tensor any bytes. -/
def plannedRows (s : State) (g i addr len : Nat) : Option (List Byte) :=
  match s.inst g with
  | some inst =>
    let r := inst.run i
    if inScratch (s.node g i) r (addr, len) then
      some ((List.range len).map fun k => Config.freeByte s.draws (addr + k))
    else plannedIn s g i addr len r.wrote (workOf g i s).groups
  | none => none

/-- A block that a running node has sent is not written again at its end. -/
def markWrote (g i addr len : Nat) (s : State) : State :=
  match s.inst g with
  | some inst =>
    if inScratch (s.node g i) (inst.run i) (addr, len) then drawn s
    else { s.modRun g i (fun r => { r with wrote := unitsOf (addr, List.replicate len 0) ++ r.wrote }) with
           draws := s.draws + (workOf g i s).draws }
  | none => s

/-- A running node reads a block. -/
def plannedRead (s : State) (g i : Nat) (r : Nat × Nat) : Bool :=
  match s.graph g, s.inst g with
  | some gr, some inst =>
    decide ((gr.node i).kind = .ne) || (nodeReads s (gr.node i) (inst.run i) gr.blob).any fun q => inside r (whole q)
  | _, _ => false

/-- DETAIL for an address. -/
def detailAddr (x : Nat) : Nat := if x < dramBase then detailRow (rowOf x) else detailSector x

/-- A request of a running node at one of its ports (R17, R313, R388, R447, R456): a read of a block it reads, or a write of a
block of its outputs whose turn has come. A Loft request names one row (R429). -/
def injectNode (router port : Nat) (n : NodeRef) (write : Bool) (addr rows : Nat) (s : State) : State :=
  let g := refKey n.graph
  let i := n.node
  let t := n.graph.tenant.val
  let nd := s.node g i
  if s.nodeRunning g i = false ∨ (nodePorts nd).contains (router, port) = false then s
  else
    let rows := if addr < dramBase then 1 else max 1 (min rows 8)
    let addr := addr / 512 * 512
    let len := 512 * rows
    if !(inLoft addr len || inDram s addr len) then immediateFault g i 0x06 (detailAddr addr) s
    else match neBreach s g i write (addr, len) with
      | some cause => immediateFault g i cause (detailAddr addr) s
      | none =>
        let key := (s.contract t).key
        let dst := addrPort addr
        match (if write then plannedRows s g i addr len else if plannedRead s g i (addr, len) then some [] else none) with
        | none => s
        | some data =>
        let h := requestHead s router port (16 * s.chip + dst.1) dst.2 key (if write then 0x10 else 0x01) write false 0 0
        let observed := decide (nd.kind = .engine) || decide (nd.kind = .ne)
        let src := if observed && s.tally.capturing then tallySource router port else none
        let filter := match src, s.tally.config with
          | some k, some c => tallyMatch c k write addr rows key
          | _, _ => none
        let sent := fun s =>
          let s := match src, filter with
            | some k, some f => if write then tallyAccess k f true addr rows false (some data) s else s
            | _, _ => s
          if write then markWrote g i addr len s else s
        sendUnderCalendar g i router port h (h1Rows addr 0 rows 0 0) (if write then data else ctlRest) [s.chip] filter
          sent s

/-- A row that a gate write would read is under refill: the read waits (R254). -/
def gateRefills (s : State) (write : Bool) (x : Nat) : Bool :=
  write && s.loft.refills.any fun p => overlap (512 * p.1, 512) (x, 4096)

/-- The next packet of a GATE_COPY node (R443, R449, R493). -/
def injectGateCopy (router port : Nat) (n : NodeRef) (s : State) : State :=
  let g := refKey n.graph
  let i := n.node
  let t := n.graph.tenant.val
  match s.inst g with
  | none => s
  | some inst =>
    let r := inst.run i
    let b := r.body
    if r.running = false ∨ (s.node g i).kind ≠ .gateCopy ∨ gatePackets b ≤ r.sent then s
    else
      let write := decide (bf b 64 1 = 0)
      let mcast := bit (bf b 65 1) 0
      let axis := bits (bf b 65 1) 1 1
      let mask := bf b 66 1
      let dest := bf b 67 1
      let route := (s.routes s.fabric.epoch).route.getD dest 0xFF
      let egress : Option Nat :=
        if mcast then some (if axis = 0 then 1 else 2) else if 1 ≤ route ∧ route ≤ 4 then some (route - 1) else none
      if isGatewayClient router port = false then s
      else if dest = s.chip ∧ mcast = false then
        refuseInjection g i router port
          (requestHead s router port (16 * dest) 0 (s.contract t).key (if write then 0x10 else 0x01) write false 0 0) 0x09 s
      else match egress with
      | none => immediateFault g i 0x0E (detailFabric (16 * dest) 0x08) s
      | some e =>
        if (gatewayRouter e, 7) ≠ (router, port) ∨ gateRefills s write (bf b 80 8 + 512 * (r.sent * bf b 69 1)) then s
        else
          let per := bf b 69 1
          let rows := min per (bf b 76 4 - r.sent * per)
          let x := bf b 80 8 + 512 * (r.sent * per)
          let len := 512 * rows
          match firstRefusal s t (if write then [(x, len)] else []) (if write then [] else [(x, len)]) with
          | some (why, y) =>
            immediateFault g i (refusalCause why) (detailAddr y) (if why = 4 then s else refuseAccess t why y s)
          | none =>
            let s := if write then readMarks g i s (x, len) else s
            let data := if write then memBytes s x len else ctlRest
            let h := requestHead s router port (16 * dest) 0 (s.contract t).key (if write then 0x10 else 0x01) write mcast
              axis (if mcast then mask else 0)
            let chips := if mcast then maskedChips s axis mask else [dest]
            sendUnderCalendar g i router port h (h1Rows (gateAddr (bf b 68 1) (bf b 72 4 + r.sent * per)) 1 rows 0 0) data
              chips none (fun s => s.modRun g i fun r => { r with sent := r.sent + 1 }) s

/-- The next row that a lane has completed of a frame goes out as a packet, once (R292, R446). -/
def injectLane (router port lane ctx row : Nat) (s : State) : State :=
  let k := 4 * lane + ctx
  match (s.ctx k).frame with
  | some f =>
    (match nextLaneRow f s.now row with
     | some (region, place, d) =>
       if lanePort lane = (router, port) ∧ row < loftRows then
         let dst := stallPlace row
         let r := sendRequest router port (.lane lane ctx)
           (requestHead s router port (16 * s.chip + dst.1) dst.2 (s.contract f.binding.tenant).key 0x10 true false 0 0)
           (h1Rows (512 * row) 0 1 0 0) d [s.chip] none s
         if r.2 then
           modFrame k (fun f => { f with next := f.next.set region (place + 1), wrote := row :: f.wrote }) r.1
         else r.1
       else s
     | none => s)
  | none => s

/-- What waits at a port goes out, oldest first; from t_f to t_m nothing does, and in the maintenance slot only key 0x00
(R431, R440, R458). -/
def injectWaiting (router port : Nat) (s : State) : State :=
  match s.fabric.outgoing.find? fun o => decide (o.router = router) && decide (o.port = port) with
  | none => s
  | some o =>
    let p : Packet := { o.pkt with h0 := ({ o.pkt.head with epoch := s.fabric.epoch } : H0).word }
    let may := match s.tick.window with
      | some w => decide (s.now < w.tf) || (decide (p.key = 0) && decide (w.tm ≤ s.now))
      | none => true
    if !may then s
    else if roomFor s router (port + 4) p then
      countInjected p (putPacket (.buffer router (port + 4) p.vc) none p
        (stallSource router port 0 none (s.modFabric fun f => { f with outgoing := f.outgoing.erase o })))
    else stallSource router port 0 (some .room) s

/-- A firmware message to a neighbour (R504, R505). -/
def injectFirmware (router port chip : Nat) (payload : List Byte) (s : State) : State :=
  let h := requestHead s router port (16 * chip) 6 0 0x05 false false 0 0
  let d := fit 24 payload
  let p : Packet := { h0 := h.word, h1 := BitVec.ofNat 64 (fld d 0 8), rest := d.drop 8 }
  if (router, port) = (0, 6) ∧ s.fw.state = .ready then
    if roomFor s router (port + 4) p then
      countInjected p (putPacket (.buffer router (port + 4) p.vc) none p (stallSource router port 1 none s))
    else stallSource router port 1 (some .room) s
  else s

/-- FABRIC_INJECT (R427, R446 to R450, R456 to R458). -/
def execFabricInject (t : Instant) (router : Fin 16) (port : Fin 8) (what : Injection) (s : State) :
    Host.Outcome State Fault Refusal :=
  event t (fun s =>
    match what with
    | .waiting => injectWaiting router port s
    | .firmware chip payload => if mayInject s 0 then injectFirmware router port chip payload s else s
    | .node n write addr rows => if mayInject s 1 then injectNode router port n write addr rows s else s
    | .gateCopy n => if mayInject s 1 then injectGateCopy router port n s else s
    | .laneRow lane ctx row => if mayInject s 1 then injectLane router port lane ctx row s else s) s

/-! ### Forwarding (R431 to R436) -/

/-- The first packet of every buffer of a router, with its key. -/
def headsOf (s : State) (router : Nat) : List (Nat × Flight) :=
  (List.range 12).flatMap fun q => (List.range 4).filterMap fun v => firstAt s (.buffer router q v) fun _ => true

/-- Whether a packet can advance through an output now (R431, R436, R475). -/
def canAdvance (s : State) (router output : Nat) (f : Flight) : Bool :=
  if 4 ≤ output then true
  else match gatewayAt router output with
    | some e => decide (s.boot.config.hSys < f.pkt.hops + 1) ||
        linkReady s.now (s.plink e) (crossed s f.pkt f.entered e)
    | none => let n := neighbourOf router output
              roomFor s n.1 n.2 f.pkt

/-- Input port of a packet in a buffer. -/
def inputOf (f : Flight) : Nat := match f.place with | .buffer _ q _ => q | _ => 0

/-- The packet an output grants among those that can advance (R432): control before data, but data after four control
grants in a row while data waited; within a class the inputs in turn. -/
def grantOf (s : State) (router output : Nat) (cs : List (Nat × Flight)) : Option (Nat × Flight) :=
  let k := 16 * router + output
  let ctl := cs.filter fun c => !c.2.pkt.isData
  let data := cs.filter fun c => c.2.pkt.isData
  let last := (tget s.fabric.lastInput k).getD 11
  let pick := minBy fun c : Nat × Flight => (inputOf c.2 + 11 - last) % 12
  if data ≠ [] ∧ (ctl = [] ∨ 4 ≤ (tget s.fabric.controlRun k).getD 0) then pick data else pick ctl

/-- The granted packet moves on. -/
def advancePacket (router output k : Nat) (f : Flight) (s : State) : State :=
  let s := returnCredits f.place f.pkt.flits (removePacket k (stallPacket router output k true f s))
  if 4 ≤ output then putPacket (.endpoint router (output - 4)) f.entered f.pkt s
  else match gatewayAt router output with
    | some e => (leaveBy e f s).1
    | none =>
      let n := neighbourOf router output
      putPacket (.buffer n.1 n.2 f.pkt.vc) f.entered f.pkt s

/-- FABRIC_FORWARD: one packet boundary of one output port (R432 to R436, R444, R459). Packets whose egress is missing
are dropped first (R434). -/
def execFabricForward (t : Instant) (router : Fin 16) (output : Fin 12) (s : State) : Host.Outcome State Fault Refusal :=
  event t (fun s =>
    let r := router.val
    let o := output.val
    let lostOnes := (headsOf s r).filter fun c => (outputOf s r c.2.pkt).isNone
    let s := lostOnes.foldl (fun s c =>
      dropPacket r 7 0x08 c.2.pkt (returnCredits c.2.place c.2.pkt.flits (removePacket c.1 s))) s
    let cs := (headsOf s r).filter fun c => decide (outputOf s r c.2.pkt = some o)
    match grantOf s r o (cs.filter fun c => canAdvance s r o c.2) with
    | none => cs.foldl (fun s c => stallPacket r o c.1 false c.2 s) s
    | some (k, f) =>
      let n := 16 * r + o
      let run := if f.pkt.isData ∨ cs.all (fun c => !c.2.pkt.isData) then 0 else (tget s.fabric.controlRun n).getD 0 + 1
      let s := s.modFabric fun x =>
        { x with lastInput := tset x.lastInput n (inputOf f), controlRun := tset x.controlRun n run }
      let s := (cs.filter fun c => decide (c.1 ≠ k)).foldl (fun s c => stallPacket r o c.1 false c.2 s) s
      advancePacket r o k f s) s

/-! ### Delivery (R448) -/

/-- The client number of a request at a stall: the source port, above all of which come the gateways (assumption log
31). -/
def clientOf (f : Flight) (own : Nat) : Nat :=
  if chipOf f.pkt.src = own then 16 * (f.pkt.src % 16) + f.pkt.sport else 256 + f.entered.getD 0

/-- Class of a local request at a stall (Table 6.2). -/
def classOf (f : Flight) : StallClass :=
  if f.pkt.src % 16 < 4 ∧ (f.pkt.sport = 4 ∨ f.pkt.sport = 5) then .lane else .node

/-- A request is taken into service: its row accesses wait at their stalls. A read gathers its rows in the packet. -/
def serveRows (k : Nat) (f : Flight) (router port : Nat) (cls : StallClass) (first : Nat) (s : State) : State :=
  let p := f.pkt
  let write := decide (p.op = 0x10)
  let accs := (List.range p.rows).map fun i =>
    ({ cls := cls, client := clientOf f s.chip, row := first + i,
       write := if write then some (slice p.rest (512 * i) 512) else none, what := .request k i, since := s.now, lost := 0,
       seen := false } : Access)
  let q : Packet := if write then p else { p with rest := List.replicate (512 * p.rows) 0 }
  (s.modFabric fun x =>
    { x with packets := tset x.packets k { f with pkt := q, place := .serving router port } }).modLoft fun l =>
      { l with waiting := l.waiting ++ accs }

/-- A refused request: counted and posted as R231, R233, R234 and R241 say, and answered. -/
def refuseRequest (k : Nat) (f : Flight) (router port : Nat) (tenant : Option Nat) (why x : Nat) (s : State) : State :=
  let s := match tenant with
    | some n => if why = 4 then s else refuseAccess n why x s
    | none => refuseAccess 0 0 x s
  nack router port (if why = 0 then 0x06 else 0x07) f.pkt (removePacket k s)

/-- Why a key may not make a request, with the row or sector; key 0x00 is exempt (R448, R514). -/
def keyRefusal (s : State) (f : Flight) : Option (Option Nat × Nat × Nat) :=
  let p := f.pkt
  let write := decide (p.op = 0x10)
  let carafe := decide (p.src = 16 * s.chip) && decide (p.sport = 7)
  let range := (p.addr, 512 * p.rows)
  if p.key = 0 then none
  else match keyTenant s p.key with
    | none => some (none, 0, p.addr)
    | some n => (refusedAt s n write carafe range).map fun q => (some n, q.1, q.2)

/-- A request at a stall port. -/
def deliverStall (k : Nat) (f : Flight) (router port : Nat) (s : State) : State :=
  let p := f.pkt
  match keyRefusal s f with
  | some (n, why, x) => refuseRequest k f router port n why x s
  | none =>
    if inLoft p.addr (512 * p.rows) then serveRows k f router port (classOf f) (rowOf p.addr) s
    else refuseRequest k f router port none 0 p.addr s

/-- Rows of DRAM read one after the other: the bytes and the mask of rows with a poisoned sector (R517). -/
def readDramRows (x : Nat) : Nat → List SectorCheck → State → State × List Byte × Nat
  | 0, _, s => (s, [], 0)
  | n + 1, fs, s =>
    let a := readSectors x 0 8 fs s
    let q := readDramRows (x + 512) n (fs.drop 8) a.1
    (q.1, a.2.1 ++ q.2.1, b2n a.2.2 + 2 * q.2.2)

/-- A request at a DRAM controller port (R448, R514, R517, R519). -/
def deliverDram (k : Nat) (f : Flight) (router port : Nat) (found : List SectorCheck) (s : State) : State :=
  let p := f.pkt
  match keyRefusal s f with
  | some (n, why, x) => refuseRequest k f router port n why x s
  | none =>
    if !inDram s p.addr (512 * p.rows) then refuseRequest k f router port none 0 p.addr s
    else if p.op = 0x10 then ack router port p (writeDram p.addr p.rest (removePacket k s))
    else
      let r := readDramRows p.addr p.rows found (removePacket k s)
      readData router port p r.2.1 0 r.2.2 r.1

/-- FABRIC_DELIVER: the oldest request or firmware message handed to a port is taken (R429, R448). A request that no
service answers is dropped (assumption log 32). From t_g on a request is discarded (R458). -/
def execFabricDeliver (t : Instant) (router : Fin 16) (port : Fin 8) (found : List SectorCheck) (s : State) :
    Host.Outcome State Fault Refusal :=
  event t (fun s =>
    match firstAt s (.endpoint router port) fun p =>
        !p.isResponse && !(p.isRequest && decide (p.mode = 1)) && decide (p.op ≠ 0x04) with
    | none => s
    | some (k, f) =>
      if f.pkt.isRequest && !mayInject s f.pkt.key then
        countFabric (fun c => { c with quiesced := c.quiesced + 1 }) (removePacket k s)
      else if f.pkt.isRequest then
        if port.val < 4 then deliverStall k f router port s
        else if [0, 1, 2, 3].any fun c => decide (dramPort c = (router.val, port.val)) then deliverDram k f router port found s
        else countFabric (fun c => { c with malformed := c.malformed + 1 }) (removePacket k s)
      else removePacket k s) s

/-! ### Gates (R245 to R251) -/

/-- A gate accepts requests now (R249). -/
def gateTime (s : State) (g : Gate) : Bool :=
  match s.tick.window with
  | some w => decide (s.now < w.tg) || (g.persistent && decide (w.te ≤ s.now))
  | none => g.persistent

/-- Why a gate refuses a request, as GATE_REFUSED codes it (R246 to R249, Table 6.6): a gate that is not open has no rows.
-/
def gateRefusal (s : State) (gate : Option Gate) (p : Packet) : Option Nat :=
  match gate with
  | none => some 2
  | some g =>
    if !g.openMode && decide (p.key ≠ g.key) then some 0
    else if !g.openMode && decide (chipOf p.src ≠ g.peer) then some 1
    else if g.count < p.rowOffset + p.rows then some 2
    else if p.op = 0x10 ∧ g.write = false then some 3
    else if !gateTime s g then some 4
    else none

/-- GATE_REQUEST: the gate service of a gateway takes its oldest request (R248). -/
def execGateRequest (t : Instant) (gateway : Fin 4) (s : State) : Host.Outcome State Fault Refusal :=
  event t (fun s =>
    let r := gatewayRouter gateway
    match firstAt s (.endpoint r 7) fun p => p.isRequest && decide (p.mode = 1) with
    | none => s
    | some (k, f) =>
      let p := f.pkt
      let gate := tget s.loft.gates p.gate
      match gateRefusal s gate p with
      | some why =>
        let s := postTo (gate.map (·.tenant)) clsMemory 7 (detail [(0, p.gate), (8, why), (12, chipOf p.src)])
          (s.modLoft fun l => { l with counts := { l.counts with gateRefusals := l.counts.gateRefusals + 1 } })
        nackFor r 7 (why + 1) s.chip p.gate p (removePacket k s)
      | none => serveRows k f r 7 .gate ((gate.map (·.first)).getD 0 + p.rowOffset) s) s

/-! ### Responses (R445, R450 to R452) -/

/-- The marks an RD_DATA carries reach the node that reads (R253, R517, R555). -/
def takeMarks (r : Request) (p : Packet) (s : State) : State :=
  match r.issuer with
  | .node g i =>
    (List.range p.rows).foldl (fun s k =>
      let s := if bit (hbits p.h1 55 48) k then
          (if r.pkt.mode = 0 then markRow g i (rowOf r.pkt.addr + k) s
           else markNode g i 0x02 (detailFabric r.pkt.dest 0) none s)
        else s
      if bit (hbits p.h1 63 56) k then markNode g i 0x04 (detailSector (r.pkt.addr + 512 * k)) none s else s) s
  | _ => s

/-- Rows that a GATE_COPY READ brings are written at their place (R493). -/
def storeGateRows (r : Request) (p : Packet) (s : State) : State :=
  match r.issuer with
  | .node g i =>
    if (s.node g i).kind = .gateCopy ∧ s.nodeRunning g i then
      match s.inst g with
      | some inst =>
        let b := (inst.run i).body
        store (bf b 80 8 + 512 * (r.pkt.rowOffset - bf b 72 4)) p.rest s
      | none => s
    else s
  | _ => s

/-- An observed read is recorded with the values of its response (R607). -/
def recordRead (router port : Nat) (r : Request) (p : Packet) (s : State) : State :=
  match r.filter, tallySource router port with
  | some f, some src =>
    tallyAccess src f false r.pkt.addr r.pkt.rows (decide (hbits p.h1 63 48 ≠ 0)) (some p.rest) s
  | _, _ => s

/-- An answer to an outstanding request (R445, R450). -/
def takeResponse (router port key : Nat) (r : Request) (p : Packet) (s : State) : State :=
  let chip := if p.op = 0x02 then hbits p.h1 31 24 else if p.op = 0x03 then hbits p.h1 15 8 else chipOf p.src
  let r' := { r with waiting := r.waiting.erase chip,
                     refusals := if p.op = 0x03 then r.refusals ++ [(chip, hbits p.h1 7 0)] else r.refusals }
  let s := if p.op = 0x11 then storeGateRows r p (takeMarks r p (recordRead router port r p s)) else s
  if r.pkt.mcast ∧ r'.waiting ≠ [] then s.modFabric fun f => { f with reqs := tset f.reqs key r' }
  else endRequest key (endingOf r') s

/-- FABRIC_RESPONSE (R448, R451, R452). -/
def execFabricResponse (t : Instant) (router : Fin 16) (port : Fin 8) (s : State) : Host.Outcome State Fault Refusal :=
  event t (fun s =>
    match firstAt s (.endpoint router port) Packet.isResponse with
    | none => s
    | some (k, f) =>
      let key := reqKey router port f.pkt.tag
      let s := removePacket k s
      match tget s.fabric.reqs key with
      | none => countFabric (fun c => { c with discarded := c.discarded + 1 }) s
      | some r =>
        if r.pkt.key ≠ f.pkt.key then countFabric (fun c => { c with keyRefusedRx := c.keyRefusedRx + 1 }) s
        else if r.expiry < f.since then countFabric (fun c => { c with discarded := c.discarded + 1 }) s
        else takeResponse router port key r f.pkt s) s

/-- A response to a request that arrives in time: one that has come to its port by the expiry, or at the expiry itself one
that is on the device, which may still come in that nanosecond (R451). -/
def inTime (s : State) (router port tag : Nat) (r : Request) : Bool :=
  s.fabric.packets.any fun p =>
    p.2.pkt.isResponse && decide (p.2.pkt.dest = 16 * s.chip + router) && decide (p.2.pkt.dport = port) &&
      decide (p.2.pkt.tag = tag) && decide (p.2.pkt.key = r.pkt.key) &&
      ((decide (p.2.place = .endpoint router port) && decide (p.2.since ≤ r.expiry)) || decide (s.now = r.expiry))

/-- REQUEST_EXPIRY (R451, R453). -/
def execRequestExpiry (t : Instant) (router : Fin 16) (port : Fin 8) (tag : Fin 64) (s : State) :
    Host.Outcome State Fault Refusal :=
  event t (fun s =>
    let key := reqKey router port tag
    match tget s.fabric.reqs key with
    | some r =>
      if r.expiry ≤ s.now ∧ inTime s router port tag r = false then endRequest key .expired (countFabric (fun c => { c with expired := c.expired + 1 }) s) else s
    | none => s) s

/-- TAG_HOLDBACK_END: while no window opens, 10 ms after the expiry (R453). -/
def execTagHoldbackEnd (t : Instant) (router : Fin 16) (port : Fin 8) (tag : Fin 64) (s : State) :
    Host.Outcome State Fault Refusal :=
  event t (fun s =>
    let key := reqKey router port tag
    match tget s.fabric.tagHold key with
    | some since =>
      if s.tick.window.isNone ∧ since + 10000000 ≤ s.now then s.modFabric fun f => { f with tagHold := tdel f.tagHold key }
      else s
    | none => s) s

/-! ### Quiesce (R458) and epochs (R440, R441) -/

/-- From t_g every service port discards the requests it has not answered (R458). -/
def discardRequests (s : State) : State :=
  let n := (s.fabric.packets.filter fun p =>
    match p.2.place with | .serving .. => true | .endpoint .. => p.2.pkt.isRequest | _ => false).length
  countFabric (fun c => { c with quiesced := c.quiesced + n })
    (dropRequestAccesses (s.modFabric fun f => { f with packets := tfilter f.packets fun _ p =>
      match p.place with | .serving .. => false | .endpoint .. => !p.pkt.isRequest | _ => true }))

/-- At t_f routers and gateways discard what they hold; requests of lanes and of Tally end with what carried them, and
held tags come free (R453, R458). The answer counts the discards. -/
def quiesceFabric (s : State) : State × Nat :=
  let n := s.fabric.packets.length + s.fabric.outgoing.length
  (countFabric (fun c => { c with quiesced := c.quiesced + n })
    (dropRequestAccesses ((dropTallyWrites s).modFabric fun f =>
      { f with packets := [], outgoing := [], reqs := [], tagHold := [], waits := [] })), n)

/-- At an opening nothing is in flight on the device and no request is outstanding (R54): what came since the latest t_f is
discarded, and counted as at a quiesce (assumption log 74). -/
def clearFabric (s : State) : State :=
  let n := s.fabric.packets.length + s.fabric.outgoing.length
  countFabric (fun c => { c with quiesced := c.quiesced + n })
    (dropRequestAccesses ((dropTallyWrites s).modFabric fun f =>
      { f with packets := [], outgoing := [], reqs := [], waits := [] }))

/-- A pending epoch switch takes effect and posts EPOCH_DONE (R441). -/
def applyEpoch (s : State) : State :=
  match s.fabric.switch with
  | some v => postAll clsLink 4 (BitVec.ofNat 64 v) (s.modFabric fun f => { f with epoch := v, switch := none })
  | none => s

/-! ### Route images (Table 12.7) -/

/-- A valid route image for a chip (R438). -/
def routesOk (chip : Nat) (d : List Byte) : Bool :=
  let f := fld d
  decide (d.take 4 = [0x52, 0x54, 0x42, 0x4C]) && decide (f 4 1 = 1) && decide (f 5 1 = chip) && decide (1 ≤ f 6 1) &&
    decide (f 6 1 ≤ 16) && zeros d 7 1 && decide (10 ≤ f 8 4) && decide (f 8 4 ≤ 10000) && zeros d 12 4 &&
    ((List.range 4).all fun k => decide (f (16 + 4 * k) 1 < 4) && decide (f (17 + 4 * k) 1 < 16) && zeros d (18 + 4 * k) 2) &&
    zeros d 32 28 && decide (crcSkip d 60 = f 60 4) &&
    ((List.range 16).all fun c =>
      let r := f (64 + 4 * c) 1
      zeros d (65 + 4 * c) 3 &&
        if c = chip then decide (r = 0)
        else decide (r = 0xFF) || (decide (1 ≤ r) && decide (r ≤ 4) && bit (f (16 + 4 * (r - 1)) 1) 0)) &&
    decide (bit (f 128 1) 0 = false) && zeros d 160 32

/-- The route table an image spells. -/
def parseRoutes (d : List Byte) : Routes :=
  { timeoutUs := fld d 8 4,
    links := (List.range 4).map fun k =>
      { enabled := bit (fld d (16 + 4 * k) 1) 0, wrap := bit (fld d (16 + 4 * k) 1) 1, neighbour := fld d (17 + 4 * k) 1 },
    route := (List.range 16).map fun c => fld d (64 + 4 * c) 1, keys := BitVec.ofNat 256 (fld d 128 32) }

/-- ROUTE_LOAD (R438). -/
def execRouteLoad (t : Instant) (r : RingRef) (e : Entry) (buf : Option (List Byte)) (s : State) :
    Host.Outcome State Fault Refusal :=
  let v := efld e 16 1
  let d := fit 192 (buf.getD [])
  bufCommand 0x0801 t r e
    (fun s => [layout e [(16, 1), (24, 12)], badIf (decide (1 < v)), badIf (decide (efld e 32 4 ≠ 192)),
      (decide (v = s.fabric.epoch) || s.fabric.switch.isSome, .badState)] ++ bufChecks e 65536)
    (fun s => match buf with | none => [(true, .hostDmaError)] | some _ => [(!routesOk s.chip d, .badImage)])
    (fun seq s => done seq (s.modFabric fun f => { f with versions := f.versions.set v (parseRoutes d) })) s

/-- EPOCH_SWITCH (R441). -/
def execEpochSwitch (t : Instant) (r : RingRef) (e : Entry) (s : State) : Host.Outcome State Fault Refusal :=
  let v := efld e 16 1
  command 0x0802 t r e
    (fun s => [layout e [(16, 1)], badIf (decide (1 < v)),
      (!(decide (s.tick.state = .running) || decide (s.tick.state = .paused)), .badState),
      (decide (v = s.fabric.epoch) || s.fabric.switch.isSome, .badState)])
    (fun seq s => deferredOk seq (s.modFabric fun f => { f with switch := some v })) s

end Sys2Proof.Machine
end

