-- ==== Sys2Proof/Machine/MemCommands.lean ====
section
/-!
DEFINITION. Acrega commands of group 0x04, memory (Table 4.9; 06, 14).
-/
namespace Sys2Proof.Machine

/-! ### Data movements (R145, R150) -/

/-- Regions of a movement: a region being loaded. -/
def loadingRegion (s : State) (r : Nat) : Bool :=
  s.moves.any fun m => match m.2 with | .residentLoad k => decide (k = r) | _ => false

/-- A movement begins; it ends at DATA_MOVEMENT_END. -/
def beginMove (m : Move) (seq : Nat) (s : State) : State := { s with moves := tset s.moves seq m }

/-- The checks MEM_WRITE and MEM_READ share (R142, R169, R514). -/
def memChecks (e : Entry) (s : State) : List (Bool × Status) :=
  let x := efld e 40 8
  let n := efld e 32 4
  [layout e [(16, 1), (24, 12), (40, 8)], badTenant e] ++ bufChecks e 0x4000000 ++
    [badIf (decide (x < 512 * loftRows) && (decide (x % 512 ≠ 0) || decide (n % 512 ≠ 0))),
     badIf (decide (dramBase ≤ x) && (decide (x % 64 ≠ 0) || decide (n % 64 ≠ 0))),
     (!inContract ((foreseen s).contract (efld e 16 1)) (x, n), .outsidePartition),
     (decide (dramBase ≤ x) && hitsCheck s x n, .inUse)]

/-- MEM_WRITE (R169, R235, R241). What nodes read of its DRAM range in this window is undefined (R170). -/
def execMemWrite (t : Instant) (r : RingRef) (e : Entry) (s : State) : Host.Outcome State Fault Refusal :=
  let x := efld e 40 8
  let n := efld e 32 4
  command 0x0401 t r e
    (fun s => memChecks e s ++
      [(decide (x < 512 * loftRows) && s.windowsOpen, .badState),
       (decide (x < 512 * loftRows) && (s.loft.regions.any fun p => overlap (x / 512, n / 512) (p.2.first, p.2.count)),
        .inUse),
       (decide (dramBase ≤ x) && s.windowsOpen && hitsBacking s x n, .inUse)])
    (fun seq s => beginMove (.memWrite x n) seq
      (if x < dramBase then s else s.modDram fun m => { m with hostWrote := (x, n) :: m.hostWrote })) s

/-- MEM_READ (R169). -/
def execMemRead (t : Instant) (r : RingRef) (e : Entry) (s : State) : Host.Outcome State Fault Refusal :=
  command 0x0402 t r e (memChecks e) (beginMove (.memRead (efld e 40 8) (efld e 32 4) (bufAddr e) false)) s

/-! ### Resident regions (R171, R238 to R243) -/

/-- The states in which resident regions change (Table 4.9). -/
def residentState (s : State) : Bool × Status :=
  (!(decide (s.tick.state = .stopped) || decide (s.tick.state = .paused) || decide (s.tick.state = .lost)), .badState)

/-- Rows of a range overlap a region or a gate. -/
def rowsTaken (s : State) (r : Nat × Nat) : Bool :=
  (s.loft.regions.any fun p => overlap r (p.2.first, p.2.count)) || s.loft.gates.any fun p => overlap r (p.2.first, p.2.count)

/-- RESIDENT_DEFINE (R171, R238, R514). -/
def execResidentDefine (t : Instant) (r : RingRef) (e : Entry) (s : State) : Host.Outcome State Fault Refusal :=
  let n := efld e 16 1
  let k := efld e 17 1
  let rows := (efld e 20 4, efld e 24 4)
  let back := (efld e 32 8, 512 * efld e 24 4)
  command 0x0403 t r e
    (fun s =>
      let s := foreseen s
      let c := s.contract n
      [layout e [(16, 2), (20, 8), (32, 8)], badTenant e, badIf (decide (63 < k)), badIf (decide (rows.2 = 0)),
       badIf (decide (back.1 % 512 ≠ 0)), residentState s, (thas s.loft.regions k, .inUse),
       (!inContract c (512 * rows.1, 512 * rows.2) || decide (loftRows < rows.1 + rows.2), .outsidePartition),
       (decide (back.1 < dramBase) || !inContract c back, .outsidePartition),
       (rowsTaken s rows || overlap rows c.carafe && decide (c.carafe.2 ≠ 0), .conflict),
       (hitsBacking s back.1 back.2, .conflict), (hitsCheck s back.1 back.2, .inUse)])
    (fun seq s =>
      let g : Region := { tenant := n, first := rows.1, count := rows.2, backing := back.1, state := .defined, failedRows := [] }
      done seq (s.modLoft fun l => { l with regions := tset l.regions k g })) s

/-- RESIDENT_LOAD: LOADING from acceptance (R239). Commands on one region are carried out one at a time. -/
def execResidentLoad (t : Instant) (r : RingRef) (e : Entry) (s : State) : Host.Outcome State Fault Refusal :=
  let k := efld e 17 1
  if loadingRegion s k then .next (advance t s)
  else command 0x0404 t r e
    (fun s => [layout e [(17, 1)], badIf (decide (63 < k)), residentState s,
      (decide (k ≤ 63) && !thas s.loft.regions k, .notFound)])
    (fun seq s => beginMove (.residentLoad k) seq (s.modLoft fun l =>
      { l with regions := tmod l.regions k fun g => { g with state := .loading } })) s

/-- RESIDENT_DELETE: the rows are working rows with undefined contents (R171, R243). -/
def execResidentDelete (t : Instant) (r : RingRef) (e : Entry) (s : State) : Host.Outcome State Fault Refusal :=
  let k := efld e 17 1
  if loadingRegion s k then .next (advance t s)
  else command 0x0405 t r e
    (fun s => [layout e [(17, 1)], badIf (decide (63 < k)), residentState s,
      (decide (k ≤ 63) && !thas s.loft.regions k, .notFound),
      (s.drover.graphs.any fun p => namesRegion p.2 k, .inUse)])
    (fun seq s =>
      match tget s.loft.regions k with
      | some g => done seq (undefineRows g.first g.count (s.modLoft fun l => { l with regions := tdel l.regions k }))
      | none => done seq s) s

/-! ### Gates (R171, R245 to R251) -/

/-- The gate GATE_OPEN spells. -/
def newGate (e : Entry) : Gate :=
  let m := efld e 18 1
  { tenant := efld e 16 1, first := efld e 20 4, count := efld e 24 4, persistent := bit m 0, write := bit m 1,
    openMode := bit m 2, key := efld e 19 1, peer := efld e 28 1 }

/-- GATE_OPEN (R171, R246, R247). -/
def execGateOpen (t : Instant) (r : RingRef) (e : Entry) (s : State) : Host.Outcome State Fault Refusal :=
  let k := efld e 17 1
  let g := newGate e
  command 0x0406 t r e
    (fun s =>
      let s := foreseen s
      let c := s.contract g.tenant
      [layout e [(16, 13)], badTenant e, badIf (decide (63 < k)), badIf (decide (7 < efld e 18 1)),
       badIf (decide (15 < g.peer)), badIf (decide (g.count = 0)), badIf (!g.openMode && decide (g.key = 0)),
       badIf (g.openMode && (decide (g.key ≠ 0) || decide (g.peer ≠ 0))), (thas s.loft.gates k, .inUse),
       (!inContract c (512 * g.first, 512 * g.count) || decide (loftRows < g.first + g.count), .outsidePartition),
       (rowsTaken s (g.first, g.count) || overlap (g.first, g.count) c.carafe && decide (c.carafe.2 ≠ 0), .conflict)])
    (fun seq s => deferStar seq (.gateOpen k g) (fun s => s.modLoft fun l => { l with gates := tset l.gates k g }) s) s

/-- GATE_CLOSE (R171). -/
def execGateClose (t : Instant) (r : RingRef) (e : Entry) (s : State) : Host.Outcome State Fault Refusal :=
  let k := efld e 17 1
  command 0x0407 t r e
    (fun s => [layout e [(17, 1)], badIf (decide (63 < k)), (decide (k ≤ 63) && !thas (foreseen s).loft.gates k, .notFound),
      (s.drover.graphs.any fun p => namesGate p.2 k, .inUse)])
    (fun seq s => deferStar seq (.gateClose k) (fun s => s.modLoft fun l => { l with gates := tdel l.gates k }) s) s

/-! ### ECC regions (R512, R513) -/

/-- A range overlaps the ring of a Tally configuration in force or pending (R512). -/
def hitsTallyRing (s : State) (r : Nat × Nat) : Bool :=
  let hit := fun c : TallyConfig => c.ring && overlap r (c.ringBase, c.ringSize)
  (match s.tally.config with | some c => hit c | none => false) ||
    s.deferred.any fun d => match d with | .tallyConfig c => hit c | _ => false

/-- A region is enabled: every data sector is zero, with valid check bytes. -/
def enableEcc (k : Nat) (r : Nat × Nat) (s : State) : State :=
  let d := dataArea r
  let c := checkArea r
  let keep := fun q : Nat => !inside (sectorAddr q, 64) r
  drawn (s.modDram fun m =>
    { m with mem := (m.mem.zero d.1 d.2).undefine c.1 c.2 s.draws, ecc := tset m.ecc k r,
             poison := m.poison.filter keep, listed := m.listed.filter keep })

/-- A region is removed: its data stays, its check area is undefined, and its entries leave the poison list. -/
def disableEcc (k : Nat) (r : Nat × Nat) (s : State) : State :=
  let c := checkArea r
  let keep := fun q : Nat => !inside (sectorAddr q, 64) r
  drawn (s.modDram fun m =>
    { m with mem := m.mem.undefine c.1 c.2 s.draws, ecc := tdel m.ecc k, poison := m.poison.filter keep,
             listed := m.listed.filter keep })

/-- ECC_REGION_SET (R512). -/
def execEccRegionSet (t : Instant) (r : RingRef) (e : Entry) (s : State) : Host.Outcome State Fault Refusal :=
  let k := efld e 17 1
  let on := efld e 18 1
  let x := (efld e 24 8, efld e 32 8)
  command 0x0408 t r e
    (fun s => [layout e [(17, 2), (24, 16)], badIf (decide (7 < k)), badIf (decide (1 < on)),
      (decide (s.tick.state ≠ .stopped), .badState)] ++
      if on = 1 then
        [badIf (decide (x.1 % 2 ^ 23 ≠ 0) || decide (x.2 % 2 ^ 23 ≠ 0) || !inDram s x.1 x.2), (thas s.dram.ecc k, .inUse),
         (hitsBacking s x.1 x.2, .inUse), (hitsTallyRing s x, .inUse),
         (s.dram.ecc.any fun p => decide (p.1 ≠ k) && overlap x p.2, .conflict)]
      else [badIf (decide (x.1 ≠ 0) || decide (x.2 ≠ 0)), (decide (k ≤ 7) && !thas s.dram.ecc k, .notFound)])
    (fun seq s =>
      if on = 1 then done seq (enableEcc k x s)
      else match tget s.dram.ecc k with
        | some q => done seq (disableEcc k q s)
        | none => done seq s) s

end Sys2Proof.Machine
end

