-- ==== Sys2Proof/Machine/GraphCommands.lean ====
section
/-!
DEFINITION. Acrega commands on graphs and tethers (Tables 4.10, 4.13; 05, 13): GRAPH_LOAD to FRAME_ABORT,
TETHER_SIGNAL, TETHER_READ.
-/
namespace Sys2Proof.Machine

/-- The graph a command names. -/
def graphOf (e : Entry) : Nat := graphKey (efld e 16 1) (efld e 17 1)

/-- An image for the graph is being read: commands on one graph are carried out one at a time (R106). -/
def graphBusy (s : State) (e : Entry) : Bool :=
  s.moves.any fun m => match m.2 with | .graphLoad n k _ => decide (graphKey n k = graphOf e) | _ => false

/-- A command on a graph, which waits while an image for it is being read. -/
def graphCommand (op : Nat) (t : Instant) (r : RingRef) (e : Entry) (cs : State → List (Bool × Status))
    (body : Nat → State → State) (s : State) : Host.Outcome State Fault Refusal :=
  if graphBusy s e then .next (advance t s)
  else command op t r e
    (fun s => [badTenant e, badIf (decide (63 < efld e 17 1))] ++ cs s) body s

/-- NOT_FOUND where the slot holds no graph (R174, R210, R498). -/
def noGraph (s : State) (e : Entry) : Bool × Status :=
  (decide (efld e 16 1 ≤ 3) && decide (efld e 17 1 ≤ 63) && (s.graph (graphOf e)).isNone, .notFound)

/-! ### Loading (R173, R189, R190, R192, R385) -/

/-- A contract change of a tenant is pending (R173). -/
def partitionPending (s : State) (tenant : Nat) : Bool :=
  s.deferred.any fun d => match d with | .partition n _ => decide (n = tenant) | _ => false

/-- GRAPH_LOAD: the checks that need no byte of the image and come before every other; the rest are made when the image
has been read, at DATA_MOVEMENT_END. -/
def execGraphLoad (t : Instant) (r : RingRef) (e : Entry) (s : State) : Host.Outcome State Fault Refusal :=
  graphCommand 0x0501 t r e
    (fun s => layout e [(16, 2), (24, 12)] :: bufChecks e 0x1000000 ++ [(partitionPending s (efld e 16 1), .badState)])
    (beginMove (.graphLoad (efld e 16 1) (efld e 17 1) (efld e 32 4))) s

/-- GRAPH_LOAD when its image has been read, or could not be (R143, R145). -/
def endGraphLoad (seq tenant slot len : Nat) (data : Option (List Byte)) (s : State) : State :=
  let g := graphKey tenant slot
  let cs := [((s.graph g).isSome, Status.inUse), (decide (0x4000000 < imageBytes s + len), .noResource)] ++
    match data with
    | none => [(true, .hostDmaError)]
    | some d => imageChecks s tenant (fit len d)
  match firstFailing cs with
  | some st => finish seq st 0 s
  | none =>
    let gr := parseGraph (fit len (data.getD []))
    finish seq .ok (resultBytes [(20, critPath s tenant gr false)])
      (s.modDrover fun d => { d with graphs := tset d.graphs g gr })

/-- An effect that concerns a graph. -/
def effectOn (g : Nat) : Effect → Bool
  | .arm k _ | .systemArm k | .disarm k | .param k _ _ => decide (k = g)
  | _ => false

/-- GRAPH_UNLOAD: refused while the graph is armed, an arm is pending, or an instance of it is active (R174, R148). -/
def execGraphUnload (t : Instant) (r : RingRef) (e : Entry) (s : State) : Host.Outcome State Fault Refusal :=
  let g := graphOf e
  graphCommand 0x0502 t r e
    (fun s => [layout e [(16, 2)], noGraph s e,
      ((match (foreseen s).graph g with | some x => x.isArmed | none => false) || (s.inst g).isSome, .inUse)])
    (fun seq s => done seq { s.modDrover (fun d => { d with graphs := tdel d.graphs g }) with
      deferred := s.deferred.filter fun x => !effectOn g x }) s

/-! ### Arming (R51, R53, R174, R175, R193, R194, R497, R534) -/

/-- The arming mode a code names (Table 4.10). -/
def armMode : Nat → ArmMode
  | 0 => .everyTick | 1 => .everyNth | 2 => .once | 3 => .onFrameStart | _ => .onTether

/-- The operands of GRAPH_ARM. -/
def armSpec (e : Entry) : ArmSpec :=
  { mode := armMode (efld e 18 1), ring := if efld e 19 1 = 0xFF then none else some (efld e 19 1), n := efld e 20 2,
    phase := efld e 22 2, lane := efld e 24 1, context := efld e 25 1, tether := efld e 26 2, startStc := efld e 28 4 }

/-- Operand rules of GRAPH_ARM: operands that a mode does not use are zero (R141, R194). -/
def armParams (e : Entry) : List (Bool × Status) :=
  let a := armSpec e
  let m := efld e 18 1
  [badIf (decide (4 < m)), badIf (decide (63 < efld e 19 1) && decide (efld e 19 1 ≠ 0xFF)),
   badIf (if m = 1 then decide (a.n < 2) || decide (a.n ≤ a.phase) else decide (a.n ≠ 0) || decide (a.phase ≠ 0)),
   badIf (if m = 3 then decide (7 < a.lane) || decide (3 < a.context) else decide (a.lane ≠ 0) || decide (a.context ≠ 0)),
   badIf (decide (m ≠ 4) && decide (a.tether ≠ 0))]

/-- The checks of GRAPH_ARM that need its graph. -/
def armChecks (e : Entry) (s : State) (gr : Graph) : List (Bool × Status) :=
  let a := armSpec e
  let n := efld e 16 1
  let f := foreseen s
  let ahead := (a.startStc + 2 ^ 32 - s.tick.stc.toNat) % 2 ^ 32
  let armed := match f.graph (graphOf e) with | some x => x.isArmed | none => false
  [badIf (if gr.system then decide (ahead = 0) || decide (2 ^ 31 ≤ ahead) else decide (a.startStc ≠ 0)),
   badIf (a.ring.isNone && gr.nodes.any fun x => decide (x.kind = .resultOut)),
   (armed, .badState), (decide (16 ≤ (f.drover.graphs.filter fun p => p.2.isArmed).length), .badState),
   (match a.ring with | some m => (s.resultRing n m).isNone | none => false, .notFound),
   (decide (a.mode = .onTether) && !inside (a.tether, 1) ((f.contract n).tetherFirst, (f.contract n).tetherCount),
    .outsidePartition),
   (decide (openUs (srcSoon s) (prmSoon s) < critPath f n gr (stretchNow s)), .exceedsWindow)]

/-- GRAPH_ARM: at the next opening, or for a SYSTEM graph at the opening of its START_STC (R497). -/
def execGraphArm (t : Instant) (r : RingRef) (e : Entry) (s : State) : Host.Outcome State Fault Refusal :=
  let g := graphOf e
  graphCommand 0x0503 t r e
    (fun s => [layout e [(16, 16)], noGraph s e, (decide (s.tick.state = .lost), .badState)] ++ armParams e ++
      match s.graph g with | some gr => armChecks e s gr | none => [])
    (fun seq s =>
      match s.graph g with
      | some gr =>
        deferredOk seq (if gr.system then defer (.systemArm g) (s.modGraph g fun x => { x with systemArm := some (armSpec e) })
          else defer (.arm g (armSpec e)) s)
      | none => done seq s) s

/-- An arm of a graph is pending. -/
def armPending (s : State) (g : Nat) : Bool :=
  (s.deferred.any fun d => match d with | .arm k _ => decide (k = g) | _ => false) ||
    match s.graph g with | some x => x.systemArm.isSome | none => false

/-- A disarm of a graph is pending. -/
def disarmPending (s : State) (g : Nat) : Bool :=
  s.deferred.any fun d => match d with | .disarm k => decide (k = g) | _ => false

/-- GRAPH_DISARM: cancels a pending arm, or disarms at the next opening (R175). -/
def execGraphDisarm (t : Instant) (r : RingRef) (e : Entry) (s : State) : Host.Outcome State Fault Refusal :=
  let g := graphOf e
  graphCommand 0x0504 t r e
    (fun s => [layout e [(16, 2)], noGraph s e,
      ((match (foreseen s).graph g with | some x => !x.isArmed | none => false), .badState)])
    (fun seq s =>
      if armPending s g then
        done seq ({ s with deferred := s.deferred.filter fun d =>
            match d with | .arm k _ | .systemArm k => decide (k ≠ g) | _ => true }.modGraph
          g fun x => { x with systemArm := none })
      else deferredOk seq (defer (.disarm g) s)) s

/-! ### Parameters (R209, R210) -/

/-- The parameter block of a graph once every pending GRAPH_PARAM_SET has taken place (R148). -/
def paramSoon (s : State) (g : Nat) (gr : Graph) : List Byte :=
  s.deferred.foldl (fun b d => match d with | .param k o x => if k = g then patch b o x else b | _ => b) gr.param

/-- Bodies that a parameter write changes, with their nodes. -/
def changedBodies (gr : Graph) (param : List Byte) (o n : Nat) : List (Node × List Byte) :=
  (gr.nodes.filter fun x => x.overlays.any fun v => overlap (v.param, v.len) (o, n)).map fun x => (x, latch param x)

/-- GRAPH_PARAM_SET (R209, R210). -/
def execGraphParamSet (t : Instant) (r : RingRef) (e : Entry) (s : State) : Host.Outcome State Fault Refusal :=
  let g := graphOf e
  let o := efld e 18 2
  let n := efld e 20 1
  let d := ebytes e 24 (min n 40)
  graphCommand 0x0505 t r e
    (fun s => [layout e [(16, 5), (24, 40)], noGraph s e, badIf (decide (n = 0) || decide (40 < n)),
      badIf (!zeros (ebytes e 24 40) n (40 - n))] ++
      match s.graph g with
      | some gr =>
        if gr.param.length < o + n then [badIf true]
        else
          let bs := changedBodies gr (patch (paramSoon s g gr) o d) o n
          [badIf (!bs.all fun b => bodyOk s b.1 b.2 gr.blob),
           (!bs.all fun b => bodyInside s (efld e 16 1) b.1 b.2 gr.blob, .outsidePartition)]
      | none => [])
    (fun seq s => deferredOk seq (defer (.param g o d) s)) s

/-- GRAPH_STATUS: zeros for a graph that has had no instance (R172). -/
def execGraphStatus (t : Instant) (r : RingRef) (e : Entry) (s : State) : Host.Outcome State Fault Refusal :=
  let g := graphOf e
  graphCommand 0x0506 t r e (fun s => [layout e [(16, 2)], noGraph s e])
    (fun seq s =>
      match s.graph g with
      | some x =>
        let l := match x.latest with | some q => (q.1.code, q.2.toNat) | none => (0, 0)
        finish seq .ok (resultBytes [(20, l.1), (22, b2n x.arm.isSome + 2 * b2n (armPending s g) + 4 * b2n (disarmPending s g)),
          (24, l.2)]) s
      | none => done seq s) s

/-! ### FRAME_ABORT (R498 to R500) -/

/-- FRAME_ABORT: the active instance ends as an aborted one, and SYSTEM also sends an ABORT. -/
def execFrameAbort (t : Instant) (r : RingRef) (e : Entry) (s : State) : Host.Outcome State Fault Refusal :=
  let g := graphOf e
  let system := decide (efld e 18 1 = 1)
  graphCommand 0x0507 t r e
    (fun s => [layout e [(16, 3)], noGraph s e, badIf (decide (1 < efld e 18 1)),
      (match s.graph g with | some x => badIf (system && !x.system) | none => badIf false),
      (decide (s.tick.state ≠ .running) || ((s.graph g).isSome && (s.inst g).isNone), .badState)])
    (fun seq s =>
      match s.inst g with
      | some inst =>
        let s := abortInst g s
        done seq (if system then sendAbort g 0 inst.stc s else s)
      | none => done seq s) s

/-! ### Tethers (R178, R211 to R213) -/

/-- TETHER_SIGNAL: in OPEN it adds, and waits and triggers follow in the same cycle (R178, R213). -/
def execTetherSignal (t : Instant) (r : RingRef) (e : Entry) (s : State) : Host.Outcome State Fault Refusal :=
  let n := efld e 16 2
  command 0x0901 t r e
    (fun s => [layout e [(16, 4)], badIf (decide (511 < n)), badIf (decide (efld e 18 2 = 0)),
      (!(decide (s.tick.state = .running) && match s.tick.window with | some w => decide (s.now < w.td) | none => false),
       .badState)])
    (fun seq s => done seq (settleTethers [n] (tetherAdd n (efld e 18 2) s))) s

/-- TETHER_READ (Table 4.13). -/
def execTetherRead (t : Instant) (r : RingRef) (e : Entry) (s : State) : Host.Outcome State Fault Refusal :=
  let n := efld e 16 2
  command 0x0902 t r e (fun _ => [layout e [(16, 2)], badIf (decide (511 < n))])
    (fun seq s => finish seq .ok (resultBytes [(20, (s.tether n).count), (22, (s.tether n).target)]) s) s

end Sys2Proof.Machine
end

