-- ==== Sys2Proof/Machine/LinkRows.lean ====
section
/-!
DEFINITION. P-link rows (13): training, link frames, acknowledgement and retry, DOWN, recalibration, aborts, rerouting;
and the command PLINK_CONTROL (Table 4.12).
-/
namespace Sys2Proof.Machine

/-! ### States (R464 to R467) -/

/-- Counters of a port. -/
def countLink (p : Nat) (f : LinkCounts → LinkCounts) (s : State) : State :=
  s.modLink p fun l => { l with counts := f l.counts }

/-- A training attempt begins. -/
def startTraining (p : Nat) (s : State) : State :=
  emit (.link p (.train s.boot.waitPlink)) (s.modLink p fun l =>
    { l with state := .training, since := s.now, retryAt := none, tenantOk := false,
             failedOnce := if l.state = .disabled then false else l.failedOnce })

/-- A port is DISABLED: it carries nothing, what it held for replay included (Table 13.1). -/
def disablePort (p : Nat) (s : State) : State :=
  s.modLink p fun l =>
    { l with state := .disabled, since := s.now, retryAt := none, tenantOk := false, replay := [], attempting := none,
             failed := 0 }

/-- A port comes UP with fresh sequence spaces, an empty replay buffer and full credits (R465, R466). -/
def linkUp (p chip delay : Nat) (s : State) : State :=
  let differs := match (s.routes s.fabric.epoch).links[p]? with | some e => decide (e.neighbour ≠ chip) | none => false
  postAll clsLink 0x101 (detail [(0, p), (2, chip), (6, b2n differs), (16, delay % 65536)])
    (s.modLink p fun l =>
      { PLink.reset with state := .up, since := s.now, tenantOk := noWindows s, neighbour := chip, delay := delay,
                         progressAt := s.now, lastRx := s.now, lastTx := s.now, lastStc := l.lastStc, counts := l.counts })

/-- Requests whose destination leaves the device through a port, in the version their EPOCH names (R482). -/
def requestsBy (s : State) (p : Nat) : List Nat :=
  (s.fabric.reqs.filter fun q => q.2.waiting.any fun c =>
    decide ((s.routes q.2.pkt.epoch).route.getD c 0xFF = p + 1)).map (·.1)

/-! ### Rerouting (R504) -/

/-- The device is the tick master. -/
def isMaster (s : State) : Bool := decide (s.tick.source ≠ .plink)

/-- Axis of a port: 0 for E and W, 1 for N and S. -/
def axisOf (p : Nat) : Nat := if p % 2 = 1 then 0 else 1

/-- Position of a chip on the ring of an axis, and the other coordinate, which names the ring. -/
def ringPos (axis c : Nat) : Nat × Nat := if axis = 0 then (c % 4, c / 4) else (c / 4, c % 4)

/-- Size of a ring. -/
def ringSize (s : State) (axis : Nat) : Nat := if axis = 0 then s.boot.config.ringX else s.boot.config.ringY

/-- The step of its ring that a link of a chip is: step k joins positions k and k + 1. -/
def linkStep (s : State) (chip p : Nat) : Nat :=
  let n := ringSize s (axisOf p)
  let k := (ringPos (axisOf p) chip).1
  if p = 1 ∨ p = 2 then k else (k + n - 1) % n

/-- Steps a route from this chip crosses on its first ring, leaving by port p towards a chip. -/
def routeSteps (s : State) (p c : Nat) : List Nat :=
  let n := ringSize s (axisOf p)
  let me := (ringPos (axisOf p) s.chip).1
  let dst := (ringPos (axisOf p) c).1
  if p = 1 ∨ p = 2 then (List.range ((dst + n - me) % n)).map fun i => (me + i) % n
  else (List.range ((me + n - dst) % n)).map fun i => (me + n - 1 - i) % n

/-- The table of this device after the loss of a link: routes that crossed it go the other way around the ring, or are
NONE, and the dead link is disabled (R504). -/
def reroutedTable (s : State) (chip p : Nat) : Routes :=
  let r := s.routes s.fabric.epoch
  let a := axisOf p
  let same := decide ((ringPos a chip).2 = (ringPos a s.chip).2)
  let step := linkStep s chip p
  let move := fun c : Nat =>
    let e := r.route.getD c 0xFF
    if same ∧ 1 ≤ e ∧ e ≤ 4 ∧ axisOf (e - 1) = a ∧ (routeSteps s (e - 1) c).contains step then
      let o := (e - 1 + 2) % 4
      if Config.ringClosed a ∧ (r.links.getD o { enabled := false, wrap := false, neighbour := 0 }).enabled then o + 1 else 0xFF
    else e
  let dead := if chip = s.chip then some p
    else if same ∧ linkStep s s.chip ((p + 2) % 4) = step then some ((p + 2) % 4) else none
  { r with route := (List.range 16).map move,
           links := match dead with | some k => lmod r.links k fun l => { l with enabled := false } | none => r.links }

/-- The master begins a reroute: its own table goes into the version not in force, and it names a switch STC four ticks
ahead. -/
def beginReroute (chip p : Nat) (s : State) : State :=
  if s.boot.config.autoReroute && isMaster s && decide (s.tick.state = .running) && s.reroute.isNone then
    let v := 1 - s.fabric.epoch
    let r := reroutedTable s chip p
    let q : Reroute := { port := p, version := v, switchStc := some (s.tick.stc + 4), confirmed := [], misses := 0, master := true }
    { s.modFabric (fun f => { f with versions := f.versions.set v r }) with reroute := some q }
  else s

/-- Every other device has confirmed. -/
def allConfirmed (s : State) (r : Reroute) : Bool := decide (s.boot.config.devices ≤ r.confirmed.length + 1)

/-- In the maintenance slot before the switch, a missing confirmation puts the switch off four ticks; at the third miss
the reroute fails and no device switches. -/
def rerouteSlot (s : State) : State :=
  match s.reroute with
  | some r =>
    (match r.switchStc with
     | some k =>
       if r.master && decide (s.tick.stc + 1 = k) && !allConfirmed s r then
         if 2 ≤ r.misses then
           postAll clsLink 0x105 (BitVec.ofNat 64 r.port) { s with reroute := none }
         else { s with reroute := some { r with misses := r.misses + 1, switchStc := some (k + 4) } }
       else s
     | none => s)
  | none => s

/-- At t_f of the window with the switch STC every device switches, and the master posts REROUTE_DONE. -/
def rerouteSwitch (s : State) : State :=
  match s.reroute with
  | some r =>
    if r.switchStc = some s.tick.stc then
      let s := applyEpoch ({ s with reroute := none }.modFabric fun f => { f with switch := some r.version })
      if r.master then postAll clsLink 0x104 (detail [(0, r.version), (16, s.tick.stc.toNat)]) s else s
    else s
  | none => s

/-! ### DOWN (R480 to R482, R502) -/

/-- A port in UP goes DOWN. -/
def goDown (p : Nat) (cause : DownCause) (s : State) : State :=
  if (s.plink p).state ≠ .up then s
  else
    let keys := requestsBy s p
    let s := s.modLink p fun l =>
      { l with state := .down, since := s.now, tenantOk := false, failedOnce := false, retryAt := none, replay := [],
               attempting := none, failed := 0,
               counts := { l.counts with downs := l.counts.downs + 1, downDiscards := l.counts.downDiscards + l.replay.length } }
    let s := emit (.link p (.linkDown cause)) s
    let s := raiseAlert alertPlink (postAll clsLink 0x102 (detail [(0, p), (2, cause.code), (16, keys.length)]) s)
    beginReroute s.chip p (abortSystem (keys.foldl (fun s k => endRequest k .lost s) s))

/-- PLINK_CONTROL (R467). -/
def execPlinkControl (t : Instant) (r : RingRef) (e : Entry) (s : State) : Host.Outcome State Fault Refusal :=
  let p := efld e 16 1
  let a := efld e 17 1
  command 0x0803 t r e
    (fun s => [layout e [(16, 2)], badIf (decide (3 < p)), badIf (decide (2 < a)),
      (decide (a = 0) && decide ((s.plink p).state ≠ .disabled), .badState),
      (decide (a = 2) && decide ((s.plink p).state ≠ .up), .badState)])
    (fun seq s => done seq (if a = 0 then startTraining p s else if a = 1 then disablePort p s else goDown p .commanded s)) s

/-- PLINK_TRAINING_END (R465, R466). -/
def execPlinkTrainingEnd (t : Instant) (port : Fin 4) (result : TrainResult) (s : State) : Host.Outcome State Fault Refusal :=
  event t (fun s =>
    let l := s.plink port
    if l.state = .training ∧ l.retryAt = none then
      match result with
      | .up chip delay => linkUp port chip delay s
      | .failed step =>
        let s := countLink port (fun c => { c with trainFails := c.trainFails + 1 }) s
        let s := if l.failedOnce then s else postAll clsLink 0x103 (detail [(0, port), (2, step)]) s
        s.modLink port fun l => { l with failedOnce := true, retryAt := some (s.now + 100000000) }
    else s) s

/-- TRAIN_RETRY_TIMER: a failed attempt repeats after 100 ms (R465). -/
def execTrainRetryTimer (t : Instant) (port : Fin 4) (s : State) : Host.Outcome State Fault Refusal :=
  event t (fun s =>
    let l := s.plink port
    if l.state = .training ∧ l.retryAt.any (fun r => decide (r ≤ s.now)) = true then startTraining port s
    else s) s

/-- DOWN_HOLD_END: LINK_DOWN blocks for 1 µs, then TRAINING (Table 13.1). -/
def execDownHoldEnd (t : Instant) (port : Fin 4) (s : State) : Host.Outcome State Fault Refusal :=
  event t (fun s =>
    let l := s.plink port
    if l.state = .down ∧ l.since + 1000 ≤ s.now then startTraining port s else s) s

/-! ### Frames received (R472 to R474, R448) -/

/-- Whether a packet's key may enter by a gateway (R448). -/
def keyMayEnter (s : State) (g : Nat) (p : Packet) : Bool :=
  if p.key = 0 then decide (chipOf p.src = (s.plink g).neighbour) else (s.routes p.epoch).keys.getLsbD p.key

/-- A packet comes to a gateway's mesh input port, or to its gate service, or to the Drover if it is an ABORT; the copy of
a multicast that goes on stays at the input port (R444, R448, R499). -/
def ingress (g : Nat) (p : Packet) (s : State) : State :=
  let r := gatewayRouter g
  let back := fun s : State => s.modLink g fun l => { l with returns := lmod l.returns p.vc (· + p.flits) }
  if p.malformed portUsed then countFabric (fun c => { c with malformed := c.malformed + 1 }) (back s)
  else if !keyMayEnter s g p then
    let s := countFabric (fun c => { c with keyRefusedRx := c.keyRefusedRx + 1 }) (back s)
    if p.isRequest then nack r 7 0x0A p s else s
  else if p.op = 0x04 then putPacket (.endpoint r 7) (some g) p (back s)
  else if p.mcast then
    let own := if p.axis = 0 then s.chip % 4 else s.chip / 4
    let s := if bit p.mask own then putPacket (.endpoint r 7) (some g) p s else s
    if maskedBeyond s p = [] then back s else putPacket (.buffer r g p.vc) (some g) p s
  else if chipOf p.dest = s.chip ∧ p.isRequest ∧ p.mode = 1 then putPacket (.endpoint r 7) (some g) p (back s)
  else putPacket (.buffer r g p.vc) (some g) p s

/-- LINK_FRAME_RECEIVED (R472 to R474). -/
def execLinkFrameReceived (t : Instant) (port : Fin 4) (seq : BitVec 12) (h0 h1 : BitVec 64) (rest : List Byte)
    (whole : Bool) (s : State) : Host.Outcome State Fault Refusal :=
  event t (fun s =>
    let l := s.plink port
    if l.state ≠ .up then s
    else if !whole then countLink port (fun c => { c with badFrames := c.badFrames + 1 }) s
    else
      let d := (seq.toNat + 4096 - l.rxExpected) % 4096
      if d = 0 then
        let p : Packet := { h0 := h0, h1 := h1, rest := rest }
        let s := s.modLink port fun l =>
          { l with rxExpected := (l.rxExpected + 1) % 4096, sinceCtl := l.sinceCtl + 1,
                   counts := { l.counts with framesDelivered := l.counts.framesDelivered + 1 } }
        let s := tallyIngress port h0 h1 (p.isData || decide (p.op = 0x01)) p.key s
        let s := ingress port p s
        if 64 ≤ (s.plink port).sinceCtl then sendCtl port false false s else s
      else if d ≤ 2047 then
        if l.lastNak.all (fun n => decide (n + 1000 ≤ s.now)) then
          sendCtl port true false (s.modLink port fun l => { l with lastNak := some s.now })
        else s
      else sendCtl port false false s) s

/-- FEC_CODEWORD: symbols corrected, or a codeword that cannot be corrected (R470). -/
def execFecCodeword (t : Instant) (port : Fin 4) (symbols : Option (Fin 5)) (s : State) : Host.Outcome State Fault Refusal :=
  event t (fun s =>
    if (s.plink port).state = .disabled then s
    else match symbols with
      | some n => countLink port (fun c => { c with fecCorrected := c.fecCorrected + n.val }) s
      | none => countLink port (fun c => { c with fecLost := c.fecLost + 1 }) s) s

/-! ### Acknowledgement and retry (R474 to R480) -/

/-- A replay attempt: the attempt before it failed if its oldest packet is still held; the eighth failure in a row takes
the port DOWN (R476, R480). -/
def replayAttempt (p : Nat) (s : State) : State :=
  let l := s.plink p
  match l.replay with
  | [] => s
  | (n, _) :: _ =>
    let failed := if l.attempting = some n then l.failed + 1 else 0
    if 8 ≤ failed then goDown p .retries s
    else
      let s := s.modLink p fun l =>
        { l with failed := failed, attempting := some n, progressAt := s.now,
                 counts := { l.counts with attempts := l.counts.attempts + 1,
                                           framesSent := l.counts.framesSent + l.replay.length } }
      l.replay.foldl (fun s q => emit (.link p (.frame q.1 q.2)) s) s

/-- An acknowledgement of a held packet releases it and every older one (R474). -/
def takeAck (p n : Nat) (s : State) : State :=
  if (s.plink p).replay.any fun q => decide (q.1 = n) then
    s.modLink p fun l =>
      { l with replay := (l.replay.dropWhile fun q => decide (q.1 ≠ n)).drop 1, progressAt := s.now, failed := 0,
               attempting := none }
  else s

/-- A NAK names the packet after ACK_SEQ, which is the oldest held once the acknowledgement has been taken (R473,
R476, R479). -/
def takeNak (p n : Nat) (s : State) : State :=
  match (s.plink p).replay with
  | (k, _) :: _ => if k = (n + 1) % 4096 then replayAttempt p s else s
  | [] => s

/-- LINK_CTL_RECEIVED (Table 13.2, R474, R476, R478, R479). -/
def execLinkCtlReceived (t : Instant) (port : Fin 4) (fields : BitVec 56) (s : State) : Host.Outcome State Fault Refusal :=
  event t (fun s =>
    if (s.plink port).state ≠ .up then s
    else
      let f := fields.toNat
      let s := s.modLink port fun l =>
        { l with lastRx := s.now, rxExpected := if bit f 46 then 0 else l.rxExpected,
                 credits := (List.range 4).map fun v => min 129 (l.credits.getD v 0 + bits f (21 + 8 * v) (14 + 8 * v)) }
      let s := if bit f 13 then takeAck port (bits f 11 0) s else s
      if bit f 12 then takeNak port (bits f 11 0) s else s) s

/-- REPLAY_TIMER: 4 µs without acknowledgement progress (R476). -/
def execReplayTimer (t : Instant) (port : Fin 4) (s : State) : Host.Outcome State Fault Refusal :=
  event t (fun s =>
    let l := s.plink port
    if l.state = .up ∧ l.replay ≠ [] ∧ l.progressAt + 4000 ≤ s.now then replayAttempt port s else s) s

/-- ACK_TIMER: a LINK_CTL at least every 1 µs (R474). -/
def execAckTimer (t : Instant) (port : Fin 4) (s : State) : Host.Outcome State Fault Refusal :=
  event t (fun s =>
    let l := s.plink port
    if l.state = .up ∧ l.lastTx + 1000 ≤ s.now then sendCtl port false false s else s) s

/-- NO_ACK_TIMEOUT: 50 µs with no valid LINK_CTL (R480). -/
def execNoAckTimeout (t : Instant) (port : Fin 4) (s : State) : Host.Outcome State Fault Refusal :=
  event t (fun s =>
    let l := s.plink port
    if l.state = .up ∧ l.lastRx + 50000 ≤ s.now then goDown port .noAck s else s) s

/-- FEC_LOCK_LOST: FEC lock has been lost for 1 µs (R480). -/
def execFecLockLost (t : Instant) (port : Fin 4) (s : State) : Host.Outcome State Fault Refusal :=
  event t (goDown port .fecLost) s

/-- PARTNER_BLOCK_RECEIVED: LINK_DOWN or TRAIN takes the port DOWN (R480); a block of reserved type is discarded and
counted (R469). -/
def execPartnerBlockReceived (t : Instant) (port : Fin 4) (blockType : BitVec 8) (s : State) :
    Host.Outcome State Fault Refusal :=
  event t (fun s =>
    if (s.plink port).state = .disabled then s
    else if blockType = 0x78 ∨ blockType = 0x66 then goDown port .partner s
    else if [0x1E, 0x33, 0x4B, 0x55, 0x87].contains blockType.toNat then s
    else countLink port (fun c => { c with badBlocks := c.badBlocks + 1 }) s) s

/-! ### Recalibration (R468) -/

/-- A port is in a recalibration step. -/
def recalibrating (s : State) (p : Nat) : Bool :=
  match (s.plink p).recal with | some r => decide (s.now < r + 1000) | none => false

/-- A recalibration step of one UP port begins. -/
def recalStep (p : Nat) (s : State) : State :=
  if (s.plink p).state = .up then emit (.link p .recal) (s.modLink p fun l => { l with recal := some s.now }) else s

/-- The steps of a maintenance slot: E and W in windows with an even STC, N and S with an odd one. -/
def recalSlot (s : State) : State :=
  (if s.tick.stc.getLsbD 0 then [0, 2] else [1, 3]).foldl (fun s p => recalStep p s) s

/-- RECAL_BLOCK_RECEIVED: outside a step of its own, the port joins the partner's step and counts it. -/
def execRecalBlockReceived (t : Instant) (port : Fin 4) (s : State) : Host.Outcome State Fault Refusal :=
  event t (fun s =>
    if (s.plink port).state = .up ∧ recalibrating s port = false then
      recalStep port (countLink port (fun c => { c with recalJoined := c.recalJoined + 1 }) s)
    else s) s

/-- IDLE_RECAL_TIMER: while no window opens, the end with the lower chip ID starts a step every 10 ms. -/
def execIdleRecalTimer (t : Instant) (s : State) : Host.Outcome State Fault Refusal :=
  event t (fun s =>
    if noWindows s then
      [0, 1, 2, 3].foldl (fun s p =>
        let l := s.plink p
        if s.chip < l.neighbour ∧ (l.recal.all fun r => decide (r + 10000000 ≤ s.now)) then recalStep p s else s) s
    else s) s

/-! ### Aborts (R499 to R501) -/

/-- The SYSTEM graph with an active instance that an ABORT names. -/
def abortTarget (s : State) (key slot : Nat) (stc : BitVec 32) : Option Nat :=
  match keyTenant s key with
  | none => none
  | some n =>
    let g := graphKey n slot
    match s.graph g, s.inst g with
    | some gr, some inst => if gr.system ∧ inst.stc = stc then some g else none
    | _, _ => none

/-- ABORT_RECEIVED: the oldest ABORT that came in by a port. -/
def execAbortReceived (t : Instant) (port : Fin 4) (s : State) : Host.Outcome State Fault Refusal :=
  event t (fun s =>
    match firstAt s (.endpoint (gatewayRouter port) 7) fun p => decide (p.op = 0x04) with
    | none => s
    | some (k, f) =>
      let w := f.pkt.h1
      let slot := hbits w 7 0
      let stc := BitVec.ofNat 32 (hbits w 63 32)
      let r := floodAbort f.pkt.key slot (hbits w 15 8) (hbits w 23 16) stc (some (port.val, f.pkt))
        (spoilGateRows f.pkt.key (removePacket k s))
      if r.2 then
        match abortTarget r.1 f.pkt.key slot stc with
        | some g => postAborted g (hbits w 15 8) (hbits w 23 16) true stc (abortInst g r.1)
        | none => countLink port (fun c => { c with abortsIdle := c.abortsIdle + 1 }) r.1
      else r.1) s

/-! ### Firmware messages (R504, R505) -/

/-- FW_MSG_RECEIVED: a message from the neighbour reaches the fabric manager, which runs while Acrega is READY. -/
def execFwMsgReceived (t : Instant) (port : Fin 4) (msg : FwMessage) (s : State) : Host.Outcome State Fault Refusal :=
  event t (fun s =>
    if (s.plink port).state ≠ .up ∨ s.fw.state ≠ .ready then s
    else match msg with
      | .linkLost chip p => beginReroute chip p s
      | .newTable d =>
        let v := 1 - s.fabric.epoch
        if routesOk s.chip (fit 192 d) then
          let q : Reroute := { port := port, version := v, switchStc := none, confirmed := [], misses := 0, master := false }
          { s.modFabric (fun f => { f with versions := f.versions.set v (parseRoutes (fit 192 d)) }) with reroute := some q }
        else s
      | .confirm chip =>
        (match s.reroute with
         | some r => if r.master ∧ !r.confirmed.contains chip.val then
             { s with reroute := some { r with confirmed := chip.val :: r.confirmed } } else s
         | none => s)
      | .switchAt stc =>
        (match s.reroute with
         | some r => if r.master then s else { s with reroute := some { r with switchStc := some stc } }
         | none => s)
      | .pushEnded => postAll clsLink 0x107 (BitVec.ofNat 64 port.val) s
      | .pushRejected => postAll clsLink 0x108 (BitVec.ofNat 64 port.val) s) s

/-! ### Flush (R479) -/

/-- An UP port of those that a test picks empties its replay buffer, sends FLUSH and starts its numbering at 0. -/
def flushLinksIf (test : PLink → Bool) (s : State) : State :=
  [0, 1, 2, 3].foldl (fun s p =>
    let l := s.plink p
    if l.state = .up ∧ test l = true then
      sendCtl p false true (countFabric (fun c => { c with quiesced := c.quiesced + l.replay.length })
        (s.modLink p fun l => { l with replay := [], txSeq := 0, attempting := none, failed := 0 }))
    else s) s

/-- At t_f every UP port flushes. -/
def flushLinks (s : State) : State := flushLinksIf (fun _ => true) s

/-- At an opening no packet is in flight on a P-link (R54): a port that still holds one flushes (assumption log 74). -/
def clearLinks (s : State) : State := flushLinksIf (fun l => decide (l.replay ≠ [])) s

end Sys2Proof.Machine
end

