-- ==== Sys2Proof/Machine/CameraRows.lean ====
section
/-!
DEFINITION. Camera packets, frame records, FSYNC and sensor transfers (07), and the commands of group 0x06 (Table
4.11).
-/
namespace Sys2Proof.Machine

/-! ### Packets -/

/-- CSI_FRAME_START (R272, R276). -/
def execCsiFrameStart (t : Instant) (port : Fin 8) (vc : Fin 32) (number : BitVec 16) (hdr : HeaderCheck) (s : State) :
    Host.Outcome State Fault Refusal :=
  event t (withHeader port vc hdr (frameStart port vc number hdr)) s

/-- A payload whose CRC does not match is counted (R270). -/
def checkPayload (port : Nat) (crcOk : Bool) (s : State) : State :=
  let s := countPort port (fun c => { c with longPackets := c.longPackets + 1 }) s
  if crcOk then s else portError port (fun c => { c with crcErrors := c.crcErrors + 1 }) s

/-- A packet for contexts of a port: to those whose frame takes packets; one of a frame that opened nothing is discarded with
it (R276); else it is counted as unmatched or as without a frame (Table 7.9). -/
def toFrames (port : Nat) (ks : List Nat) (f : Nat → State → State) (s : State) : State :=
  if ks = [] then portError port (fun c => { c with unmatched := c.unmatched + 1 }) s
  else
    let live := ks.filter fun k => !(s.ctx k).discarding && match (s.ctx k).frame with | some g => g.takes | none => false
    if live = [] then if ks.any (fun k => (s.ctx k).discarding) then s else portError port (fun c => { c with noFrame := c.noFrame + 1 }) s
    else live.foldl (fun s k => f k s) s

/-- CSI_LONG_PACKET: a line of a stream (R268, R270, R279 to R293). -/
def execCsiLongPacket (t : Instant) (port : Fin 8) (vc : Fin 32) (dt : BitVec 6) (data : List Byte) (hdr : HeaderCheck)
    (crcOk : Bool) (s : State) : Host.Outcome State Fault Refusal :=
  event t (withHeader port vc hdr fun s =>
    let s := checkPayload port crcOk s
    if !dtAccepted dt.toNat then portError port (fun c => { c with unsupported := c.unsupported + 1 }) s
    else
      let ks := (boundTo s port vc).filter fun k =>
        match (s.ctx k).binding with | some b => decide (b.dtype = dt.toNat) | none => false
      toFrames port ks (fun k s => takeLine k data crcOk s) (countCorrected hdr ks s)) s

/-- CSI_EMBEDDED_DATA (R270, R294). -/
def execCsiEmbeddedData (t : Instant) (port : Fin 8) (vc : Fin 32) (data : List Byte) (hdr : HeaderCheck) (crcOk : Bool)
    (s : State) : Host.Outcome State Fault Refusal :=
  event t (withHeader port vc hdr fun s =>
    let ks := boundTo s port vc
    toFrames port ks (fun k s => takeEmbedded k data
        (modFrame k (fun f => { f with damaged := f.damaged || !crcOk }) s))
      (countCorrected hdr ks (checkPayload port crcOk s))) s

/-- CSI_SHORT_PACKET: line start and line end are accepted; generic short packets are discarded and counted (R268). -/
def execCsiShortPacket (t : Instant) (port : Fin 8) (vc : Fin 32) (dt : BitVec 6) (hdr : HeaderCheck) (s : State) :
    Host.Outcome State Fault Refusal :=
  event t (withHeader port vc hdr fun s =>
    if 0x08 ≤ dt.toNat ∧ dt.toNat ≤ 0x0F then portError port (fun c => { c with unsupported := c.unsupported + 1 }) s
    else countCorrected hdr (boundTo s port vc) s) s

/-- The frames that opened nothing end at the frame-end packet too. -/
def endDiscards (ks : List Nat) (s : State) : State :=
  ks.foldl (fun s k => s.modCtx k fun c => { c with discarding := false }) s

/-- CSI_FRAME_END (R277, R279). -/
def execCsiFrameEnd (t : Instant) (port : Fin 8) (vc : Fin 32) (hdr : HeaderCheck) (s : State) :
    Host.Outcome State Fault Refusal :=
  event t (withHeader port vc hdr fun s =>
    let ks := boundTo s port vc
    endDiscards ks (toFrames port ks frameEnd (countCorrected hdr ks s))) s

/-- FRAME_RECORD_WRITE: once the rows of an ended frame are written, those sent as packets acknowledged, and outside the time
in which lanes write nothing (R278, R295). -/
def execFrameRecordWrite (t : Instant) (lane : Fin 8) (context : Fin 4) (s : State) : Host.Outcome State Fault Refusal :=
  event t (fun s =>
    let k := 4 * lane.val + context.val
    match (s.ctx k).frame, s.tick.window with
    | some f, some w => if f.ended.isSome ∧ f.drained s.now ∧ rowsOut s k = [] ∧ s.now < w.tg then writeRecord k s else s
    | _, _ => s) s

/-- LANE_INPUT_TIMEOUT (R298). -/
def execLaneInputTimeout (t : Instant) (g : GraphRef) (node : Nat) (s : State) : Host.Outcome State Fault Refusal :=
  event t (fun s =>
    let key := refKey g
    match s.inst key with
    | none => s
    | some inst =>
      match (inst.run node).phase with
      | .running since =>
        if (s.node key node).kind = .laneInput ∧ since + nodeBound s (s.node key node) ≤ s.now then
          let b := (inst.run node).body
          let k := 4 * bf b 64 1 + bf b 65 1
          if (s.ctx k).opened then endLaneInput key node .late (cutFrame k 1 s)
          else endLaneInput key node .absent (s.modLane (k / 4) fun l => { l with absent := l.absent + 1 })
        else s
      | _ => s) s

/-- PORT_QUIET_END (R266). -/
def execPortQuietEnd (t : Instant) (port : Fin 8) (s : State) : Host.Outcome State Fault Refusal :=
  event t (fun s => s.modPort port fun p =>
    if p.quietUntil.all fun q => decide (q ≤ s.now) then { p with quietUntil := none } else p) s

/-! ### FSYNC (R303, R304) -/

/-- The level an FSYNC output has now. -/
def fsyncLevel (s : State) (f : Fsync) : Bool :=
  match s.tick.window with
  | some w => f.enabled && !f.skipped && decide (s.tick.tickno.toNat % f.divider = 0) &&
      decide (w.t0 + 1000 * f.offset ≤ s.now) && decide (s.now < w.t0 + 1000 * (f.offset + f.width))
  | none => false

/-- An FSYNC output driven to a level. -/
def driveFsync (k : Nat) (level : Bool) (s : State) : State :=
  if (s.fsyncOut k).level = level then s
  else emit (.pin (.fsync k) level) (s.modFsync k fun f => { f with level := level })

/-- FSYNC_EDGE (R303). -/
def execFsyncEdge (t : Instant) (output : Fin 8) (s : State) : Host.Outcome State Fault Refusal :=
  event t (fun s => driveFsync output (fsyncLevel s (s.fsyncOut output)) s) s

/-- At a window opening: outputs whose pulse would end after t_d drive none, posted once (R304). -/
def openFsync (s : State) : State :=
  (List.range 8).foldl (fun s k =>
    let f := s.fsyncOut k
    let skip := f.enabled && decide (s.tick.tickno.toNat % f.divider = 0) &&
      decide (s.win.td < s.win.t0 + 1000 * (f.offset + f.width))
    let s := if skip && !f.skipPosted then postAll clsCamera 6 (BitVec.ofNat 64 k) s else s
    s.modFsync k fun f => { f with skipped := skip, skipPosted := f.skipPosted || skip }) s

/-! ### Sensor transfers (R305 to R308) -/

/-- Length of the record at an offset of a transfer buffer, padded to a multiple of 4 B (Table 7.7). -/
def xferLen (b : List Byte) (o : Nat) : Nat :=
  4 * ceilDiv (4 + fld b (o + 1) 1 + (if fld b o 1 = 2 then fld b (o + 2) 2 else 0)) 4

/-- The records of a transfer buffer are valid (Table 7.7). -/
def xferOk (b : List Byte) : Nat → Nat → Bool
  | 0, _ => false
  | n + 1, o =>
    decide (o + 4 ≤ b.length) &&
    match fld b o 1 with
    | 0 => zeros b (o + 1) 3 && decide (b.length = o + 4)
    | 1 => decide (1 ≤ fld b (o + 1) 1) && zeros b (o + 2) 2 && xferOk b n (o + xferLen b o)
    | 2 => decide (1 ≤ fld b (o + 1) 1) && decide (fld b (o + 1) 1 ≤ 4) && decide (1 ≤ fld b (o + 2) 2) &&
        decide (fld b (o + 2) 2 ≤ 256) && xferOk b n (o + xferLen b o)
    | _ => false

/-- A transfer ends: its controller may take the next (R306). -/
def xferEnd (k : Nat) (ok : Bool) (s : State) : State :=
  s.modI2c k fun c => { c with current := none, ended := s.now, done := c.done + b2n ok, failed := c.failed + b2n !ok }

/-- XFER_FAILED with the offset of the record that failed: the one carried out last, or that of a write-back (R308). -/
def xferFail (k cause : Nat) (at_ : Option Nat) (s : State) : State :=
  match (s.i2cCtl k).current with
  | none => s
  | some (x, o, reads) =>
    let o := at_.elim o fun i => (reads[i]?.map (·.record)).getD o
    postTenant x.tenant clsCamera 5 (detail [(0, k), (16, x.cmdId.toNat), (32, cause), (40, o)]) (xferEnd k false s)

/-- The record at an offset goes out as one transaction; at END the bytes read are written back and XFER_DONE is posted
(R307). -/
def xferNext (k : Nat) (x : Transfer) (o : Nat) (reads : List XferRead) (s : State) : State :=
  let s := s.modI2c k fun c => { c with current := some (x, o, reads) }
  if fld x.buf o 1 = 0 then
    let s := reads.foldl (fun s r => hostWrite x.fn (x.bufAddr + BitVec.ofNat 64 r.place) r.data s) s
    postTenant x.tenant clsCamera 4 (detail [(0, k), (16, x.cmdId.toNat)]) (xferEnd k true s)
  else
    let n := fld x.buf (o + 1) 1
    emit (.i2c k x.addr (slice x.buf (o + 4) n) (if fld x.buf o 1 = 2 then fld x.buf (o + 2) 2 else 0)) s

/-- At a window opening the transfer at the head of each idle controller's queue gets its instant: its effect and the end of
the one before it lie at or before the opening (R306). -/
def openXfers (s : State) : State :=
  { s with i2c := s.i2c.map fun c =>
      match c.queue, c.current with
      | x :: l, none =>
        if x.startAt.isNone && (x.effect.any fun e => decide (e ≤ s.win.t0)) && decide (c.ended ≤ s.win.t0) then
          { c with queue := { x with startAt := some (s.win.t0 + 1000 * x.offset) } :: l }
        else c
      | _, _ => c }

/-- SENSOR_XFER_START (R306, R307). -/
def execSensorXferStart (t : Instant) (controller : Fin 8) (s : State) : Host.Outcome State Fault Refusal :=
  event t (fun s =>
    let c := s.i2cCtl controller
    match c.queue, c.current with
    | x :: l, none =>
      if x.startAt.any (· ≤ s.now) then
        xferNext controller x 0 [] (s.modI2c controller fun c => { c with queue := l })
      else s
    | _, _ => s) s

/-- I2C_TRANSACTION_END (R307, R308). -/
def execI2cTransactionEnd (t : Instant) (controller : Fin 8) (result : I2cResult) (s : State) :
    Host.Outcome State Fault Refusal :=
  event t (fun s =>
    match (s.i2cCtl controller).current with
    | none => s
    | some (x, o, reads) =>
      let reads' := fun (d : List Byte) =>
        if fld x.buf o 1 = 2 then reads ++ [{ record := o, place := o + 4 + fld x.buf (o + 1) 1, data := fit (fld x.buf (o + 2) 2) d }] else reads
      let o' := o + xferLen x.buf o
      match result with
      | .done d => xferNext controller x o' (reads' d) s
      | .addressNak => xferFail controller 0 none s
      | .dataNak => xferFail controller 1 none s
      | .busStuck => xferFail controller 3 none s
      | .writeBackFailed d which =>
        if fld x.buf o' 1 = 0 ∧ reads' d ≠ [] then
          xferFail controller 4 (some (min which ((reads' d).length - 1)))
            (s.modI2c controller fun c => { c with current := some (x, o, reads' d) })
        else xferNext controller x o' (reads' d) s) s

/-- I2C_STRETCH_TIMEOUT (R308). -/
def execI2cStretchTimeout (t : Instant) (controller : Fin 8) (s : State) : Host.Outcome State Fault Refusal :=
  event t (xferFail controller 2 none) s

/-! ### Commands (Table 4.11) -/

/-- PORT_CONFIG (R266). -/
def execPortConfig (t : Instant) (r : RingRef) (e : Entry) (s : State) : Host.Outcome State Fault Refusal :=
  let p := efld e 16 1
  let phy := efld e 17 1
  let w := efld e 18 1
  command 0x0601 t r e
    (fun s => [layout e [(16, 3), (20, 4)], badIf (decide (7 < p)), badIf (decide (1 < phy)),
      badIf (!(if phy = 0 then [1, 2, 4] else [1, 2, 3]).contains w),
      badIf (decide (efld e 20 4 < 80) || decide (4500 < efld e 20 4)),
      (s.ctxs.any (fun c => c.bindingSoon.any fun b => decide (b.port = p)), .inUse)])
    (fun seq s => done seq (s.modPort p fun x =>
      { x with enabled := true, cphy := decide (phy = 1), width := w, rate := efld e 20 4,
               quietUntil := some (s.now + 10000) })) s

/-- LANE_BIND (R271, R272). -/
def execLaneBind (t : Instant) (r : RingRef) (e : Entry) (s : State) : Host.Outcome State Fault Refusal :=
  let k := 4 * efld e 17 1 + efld e 18 1
  let un := decide (efld e 22 1 = 1)
  let b : Binding := { tenant := efld e 16 1, port := efld e 19 1, vc := efld e 20 1, dtype := efld e 21 1 }
  command 0x0602 t r e
    (fun s => [layout e (if un then [(16, 3), (22, 1)] else [(16, 7)]), badTenant e, badIf (decide (7 < efld e 17 1)),
      badIf (decide (3 < efld e 18 1)), badIf (decide (1 < efld e 22 1)),
      badIf (!un && (decide (7 < b.port) || decide (15 < b.vc) || !dtBindable b.dtype)),
      (!un && (List.range 32).any (fun j => decide (j ≠ k) && (s.ctx j).bindingSoon.any fun c =>
        decide (c.port = b.port) && decide (c.vc = b.vc) && decide (c.dtype = b.dtype)), .inUse)])
    (fun seq s => deferredOk seq (s.modCtx k fun c =>
      { c with pending := c.pending ++ [if un then .unbind else .bind b] })) s

/-- The checks LANE_CONTEXT_SET makes on its image, for a binding (R275). -/
def contextChecks (s : State) (tenant : Nat) (b : Option Binding) (img : List Byte) : List (Bool × Status) :=
  match b with
  | none => []
  | some b =>
    let ranges := (frameRanges b.dtype img).map fun q => (512 * q.1, 512 * q.2)
    let f := foreseen s
    let ok := contextImageOk b.dtype img
    [(!ok, .badImage),
     (ok && decide (tenant < 4) && ranges.any (fun q => !inLoft q.1 q.2 || !inContract (f.contract tenant) q),
      .outsidePartition),
     (ok && decide (tenant < 4) && ranges.any (fun q =>
       overlap (q.1 / 512, q.2 / 512) (f.contract tenant).carafe ||
         f.loft.regions.any fun p => overlap (q.1 / 512, q.2 / 512) (p.2.first, p.2.count)), .inUse)]

/-- LANE_CONTEXT_SET (R275). -/
def execLaneContextSet (t : Instant) (r : RingRef) (e : Entry) (buf : Option (List Byte)) (s : State) :
    Host.Outcome State Fault Refusal :=
  let k := 4 * efld e 17 1 + efld e 18 1
  let img := fit 8704 (buf.getD [])
  bufCommand 0x0603 t r e
    (fun s => [layout e [(16, 3), (24, 12)], badTenant e, badIf (decide (7 < efld e 17 1)),
      badIf (decide (3 < efld e 18 1)), badIf (decide (efld e 32 4 ≠ 8704)),
      (!(s.ctx k).bindingSoon.any fun b => decide (b.tenant = efld e 16 1), .badState)] ++ bufChecks e 16384)
    (fun s => match buf with
      | none => [(true, .hostDmaError)]
      | some _ => contextChecks s (efld e 16 1) (s.ctx k).bindingSoon img)
    (fun seq s => deferredOk seq (s.modCtx k fun c => { c with pending := c.pending ++ [.params img] })) s

/-- FSYNC_SET (R304). -/
def execFsyncSet (t : Instant) (r : RingRef) (e : Entry) (s : State) : Host.Outcome State Fault Refusal :=
  let on := decide (efld e 17 1 = 1)
  let off := efld e 20 4
  let width := efld e 24 4
  command 0x0604 t r e
    (fun s => [layout e (if on then [(16, 2), (20, 10)] else [(16, 2)]), badIf (decide (7 < efld e 16 1)),
      badIf (decide (1 < efld e 17 1)),
      badIf (on && (decide (width < 1) || decide (10000 < width) || decide (efld e 28 2 = 0) ||
        decide (openUs s.tick.source s.tick.prm < off + width) || decide (openUs (srcSoon s) (prmSoon s) < off + width)))])
    (fun seq s => deferredOk seq (defer (.fsync (efld e 16 1) on off width (efld e 28 2)) s)) s

/-- Transfers a controller holds that have not ended. -/
def xfersHeld (s : State) (k : Nat) : Nat :=
  (s.i2cCtl k).queue.length + b2n (s.i2cCtl k).current.isSome +
    (s.deferred.filter fun d => match d with | .xfer c _ => decide (c = k) | _ => false).length

/-- SENSOR_XFER (R306). -/
def execSensorXfer (t : Instant) (r : RingRef) (e : Entry) (buf : Option (List Byte)) (s : State) :
    Host.Outcome State Fault Refusal :=
  let k := efld e 17 1
  let d := fit (efld e 32 4) (buf.getD [])
  bufCommand 0x0605 t r e
    (fun s => [layout e [(16, 8), (24, 12)], badTenant e, badIf (decide (7 < k)), badIf (decide (2 < efld e 18 1)),
      badIf (decide (127 < efld e 19 1)), badIf (decide (openUs s.tick.source s.tick.prm ≤ efld e 20 4) || decide (openUs (srcSoon s) (prmSoon s) ≤ efld e 20 4)),
      (decide (s.tick.state ≠ .running), .badState), (decide (16 ≤ xfersHeld s k), .noResource)] ++
      bufChecks e 4096)
    (fun _ => match buf with
      | none => [(true, .hostDmaError)]
      | some _ => [badIf (!xferOk d 1025 0)])
    (fun seq s => deferredOk seq (defer (.xfer k
      { tenant := efld e 16 1, fn := r.fn, cmdId := BitVec.ofNat 16 (efld e 4 2), mode := efld e 18 1, addr := efld e 19 1,
        offset := efld e 20 4, bufAddr := bufAddr e, buf := d, effect := none, startAt := none }) s)) s

end Sys2Proof.Machine
end

