-- ==== Sys2Proof/Machine/LoftRows.lean ====
section
/-!
DEFINITION. Rows of the Loft (06): the BAR2 window, refill and map-out, patrol scrub, tests of suspect rows.
-/
namespace Sys2Proof.Machine

/-! ### The BAR2 window (R79 to R82, R262, R263) -/

/-- The rows of a BAR2 read go to their stalls in class HOST, each an access of its own; one outside the contract reads as
zeros (R80, R223, R262). -/
def openBar2 (k fn : Nat) (flaws : List (Nat × Flips)) (rows : List Nat) (s : State) : State :=
  rows.foldl (fun s row =>
    if bar2Reaches s fn row then
      offer { cls := .host, client := 7, row := row, write := none, what := .bar2 k, since := s.now, lost := 0, seen := false }
        (flipsOf flaws row) s
    else takeBar2 k row (List.replicate 512 0, false) s) s

/-- BAR2_READ (R79 to R81, R253, R262, R263, R595). `flaws` lists the soft errors that the read of a row finds. -/
def execBar2Read (t : Instant) (fn : Fin 4) (offset : BitVec 29) (len : Nat) (flaws : List (Nat × Flips)) (s : State) :
    Host.Outcome State Fault Refusal :=
  hostRow t (fun s =>
    if s.inStandby then emit (.reply fn (List.replicate len 0) false) s
    else
      let rows := rowsOfRange offset.toNat len
      let s := if rows.all (bar2Reaches s fn) then s else s.modFn fn fun x => { x with bar2Outside := inc32 x.bar2Outside }
      let k := s.loft.nextRead
      let h : HeldRead := { fn := fn, offset := offset.toNat, len := len, got := [] }
      openBar2 k fn flaws rows (s.modLoft fun l => { l with held := tset l.held k h, nextRead := k + 1 })) s

/-! ### Refill and map-out (R254 to R256) -/

/-- The region a refill works for, while its rows are still to be kept equal to the backing copy. -/
def refillRegion (s : State) (row : Nat) (f : Refill) : Option Region :=
  match tget s.loft.regions f.region with
  | some r =>
    if inside (row, 1) (r.first, r.count) ∧ (r.state = .loaded ∨ r.state = .failed) then some r else none
  | none => none

/-- A refill ends: accesses that waited for its row have lost the cycles of the wait. -/
def dropRefill (row : Nat) (s : State) : State :=
  let s := match tget s.loft.refills row with | some f => refillLost row f.since s | none => s
  s.modLoft fun l => { l with refills := tdel l.refills row }

/-- The next free spare of the row's stall takes the row, or the region fails (R255, R256). -/
def tryMapOut (row region : Nat) (s : State) : State :=
  match freeSpare s.loft row with
  | some k => s.modLoft fun l => { l with refills := tmod l.refills row fun f => { f with mapping := some k } }
  | none => failRegion row region false (dropRefill row s)

/-- REFILL_END (R254 to R256). `found`: what the checks of the eight backing sectors find. -/
def execRefillEnd (t : Instant) (row : Nat) (found : List SectorCheck) (readBackOk : Bool) (s : State) :
    Host.Outcome State Fault Refusal :=
  event t (fun s =>
    match tget s.loft.refills row with
    | none => s
    | some f =>
      if f.mapping.isSome then s
      else match refillRegion s row f with
        | none => dropRefill row s
        | some r =>
          let q := readSectors (r.backing + 512 * (row - r.first)) 4 8 found s
          if q.2.2 then failRegion row f.region true (dropRefill row q.1)
          else
            let s := recoveryAccess row q.1
            if readBackOk then
              postLoft row 2 (detail [(0, row), (20, f.region)]) (dropRefill row (putRow row q.2.1 s))
            else tryMapOut row f.region (s.modLoft fun l =>
              { l with counts := { l.counts with readBack := l.counts.readBack + 1 } })) s

/-- MAP_OUT_END (R255). A spare that fails its read-back is not used again. -/
def execMapOutEnd (t : Instant) (row : Nat) (ok : Bool) (s : State) : Host.Outcome State Fault Refusal :=
  event t (fun s =>
    match tget s.loft.refills row with
    | none => s
    | some f =>
      match f.mapping with
      | none => s
      | some k =>
        match refillRegion s row f with
        | none => dropRefill row s
        | some r =>
          let s := recoveryAccess row s
          if ok then
            let d := s.dram.mem.read (r.backing + 512 * (row - r.first)) 512
            postLoft row 3 (detail [(0, row), (20, k)]) (dropRefill row (putRow row d (mapRow row k s)))
          else tryMapOut row f.region (s.modLoft fun l =>
            { l with deadSpares := l.deadSpares ++ [64 * stallOf row + k],
                     counts := { l.counts with readBack := l.counts.readBack + 1 } })) s

/-! ### Patrol scrub (R585, R587, R678) -/

/-- Rows of the Loft that scrub reads per tick (R585). -/
def loftQuota : Nat := 787

/-- A scrub may read now: in a window until its quota is met, and while no client waits unless it is promoted; in a tick
that opens no window whenever its unit is idle (R587, R678). The answer tells whether the read is promoted. -/
def scrubTurn (s : State) (done quota : Nat) (idle : Bool) : Option Bool :=
  match s.tick.window with
  | some w =>
    if quota ≤ done then none
    else if w.tg ≤ s.now ∧ s.now < w.te then some true
    else if idle then some false else none
  | none => if idle then some false else none

/-- The stall of a row has nothing to grant but scrub (R228). -/
def stallIdle (s : State) (row : Nat) : Bool :=
  cycleFree s (stallOf row) && (s.loft.waiting.all fun a => decide (stallOf a.row ≠ stallOf row)) &&
    s.loft.tries.all fun p => !p.2.2.contains (stallOf row)

/-- A scrub that could not read has lost a cycle, if its quota is not met (R229). -/
def scrubLost (s : State) : State :=
  if s.tick.window.isSome && decide (loftQuota ≤ s.loft.scrubDone) then s
  else s.modLoft fun l => { l with counts := countLost .scrub 1 l.counts }

/-- LOFT_SCRUB_READ (R228, R253, R585, R678). `flips`: the bits that a soft error has changed in the row. -/
def execLoftScrubRead (t : Instant) (flips : Flips) (s : State) : Host.Outcome State Fault Refusal :=
  event t (fun s =>
    let row := s.loft.scrubNext
    if !s.boot.selfTested || s.inStandby then s
    else if s.loft.refills.any (fun p => decide (stallOf p.1 = stallOf row)) || !cycleFree s (stallOf row) then scrubLost s
    else match scrubTurn s s.loft.scrubDone loftQuota (stallIdle s row) with
      | none => scrubLost s
      | some promoted =>
        let s := spendCycle (stallOf row) s
        let last := decide (row + 1 = loftRows)
        let s := s.modLoft fun l => { l with scrubNext := if last then 0 else row + 1, scrubDone := l.scrubDone + 1 }
        let s := s.modPower fun p => { p with loftScrub := p.loftScrub + 1, loftPromoted := p.loftPromoted + b2n promoted,
                                              passes := p.passes + b2n last }
        detectRows .scrub [row] (damageRow row flips s)) s

/-! ### Suspect rows (R259, R261) -/

/-- One suspect row is tested, in class HOST; `bad` says whether a pattern fails. -/
def testRow (bad : Bool) (row : Nat) (s : State) : State :=
  let s := undefineRows row 1 (passAccess .host row s)
  if bad then
    let s := detect row .test s
    match freeSpare s.loft row with
    | some k => postLoft row 3 (detail [(0, row), (20, k)]) (mapRow row k s)
    | none => badRow row s
  else s

/-- Suspect rows leave the list oldest first until n of them have been tested; rows of a region leave it untested. -/
def testList (failing : List Nat) : Nat → List Nat → State → State
  | _, [], s => s
  | n, row :: l, s =>
    let s' := s.modLoft fun x => { x with suspect := x.suspect.drop 1 }
    if (regionAt s row).isSome then testList failing n l s'
    else match n with
      | 0 => s
      | n + 1 => testList failing n l (testRow (failing.contains row) row s')

/-- The suspect-row tests of a maintenance slot: up to 16 rows, oldest first (R259). -/
def testSuspects (failing : List Nat) (s : State) : State := testList failing 16 s.loft.suspect s

end Sys2Proof.Machine
end

