-- ==== Sys2Proof/Machine/DramRows.lean ====
section
/-!
DEFINITION. Rows of external memory (14): sector reads and writes, patrol scrub, refresh, retraining and training.
-/
namespace Sys2Proof.Machine

/-- DRAM serves accesses: trained, and not in self-refresh (R594, R640). -/
def dramServes (s : State) (x n : Nat) : Bool := s.boot.dramTrained && !s.inStandby && inDram s x n

/-- A movement reads a DRAM address. -/
def moveReads (s : State) (x : Nat) (load : Bool) : Bool :=
  s.moves.any fun m =>
    match m.2 with
    | .memRead a n _ _ => !load && inside (x, 64) (a, n)
    | .residentLoad k => load && (match tget s.loft.regions k with | some g => inside (x, 64) (backing g) | none => false)
    | _ => false

/-- A refill reads a DRAM address. -/
def refillReads (s : State) (x : Nat) : Bool :=
  s.loft.refills.any fun p =>
    match refillRegion s p.1 p.2 with
    | some r => inside (x, 64) (r.backing + 512 * (p.1 - r.first), 512)
    | none => false

/-- The reader is at work. -/
def readerActive (s : State) (x : Nat) (r : DramReader) : Bool :=
  match r with
  | .node n => s.nodeRunning (refKey n.graph) n.node
  | .memRead => moveReads s x false
  | .refill => refillReads s x
  | .residentLoad => moveReads s x true

/-- The code of a reader in DRAM_POISONED (Table 14.2). -/
def readerCode : DramReader → Nat
  | .node _ => 0 | .memRead => 2 | .refill => 4 | .residentLoad => 5

/-- DRAM_SECTOR_READ: one sector read by a reader (Table 14.1); poison marks a node (R517, R555). -/
def execDramSectorRead (t : Instant) (addr : Nat) (found : SectorCheck) (reader : DramReader) (s : State) :
    Host.Outcome State Fault Refusal :=
  event t (fun s =>
    if dramServes s addr 64 && readerActive s addr reader then
      let r := readSector addr found (readerCode reader) false s
      match r.2, reader with
      | none, .node n => markNode (refKey n.graph) n.node 0x04 (detailSector addr) none r.1
      | _, _ => r.1
    else s) s

/-- A client's write reaches a sector: none reaches a check area or the backing range of a region (R241, R514). -/
def clientMayWrite (s : State) (x n : Nat) : Bool := dramServes s x n && !hitsCheck s x n && !hitsBacking s x n

/-- DRAM_FULL_WRITE (R519). -/
def execDramFullWrite (t : Instant) (addr : Nat) (data : List Byte) (s : State) : Host.Outcome State Fault Refusal :=
  event t (fun s => if clientMayWrite s addr 64 then writeSector addr data s else s) s

/-- DRAM_PARTIAL_WRITE (R520): a refused write faults its writer with WRITE_REFUSED_POISON. -/
def execDramPartialWrite (t : Instant) (addr : Nat) (data : List Byte) (found : SectorCheck) (writer : Option NodeRef)
    (s : State) : Host.Outcome State Fault Refusal :=
  event t (fun s =>
    if clientMayWrite s addr data.length then
      let r := partialWrite addr data found s
      match r.2, writer with
      | true, some n => immediateFault (refKey n.graph) n.node 0x08 (detailSector addr) r.1
      | _, _ => r.1
    else s) s

/-! ### Patrol scrub (R524, R586, R587, R678) -/

/-- Rows that DRAM scrub reads per tick (R586). -/
def dramQuota (s : State) : Nat := ceilDiv (eccRows s) 100000

/-- No client access waits at the channel of an address. -/
def channelIdle (s : State) (x : Nat) : Bool :=
  let p := dramPort (channelOf x)
  (firstAt s (.endpoint p.1 p.2) Packet.isRequest).isNone

/-- Sectors read by scrub, one after the other (Table 14.1). -/
def scrubSectors (x : Nat) : Nat → List SectorCheck → State → State
  | 0, _, s => s
  | n + 1, fs, s => scrubSectors (x + 64) n fs.tail (readSector x (fs.headD .clean) 3 true s).1

/-- DRAM_SCRUB_READ (R524, R586). -/
def execDramScrubRead (t : Instant) (found : List SectorCheck) (s : State) : Host.Outcome State Fault Refusal :=
  event t (fun s =>
    let d := eccRows s
    let k := if s.dram.scrubNext < d then s.dram.scrubNext else 0
    let x := eccRowAddr s k
    if d = 0 ∨ dramServes s x 512 = false then s
    else match scrubTurn s s.dram.scrubDone (dramQuota s) (channelIdle s x && channelIdle s (x + 256)) with
      | none => s
      | some promoted =>
        let s := s.modDram fun m => { m with scrubNext := if k + 1 = d then 0 else k + 1, scrubDone := m.scrubDone + 1 }
        let s := s.modPower fun p => { p with dramScrub := p.dramScrub + 1, dramPromoted := p.dramPromoted + b2n promoted }
        scrubSectors x 8 found s) s

/-! ### Refresh, retraining, training (R523, R525 to R527) -/

/-- DRAM_REFRESH (R523). -/
def execDramRefresh (t : Instant) (channel : Fin 4) (s : State) : Host.Outcome State Fault Refusal :=
  event t (fun s =>
    if s.boot.dramTrained && !s.inStandby then
      s.modDram fun m => { m with channels := lmod m.channels channel.val fun c =>
        { c with counts := { c.counts with refreshes := c.counts.refreshes + 1 } } }
    else s) s

/-- Channels that drifted begin full training the first time the device is in PAUSED, STOPPED or LOST (R527). -/
def startTrainings (s : State) : State :=
  if s.tick.state = .paused ∨ s.tick.state = .stopped ∨ s.tick.state = .lost then
    s.modDram fun m => { m with channels := m.channels.map fun c =>
      if c.drift ∧ c.training = none then { c with drift := false, training := some s.now } else c }
  else s

/-- One retraining step, on the channel whose turn it is (R526, R527). -/
def retrainStep (drift : Bool) (s : State) : State :=
  let k := s.dram.retrainTurn
  let s := s.modDram fun m =>
    { m with retrainTurn := (k + 1) % 4, retrainAt := s.now, channels := lmod m.channels k fun c =>
      { c with drift := c.drift || drift, counts := { c.counts with retrains := c.counts.retrains + 1 } } }
  startTrainings (if drift then postAll clsMemory 0x105 (BitVec.ofNat 64 k) s else s)

/-- IDLE_RETRAIN_TIMER: every 10 ms while no window opens (R526). -/
def execIdleRetrainTimer (t : Instant) (drift : Bool) (s : State) : Host.Outcome State Fault Refusal :=
  event t (fun s =>
    if s.boot.dramTrained && !s.inStandby && noWindows s && s.tick.window.isNone &&
        decide (s.dram.retrainAt + 10000000 ≤ s.now) then
      retrainStep drift s
    else s) s

/-- DRAM_FULL_TRAINING_END (R527). -/
def execDramFullTrainingEnd (t : Instant) (channel : Fin 4) (s : State) : Host.Outcome State Fault Refusal :=
  event t (fun s =>
    match (s.dram.channels.getD channel.val .reset).training with
    | none => s
    | some since =>
      postAll clsMemory 0x106 (detail [(0, channel.val), (16, (s.now - since) / 1000 % 65536)])
        (s.modDram fun m => { m with channels := lmod m.channels channel.val fun c =>
          { c with training := none, counts := { c.counts with trainings := c.counts.trainings + 1 } } })) s

end Sys2Proof.Machine
end

