-- ==== Sys2Proof/Machine/PowerRows.lean ====
section
/-!
DEFINITION. Power states and heat (17).
-/
namespace Sys2Proof.Machine

/-! ### Temperature -/

/-- The hottest of two readings with their sensors; the first where they are equal. -/
def hotter (a b : Int × Nat) : Int × Nat := if a.1 < b.1 then b else a

/-- The hottest reading of a sample, with its sensor (R597). -/
def hottestOf (l : List Int) : Int × Nat :=
  (l.zipIdx.drop 1).foldl hotter (l.headD 0, 0)

/-- The hottest reading since the previous evaluation, else of the latest sample (R598). -/
def Power.hot (p : Power) : Int × Nat := p.hottest.getD (hottestOf p.sensors)

/-- Threshold of a level in 1/16 °C (Table 17.3). -/
def threshold (g : Grade) (level : Nat) : Int :=
  16 * (90 + 5 * (level : Int) + (match g with | .ilh2400 => 0 | .ilh2400x => 10))

/-- The level after an evaluation: up to the highest level reached, down by at most one step (R598). -/
def nextLevel (g : Grade) (level : Nat) (t : Int) : Nat :=
  let reached := if threshold g 3 ≤ t then 3 else if threshold g 2 ≤ t then 2 else if threshold g 1 ≤ t then 1 else 0
  if level < reached then reached
  else if 0 < level ∧ t < threshold g level - 80 then level - 1 else level

/-- An evaluation of the thermal level (R598, R599, Table 17.4). -/
def evaluateHeat (s : State) : State :=
  let hot := s.power.hot
  let old := s.power.level
  let new := nextLevel s.part.grade old hot.1
  let s := s.modPower fun p => { p with level := new, evaluated := s.now, hottest := none }
  let s := if new = old then s
    else postAll clsPower 1 (detail [(0, new), (2, old), (16, tc 16 hot.1), (32, hot.2)]) s
  if 1 ≤ new then raiseAlert alertThermal s else s

/-- The evaluation at a window opening, whose T_max telemetry shows (Table 17.5). -/
def openingHeat (s : State) : State :=
  let t := s.power.hot.1
  evaluateHeat (s.modPower fun p => { p with tmax := t })

/-- Heat skips the window that opens: SKIP_HALF those with an odd TICKNO, SKIP_ALL every one (Table 17.3). -/
def heatSkips (s : State) : Bool :=
  decide (s.power.level = 3) || (decide (s.power.level = 2) && decide (s.tick.tickno.toNat % 2 = 1))

/-- A sample of the eight sensors (R597). -/
def takeSample (readings : List Int) (s : State) : State :=
  let l := (List.range 8).map fun k => readings.getD k 0
  let h := hottestOf l
  s.modPower fun p =>
    { p with sensors := l, highest := max p.highest h.1,
             hottest := some (match p.hottest with | some x => hotter x h | none => h) }

/-- The always-on block samples its sensors, whatever else runs (R597, R601). -/
def execThermalSample (t : Instant) (readings : List Int) (s : State) : Host.Outcome State Fault Refusal :=
  let s := advance t s
  .next (if s.pins.pwrgdAon then takeSample readings s else s)

/-- 1 ms after the previous evaluation, in states in which no window opens (R598). -/
def execThermalEvaluation (t : Instant) (s : State) : Host.Outcome State Fault Refusal :=
  event t (fun s => if noWindows s = true ∧ s.power.evaluated + 1000000 ≤ s.now then evaluateHeat s else s) s

/-- Pins of both Halter units at their stop levels (R601). -/
def haltPins (s : State) : State := drivePins 1 false false true (drivePins 0 false false true s)

/-- Every P-link transmitter at electrical idle (R601). -/
def idleLinks (s : State) : State := [0, 1, 2, 3].foldl (fun s p => emit (.link p .idle) s) s

/-- A sensor reaches 125 °C: THERMTRIP_N falls, clocks stop, the Halter pins go to their stop levels, the transmitters
idle (R601). -/
def execThermtrip (t : Instant) (s : State) : Host.Outcome State Fault Refusal :=
  let s := advance t s
  .next (if s.pins.pwrgdAon = true ∧ s.pins.thermtrip = false then
    idleLinks (haltPins (emit (.pin .thermtripN false) { s with pins := { s.pins with thermtrip := true } }))
  else s)

/-! ### Power states -/

/-- The power state changes and POWER_STATE is posted (Table 17.4). -/
def setPower (p : PowerState) (s : State) : State :=
  let old := s.power.state
  postAll clsPower 2 (detail [(0, p.code), (8, old.code)]) (s.modPower fun x =>
    { x with state := p, decafEntries := if p = .decaf then x.decafEntries + 1 else x.decafEntries })

/-- A pending clock change takes effect (R591). -/
def changeClocks (s : State) : State :=
  match s.power.pending with
  | some (p, _) => setPower p (s.modPower fun x => { x with pending := none })
  | none => s

/-- In the maintenance slot, a clock change accepted before t_m takes effect (R591). -/
def slotClocks (s : State) : State :=
  match s.power.pending with
  | some (_, a) => if a < s.win.tm then changeClocks s else s
  | none => s

/-- A camera port is disabled. -/
def disableCamera (p : Nat) (s : State) : State := s.modPort p fun x => { x with enabled := false, quietUntil := none }

/-- An FSYNC output is disabled; its level falls (R303). -/
def disableFsync (k : Nat) (s : State) : State := driveFsync k false (s.modFsync k fun f => { f with enabled := false })

/-- What entry to a Standby state disables (R594). -/
def standbyOff (s : State) : State :=
  let s := [0, 1, 2, 3].foldl (fun s p => disablePort p s) s
  let s := (List.range 8).foldl (fun s k => disableFsync k (disableCamera k s)) s
  [0, 1].foldl (fun s u => disableHalter u false s) s

/-- STANDBY loses the Loft: rows undefined, regions DEFINED, no suspect; the spare-row map is kept (R594), and a row that
failed stays detected until it is loaded again (R256). -/
def loseLoft (s : State) : State :=
  (undefineRows 0 loftRows s).modLoft fun l =>
    { l with suspect := [], regions := tmap l.regions fun _ r => { r with state := .defined } }

/-- Full training of every channel, on leaving a Standby state (R596). -/
def trainAll (s : State) : State :=
  s.modDram fun d => { d with channels := d.channels.map fun c =>
    { c with counts := { c.counts with trainings := c.counts.trainings + 1 } } }

/-- Entry to or exit from a Standby state ends, and the command completes (R594, R596). Acrega carries it out, so it does not
end while Acrega has stopped or restarts (R128, R131). -/
def execPowerStateChangeEnd (t : Instant) (s : State) : Host.Outcome State Fault Refusal :=
  event t (fun s =>
    match s.power.job with
    | none => s
    | some j =>
      if s.fw.crashed ∨ s.fw.state ≠ .ready then s
      else
      let s := s.modPower fun x => { x with job := none }
      let s := match j.target with
        | .standbyRetain => standbyOff s
        | .standby => loseLoft (standbyOff s)
        | .active | .decaf => trainAll s
      settle (finish j.cmd .ok 0 (setPower j.target s))) s

end Sys2Proof.Machine
end

