-- ==== Sys2Proof/Machine/BootRows.lean ====
section
/-!
DEFINITION. Power-good, resets, straps, the boot ROM and the start of Acrega (19), and the JTAG port (R673).
-/
namespace Sys2Proof.Machine

/-! ### Pins in reset (R601, R623, R650) -/

/-- The pins of a Halter unit at their reset levels. -/
def resetHalterPins (u : Nat) (s : State) : State := drivePins u false false true s

/-- Pins go to their reset levels, and every P-link transmitter idles (R623, R650). -/
def resetPins (keepAlert : Bool) (s : State) : State :=
  let s := resetHalterPins 1 (resetHalterPins 0 s)
  let s := (List.range 8).foldl (fun s k => driveFsync k false s) s
  let s := if keepAlert then s else setAlerts 0 0 s
  idleLinks s

/-! ### What a reset leaves (Table 19.2) -/

/-- The whole Loft undefined. -/
def lostLoft (stamp : Nat) : Loft := { Loft.reset with mem := Mem.empty.undefine 0 (512 * loftRows) stamp }

/-- External memory undefined, without ECC regions and poison. -/
def lostDram (stamp : Nat) : Dram := { Dram.reset with mem := Mem.empty.undefine dramBase (2 ^ 35) stamp }

/-- External memory kept in self-refresh: contents, poison and ECC regions; the poison list is empty (R522, R627). -/
def keptDram (d : Dram) : Dram := { Dram.reset with mem := d.mem, ecc := d.ecc, poison := d.poison }

/-- The device as every reset but a Function Level Reset leaves it, held in reset: device time 0, every unit at its reset
state, the boot ROM not started; waiting commands of the model, outputs, fuses, pins and the flash stay (R625). -/
def blankDevice (s : State) : State :=
  { State.reset with
    pending := s.pending, out := s.out, draws := s.draws + 2, part := s.part, pins := s.pins, linkUp := false,
    loft := lostLoft s.draws, dram := lostDram (s.draws + 1),
    boot := { Boot.reset with romRunning := false, candidates := [], slots := s.boot.slots,
                              subsysId := s.part.grade.deviceId } }

/-- Power-on reset or PERST_N low. -/
def holdReset (s : State) : State :=
  blankDevice { resetPins false s with pins := { (resetPins false s).pins with perstN := false } }

/-! ### Power-good and PERST_N -/

/-- Power has gone from every rail but VDD_AON, or from that too: THERMTRIP_N is released (R601). -/
def releaseTrip (s : State) : State :=
  if s.pins.thermtrip && (!s.pins.pwrgdAon || (!s.pins.pwrgdCore && !s.pins.pwrgdIo)) then
    emit (.pin .thermtripN true) { s with pins := { s.pins with thermtrip := false } }
  else s

/-- HALTER_SLOW is driven again when VDD_IO18 comes (R652). -/
def slowBack (had : Bool) (s : State) : State :=
  if s.pins.vddIo18 && !had then
    [0, 1].foldl (fun s u => emit (.pin (.halterSlow u) (s.halter u).pinSlow) s) s
  else s

/-- The power-good inputs and VDD_IO18 take new levels: while any input is low the device is held in reset, and it then
waits for PERST_N (R623, R652). -/
def changePower (aon core io vddIo18 : Bool) (s : State) : State :=
  let had := s.pins.vddIo18
  let s := { s with pins := { s.pins with pwrgdAon := aon, pwrgdCore := core, pwrgdIo := io, vddIo18 := vddIo18 } }
  let s := if aon && core && io then s else holdReset s
  slowBack had (releaseTrip s)

/-- A power-good input changes. With TEST_EN high no statement binds the device (R654). -/
def execPowerGoodChange (t : Instant) (aon core io vddIo18 testEn : Bool) (s : State) :
    Host.Outcome State Fault Refusal :=
  if testEn then .fault .testEnabled else .next (changePower aon core io vddIo18 (advance t s))

/-- PERST_N falls (R625, R630). -/
def execPerstNAssert (t : Instant) (s : State) : Host.Outcome State Fault Refusal :=
  let s := advance t s
  .next (if s.pins.perstN then holdReset s else s)

/-- The boot ROM starts: where it looks for a package follows BOOT_SEL (Table 19.3, R505, R635). -/
def startRom (s : State) : State :=
  let sel := s.pins.bootSel
  let flash := decide (sel = 0) || decide (sel = 3)
  let s := { s with boot := { s.boot with
    romRunning := true, candidates := if flash then [0, 1] else [], waitHost := decide (sel = 1),
    waitPlink := decide (sel = 2) } }
  if sel = 2 then [0, 1, 2, 3].foldl (fun s p => startTraining p s) s else s

/-- PERST_N rises with every power-good input high: straps are sampled and the boot ROM starts (R626, R631, R635). -/
def releaseReset (bootSel : BitVec 2) (pcieWidth : Bool) (s : State) : State :=
  if s.pins.pwrgdAon && s.pins.pwrgdCore && s.pins.pwrgdIo && !s.pins.perstN then
    startRom { s with now := 0, pins := { s.pins with perstN := true, bootSel := bootSel, pcieWidth := pcieWidth } }
  else s

/-- PERST_N rises. With TEST_EN high no statement binds the device (R654). -/
def execPerstNRelease (t : Instant) (bootSel : BitVec 2) (pcieWidth testEn : Bool) (s : State) :
    Host.Outcome State Fault Refusal :=
  if testEn then .fault .testEnabled else .next (releaseReset bootSel pcieWidth (advance t s))

/-! ### Warm reset -/

/-- What a warm reset keeps of the host's side: the link, configuration space with Bus Master Enable, the alert
registers, the subsystem IDs, external memory (Table 19.2, R638). -/
def warmReset (bootSel : BitVec 2) (s : State) : State :=
  let s := raiseAlert alertFwDown (resetPins true s)
  let b := blankDevice s
  startRom { b with
    pins := { b.pins with bootSel := bootSel }, dram := keptDram s.dram, linkUp := s.linkUp,
    fns := (List.range 4).map fun f => { Func.reset with busMaster := (s.fn f).busMaster, cfg := (s.fn f).cfg },
    alertStatus := s.alertStatus, alertMask := s.alertMask,
    boot := { b.boot with endpointReady := s.boot.endpointReady, subsysVendor := s.boot.subsysVendor,
                          subsysId := s.boot.subsysId, subsysFixed := s.boot.subsysFixed } }

/-- The warm reset that DEVICE_RESET asked for (R160, R625, R627, R630). -/
def execWarmReset (t : Instant) (bootSel : BitVec 2) (s : State) : Host.Outcome State Fault Refusal :=
  event t (fun s => if s.fw.resetDue then warmReset bootSel s else s) s

/-! ### Self-test and training -/

/-- A failing row gets a passing spare of its stall, or is BAD and reported once READY (R641). -/
def selfTestRow (row : Nat) (s : State) : State :=
  match freeSpare s.loft row with
  | some k => s.modLoft fun l => { l with map := tset l.map row k }
  | none =>
    { s with loft := { s.loft with badRows := s.loft.badRows ++ [row] },
             boot := { s.boot with badRows := s.boot.badRows ++ [row] } }

/-- The Loft self-test ends; spares are named 64 × stall + spare (R641). -/
def execLoftSelfTestEnd (t : Instant) (failingSpares failingRows : List Nat) (s : State) :
    Host.Outcome State Fault Refusal :=
  event t (fun s =>
    if s.fw.state = .booting ∧ s.boot.selfTested = false then
      let s := { s with loft := { s.loft with deadSpares := failingSpares },
                        boot := { s.boot with selfTested := true } }
      undefineRows 0 loftRows (failingRows.foldl (fun s row => selfTestRow row s) s)
    else s) s

/-- Installed DRAM does not match the configuration (R640). -/
def dramMismatch (s : State) : Bool :=
  s.boot.started && s.boot.dramTrained && decide (s.boot.installedGib ≠ s.boot.config.dramGib)

/-- FW_STATE becomes FAILED where the installed DRAM does not match (R640). -/
def checkDram (s : State) : State := if dramMismatch s && decide (s.fw.state = .booting) then setFw .failed s else s

/-- Boot DRAM training ends (R635, R640). -/
def execDramTrainingEnd (t : Instant) (ok : Bool) (gibPerChannel : Nat) (s : State) :
    Host.Outcome State Fault Refusal :=
  event t (fun s =>
    if s.fw.state = .booting ∧ s.boot.dramTrained = false ∧ s.boot.dramFailed = false then
      let s := trainAll { s with boot := { s.boot with
        dramTrained := ok, dramFailed := !ok, installedGib := gibPerChannel } }
      if ok then checkDram s else setFw .failed s
    else s) s

/-! ### Candidates (R635 to R638) -/

/-- Subsystem IDs from the first slot tried whose header CRC and configuration CRC match (R638). -/
def takeSubsystem (d : List Byte) (s : State) : State :=
  let c := configOf (slotPackage d)
  let r := fld c 5 1 % 16
  if !s.boot.subsysFixed && slotHeaderOk d && decide (crcSkip c 60 = fld c 60 4) then
    { s with boot := { s.boot with subsysFixed := true, subsysVendor := BitVec.ofNat 16 (fld c (68 + 64 * r) 2),
                                   subsysId := BitVec.ofNat 16 (fld c (70 + 64 * r) 2) } }
  else s

/-- A package passes every check: its image is copied and Acrega starts, with the configuration of the record of
SELF_CHIP (R634, R635, R439). -/
def startAcrega (p : List Byte) (from_ : Option Nat) (s : State) : State :=
  let cfg := bootConfig (configOf p)
  checkDram { s with
    boot := { s.boot with romRunning := false, started := true, candidates := [], waitHost := false,
                          waitPlink := false, bootedFrom := from_, package := p, config := cfg },
    fw := { s.fw with version := BitVec.ofNat 32 (fld p 68 4), imageVersion := BitVec.ofNat 32 (fld p 68 4) },
    fabric := .reset cfg.chip }

/-- The next candidate after a rejected slot: the other slot, the host, or FAILED (R635). -/
def rejectSlot (k : Nat) (s : State) : State :=
  let s := { s with boot := { s.boot with candidates := s.boot.candidates.filter fun j => decide (j ≠ k) } }
  if s.boot.candidates = [] then
    if s.pins.bootSel = 3 then { s with boot := { s.boot with waitHost := true } } else setFw .failed s
  else s

/-- A slot that is still to be tried and known to be newer goes first (R635). -/
def newerSlot (s : State) (k : Nat) : Bool :=
  s.boot.candidates.any fun j => decide (j ≠ k) && decide (knownSeq s k < knownSeq s j)

/-- A flash slot has been read (R635). -/
def tryFlash (k : Nat) (d : List Byte) (s : State) : State :=
  let s := { s with boot := { s.boot with slots := s.boot.slots.set k (some d) } }
  if !s.boot.candidates.contains k || newerSlot s k then s
  else
    let s := takeSubsystem d s
    if slotHeaderOk d && slotCrcOk d && packageOk s (slotPackage d) then startAcrega (slotPackage d) (some k) s
    else rejectSlot k s

/-- The SQ entry at index 0 of function 0's admin ring has been read by the boot ROM (R636). -/
def takePushEntry (s : State) : State :=
  s.modRing 0 0 fun g => { g with sqHead := 1, tails := g.tails.filter fun t => decide (t.tail ≠ 1) }

/-- A package pushed by the host (R636). -/
def tryHost (p : List Byte) (s : State) : State :=
  let there := match s.ring 0 0 with | some g => decide (0 < g.unfetched) && decide (g.sqHead = 0) | none => false
  if s.boot.waitHost && there then
    let s := takePushEntry s
    if packageOk s p then startAcrega p none s else setFw .failed { s with boot := { s.boot with waitHost := false } }
  else s

/-- A boot candidate has been read: it is checked, and started or rejected (R635 to R638). -/
def execBootCandidateRead (t : Instant) (source : BootSource) (package : List Byte) (s : State) :
    Host.Outcome State Fault Refusal :=
  event t (fun s =>
    if s.boot.romRunning ∧ s.fw.state = .booting then
      match source with
      | .flash k => tryFlash k package s
      | .host => tryHost package s
    else s) s

/-- A neighbour's push ends at a device strapped for P-link boot: its package is started, or the device waits for the
next push (R505, R637). -/
def execBootPush (t : Instant) (port : Fin 4) (package : List Byte) (s : State) : Host.Outcome State Fault Refusal :=
  event t (fun s =>
    if s.boot.romRunning ∧ s.boot.waitPlink = true ∧ (s.plink port).state = .up ∧ packageOk s package = true then
      startAcrega package none s
    else s) s

/-! ### Readiness -/

/-- The endpoint answers configuration requests (R643). -/
def execPcieEndpointReady (t : Instant) (s : State) : Host.Outcome State Fault Refusal :=
  event t (fun s => { s with boot := { s.boot with endpointReady := true } }) s

/-- Q_f and Q_e keep the reset configuration valid (R39, R40). -/
def quiesceOk (qf qe : Nat) : Bool := decide (qf + qe + 5000 ≤ 100000)

/-- Fuse steps are blown until C is the image's SECURITY_VERSION; the number blown before a step that fails is a free
value (R639). -/
def blowFuses (fuseOk : Bool) (s : State) : State × Bool :=
  let c := s.part.rollback
  let v := securityVersion s.boot.package
  if v ≤ c then (s, true)
  else if fuseOk then ({ s with part := { s.part with rollback := v } }, true)
  else (drawn { s with part := { s.part with rollback := c + Config.draw s.draws % (v - c) } }, false)

/-- BAD rows of the self-test are reported (R261, R641). -/
def postBadRows (s : State) : State :=
  let rows := s.boot.badRows
  let s := rows.foldl (fun s row => postAll clsMemory 4 (BitVec.ofNat 64 row) s)
    { s with boot := { s.boot with badRows := [] } }
  if rows = [] then s else raiseAlert alertMem s

/-- Acrega trains the ports its configuration names (Table 19.5). -/
def trainConfigured (s : State) : State :=
  [0, 1, 2, 3].foldl (fun s p =>
    if bit s.boot.config.links p && decide ((s.plink p).state = .disabled) then startTraining p s else s) s

/-- FW_STATE becomes READY: admin rings become READY, then what start-up found is reported (R98, R641, R644). -/
def becomeReady (s : State) : State :=
  let s := [0, 1, 2, 3].foldl (fun s f => adminReady f s) (setFw .ready s)
  trainConfigured (postBadRows s)

/-- Acrega finishes its start-up (R39, R639 to R641, R644). -/
def execAcregaReady (t : Instant) (qf qe : Nat) (fuseOk : Bool) (s : State) : Host.Outcome State Fault Refusal :=
  event t (fun s =>
    if s.fw.state = .booting ∧ s.boot.started = true ∧ s.boot.selfTested = true ∧ s.boot.dramTrained = true then
      let r := blowFuses fuseOk s
      if r.2 then
        becomeReady (if quiesceOk qf qe then r.1.modTick fun t => { t with qf := qf, qe := qe } else r.1)
      else setFw .failed r.1
    else s) s

/-! ### JTAG (R673) -/

/-- The ID code of a grade (R673). -/
def idcode : Grade → BitVec 32
  | .ilh2400 => 0x12400A6B
  | .ilh2400x => 0x12401A6B

/-- EXTEST, CLAMP and HIGHZ act on the pins: only while PERST_N is low (R673). -/
def jtagActs (p : Pins) : Bool :=
  !p.perstN && (decide (p.jtag = .extest) || decide (p.jtag = .clamp) || decide (p.jtag = .highz))

/-- An instruction is loaded into the JTAG port, which needs no clock of the device (R673). -/
def execJtagInstruction (t : Instant) (instr : JtagInstr) (s : State) : Host.Outcome State Fault Refusal :=
  let s := advance t s
  .next { s with pins := { s.pins with jtag := instr,
                                       jtagData := if instr = .idcode then some (idcode s.part.grade) else none } }

end Sys2Proof.Machine
end

