-- ==== Sys2Proof/Machine/DebugRows.lean ====
section
/-!
DEFINITION. The debug commands (R133 to R136, R180, R181).
-/
namespace Sys2Proof.Machine

/-- A unit code of Table 4.3 that names a unit. -/
def unitCode (u : Nat) : Bool :=
  decide (u ≤ 0x07) || (decide (0x10 ≤ u) && decide (u ≤ 0x19)) || (decide (0x20 ≤ u) && decide (u ≤ 0x31)) ||
    (decide (0x40 ≤ u) && decide (u ≤ 0x44))

/-- The version of Acrega, on which the debug spaces may depend (R181). -/
def debugVersion (s : State) : Nat := s.fw.version.toNat

/-- A debug word: what was poked last, else what the unit holds, which the manual does not describe; 0 beyond the
unit's debug space (R181). Under one version a word that no poke has written stays as it is, and a poked word keeps its value
until a reset other than a Function Level Reset (assumption log 82). -/
def debugRead (s : State) (u off : Nat) : BitVec 32 :=
  if Config.debugSpace (debugVersion s) u off then
    (tget s.debug (2 ^ 40 * u + off)).getD (Config.debugWord (debugVersion s) u off)
  else 0

/-- DEBUG_PEEK: one or two words (R136, Table 4.15). Each word's offset meets the debug space by itself; the second word at
OFFSET 0xFFFF_FFFC has offset 2^32 (assumption log 82). -/
def execDebugPeek (t : Instant) (r : RingRef) (e : Entry) (s : State) : Host.Outcome State Fault Refusal :=
  let u := efld e 16 1
  let off := efld e 20 4
  let n := efld e 24 1
  command 0x0C01 t r e
    (fun _ => [layout e [(16, 1), (20, 5)], badIf (!unitCode u), badIf (decide (off % 4 ≠ 0)),
      badIf (decide (n ≠ 1) && decide (n ≠ 2))])
    (fun seq s =>
      let second := if n = 2 then (debugRead s u (off + 4)).toNat else 0
      finish seq .ok (resultBytes [(20, (debugRead s u off).toNat), (24, second)]) s) s

/-- A window is in OPEN. -/
def State.openPhase (s : State) : Bool := s.tick.window.any fun w => decide (s.now < w.td)

/-- A frame is in progress on a context of a lane. -/
def laneBusy (s : State) (lane : Nat) : Bool :=
  (List.range 4).any fun c => match (s.ctx (4 * lane + c)).frame with | some f => f.ended.isNone | none => false

/-- Whether a poke is refused: by target, the conditions of R133, R134 and R135. -/
def pokeBusy (s : State) (u : Nat) : Bool :=
  if u ≤ 0x07 then laneBusy s u
  else if u ≤ 0x41 then s.openPhase || (busyUnits s).contains u
  else
    !(decide (s.tick.state = .stopped) || decide (s.tick.state = .paused) || decide (s.tick.state = .lost)) ||
      (decide (u = 0x44) && decide (s.tally.state = .running))

/-- A masked write of a debug word; beyond the unit's debug space nothing is written (R181). It changes the word it names and
no other state of the unit (assumption log 82). -/
def debugWrite (u off : Nat) (value mask : BitVec 32) (s : State) : State :=
  if Config.debugSpace (debugVersion s) u off then
    { s with debug := tset s.debug (2 ^ 40 * u + off) ((debugRead s u off &&& ~~~mask) ||| (value &&& mask)) }
  else s

/-- DEBUG_POKE: (old AND NOT MASK) OR (VALUE AND MASK) (R133 to R135, R181). -/
def execDebugPoke (t : Instant) (r : RingRef) (e : Entry) (s : State) : Host.Outcome State Fault Refusal :=
  let u := efld e 16 1
  let off := efld e 20 4
  command 0x0C02 t r e
    (fun s => [layout e [(16, 1), (20, 12)], badIf (!unitCode u), badIf (decide (off % 4 ≠ 0)),
      (unitCode u && pokeBusy s u, .engineBusy)])
    (fun seq s =>
      done seq (debugWrite u off (BitVec.ofNat 32 (efld e 24 4)) (BitVec.ofNat 32 (efld e 28 4)) s)) s

end Sys2Proof.Machine
end

