-- ==== Sys2Proof/Machine/DeviceCommands.lean ====
section
/-!
DEFINITION. Acrega commands of groups 0x01 and 0x02: device, rings, firmware, power, contracts (04; 17, 19).
-/
namespace Sys2Proof.Machine

/-! ### Device and rings (Table 4.4) -/

/-- IDENTIFY (R156). -/
def execIdentify (t : Instant) (r : RingRef) (e : Entry) (s : State) : Host.Outcome State Fault Refusal :=
  command 0x0101 t r e (fun _ => [layout e []])
    (fun seq s => finish seq .ok (resultBytes [(20, 4 * s.boot.config.dramGib), (22, s.chip), (23, s.boot.config.devices),
      (24, s.loft.map.length)]) s) s

/-- The ring RING_CREATE makes (R101, Table 4.4). -/
def newRing (e : Entry) : Ring :=
  { sqBase := BitVec.ofNat 64 (efld e 32 8), cqBase := BitVec.ofNat 64 (efld e 40 8), sqLog := efld e 18 1 % 16,
    cqLog := efld e 18 1 / 16, weight := efld e 19 1, vector := efld e 20 1, cqCount := efld e 22 2,
    cqTimeUs := efld e 24 2, sqHead := 0, sqTail := 0, cqHead := 0, cqTail := 0, phase := true, reserved := 0,
    error := false, cause := .none, tails := [], unsignalled := 0, oldest := none, stop := none, closing := false }

/-- A ring that a RING_RESET or RING_DELETE accepted earlier is still at work on: commands on one ring are carried out
one at a time (R106). -/
def ringBusy (s : State) (e : Entry) : Bool :=
  (match s.ring (efld e 16 1) (efld e 17 1) with | some g => g.stop.isSome | none => false) ||
    (s.fn (efld e 16 1)).stops.any fun p => decide (p.1 = efld e 17 1)

/-- RING_CREATE (R101, R106, R157). -/
def execRingCreate (t : Instant) (r : RingRef) (e : Entry) (s : State) : Host.Outcome State Fault Refusal :=
  let f := efld e 16 1
  let k := efld e 17 1
  if ringBusy s e then .next (advance t s)
  else command 0x0102 t r e
    (fun s => [layout e [(16, 5), (22, 4), (32, 16)], badIf (decide (3 < f)), badIf (decide (k = 0)),
      badIf (decide (8 < efld e 18 1 % 16)), badIf (decide (8 < efld e 18 1 / 16)),
      badIf (decide (efld e 19 1 = 0) || decide (16 < efld e 19 1)), badIf (decide (31 < efld e 20 1)),
      badIf (decide (efld e 22 2 = 0) || decide (256 < efld e 22 2)), badIf (decide (1000 < efld e 24 2)),
      badIf (decide (efld e 32 8 % 4096 ≠ 0)), badIf (decide (efld e 40 8 % 4096 ≠ 0)),
      ((s.ring f k).isSome, .badState)])
    (fun seq s => done seq (s.modFn f fun x => { x with rings := tset x.rings k (newRing e) })) s

/-- The checks of RING_RESET and RING_DELETE (R157). -/
def ringStopChecks (r : RingRef) (e : Entry) (s : State) : List (Bool × Status) :=
  [layout e [(16, 2)], badIf (decide (3 < efld e 16 1)), badIf (decide (efld e 17 1 = 0)),
   badIf (decide (efld e 16 1 = r.fn) && decide (efld e 17 1 = r.ring)),
   ((s.ring (efld e 16 1) (efld e 17 1)).isNone, .notFound)]

/-- RING_RESET and RING_DELETE wait for every command accepted from the ring (R157). -/
def ringStop (e : Entry) (delete : Bool) (seq : Nat) (s : State) : State :=
  s.modRing (efld e 16 1) (efld e 17 1) fun g => { g with stop := some { delete := delete, by_ := seq } }

/-- RING_RESET (R157). -/
def execRingReset (t : Instant) (r : RingRef) (e : Entry) (s : State) : Host.Outcome State Fault Refusal :=
  if ringBusy s e then .next (advance t s)
  else command 0x0103 t r e (ringStopChecks r e) (ringStop e false) s

/-- RING_DELETE (R157). -/
def execRingDelete (t : Instant) (r : RingRef) (e : Entry) (s : State) : Host.Outcome State Fault Refusal :=
  if ringBusy s e then .next (advance t s)
  else command 0x0104 t r e (ringStopChecks r e) (ringStop e true) s

/-- ARB_SET: 0 leaves a weight unchanged (R114). -/
def execArbSet (t : Instant) (r : RingRef) (e : Entry) (s : State) : Host.Outcome State Fault Refusal :=
  command 0x0105 t r e
    (fun _ => [layout e [(16, 4)], badIf ([0, 1, 2, 3].any fun f => decide (16 < efld e (16 + f) 1))])
    (fun seq s => done seq ([0, 1, 2, 3].foldl (fun s f =>
      if efld e (16 + f) 1 = 0 then s else s.modFn f fun x => { x with weight := efld e (16 + f) 1 }) s)) s

/-! ### Firmware (R158, R160, R645, R646) -/

/-- The checks FW_UPDATE makes on a buffer that has been read (R645). -/
def packageChecks (s : State) (p : List Byte) : List (Bool × Status) :=
  [badIf (!zeros p 0 64), (!(imageRules p && configOk (configOf p)), .badImage),
   (imageRules p && !signatureOk s p, .authFailed),
   (imageRules p && decide (securityVersion p < s.part.rollback), .rollback)]

/-- The slot that FW_UPDATE writes counts as empty from its acceptance, whatever its checks find (R158). -/
def emptySlot (s : State) : State :=
  { s with boot := { s.boot with slots := s.boot.slots.set (1 - activeSlot s) (some []) } }

/-- FW_UPDATE: the flash is written until FLASH_WRITE_END (R158, R645, R646). One update is carried out at a time. -/
def execFwUpdate (t : Instant) (r : RingRef) (e : Entry) (buf : Option (List Byte)) (s : State) :
    Host.Outcome State Fault Refusal :=
  if s.flash.isSome then .next (advance t s)
  else bufCommandAfter emptySlot 0x0106 t r e
    (fun _ => [layout e [(24, 12)]] ++ bufChecks e (2 ^ 25) ++ [badIf (decide (efld e 32 4 < 5248))])
    (fun s => match buf with
      | some d => packageChecks s (fit (efld e 32 4) d)
      | none => [(true, .hostDmaError)])
    (fun seq s =>
      let j : FlashJob :=
        { cmd := seq, slot := 1 - activeSlot s, seq := nextSeq s, package := fit (efld e 32 4) (buf.getD []) }
      { s with flash := some j }) s

/-- FLASH_WRITE_END: the header is written last (R646). -/
def execFlashWriteEnd (t : Instant) (ok : Bool) (s : State) : Host.Outcome State Fault Refusal :=
  event t (fun s =>
    match s.flash with
    | some j =>
      if s.fw.state = .ready then
        let s := { s with flash := none }
        let slot := slotHeader j.seq j.package ++ j.package.drop 64
        settle (if ok then
          finish j.cmd .ok (resultBytes [(20, j.slot)])
            { s with boot := { s.boot with slots := s.boot.slots.set j.slot (some slot) } }
        else finish j.cmd .flashError 0 s)
      else s
    | none => s) s

/-- FW_RESTART: the restart begins after the CQ entry (R160). -/
def execFwRestart (t : Instant) (r : RingRef) (e : Entry) (s : State) : Host.Outcome State Fault Refusal :=
  command 0x0107 t r e (fun _ => [layout e []])
    (fun seq s => let s := done seq s; { s with fw := { s.fw with restartDue := true } }) s

/-- DEVICE_RESET: the warm reset begins after the CQ entry (R160). -/
def execDeviceReset (t : Instant) (r : RingRef) (e : Entry) (s : State) : Host.Outcome State Fault Refusal :=
  command 0x0109 t r e (fun _ => [layout e [(16, 1)], badIf (decide (efld e 16 1 ≠ 0))])
    (fun seq s => let s := done seq s; { s with fw := { s.fw with resetDue := true } }) s

/-! ### Power states (R159, R591 to R594) -/

/-- The state a TARGET code names (Table 17.2). -/
def powerOf : Nat → PowerState
  | 0 => .active | 1 => .decaf | 2 => .standbyRetain | _ => .standby

/-- Whether POWER_STATE_SET is valid for a target (R159): while an entry to a Standby state or an exit from one is in progress
it is not (assumption log 54). -/
def powerValid (s : State) (p : PowerState) : Bool :=
  if s.power.job.isSome then false
  else match p with
    | .active | .decaf => decide (s.tick.state = .running) ||
        (decide (s.tick.state = .stopped) && (decide (s.power.state = .standby) || decide (s.power.state = .standbyRetain)))
    | .standby | .standbyRetain => decide (s.tick.state = .stopped)

/-- POWER_STATE_SET in RUNNING replaces or cancels the pending clock change (R591); one that names the state in force
completes with OK, with no change pending too (assumption log 54). In STOPPED it starts a change that POWER_STATE_CHANGE_END
completes (R594, R596). -/
def execPowerStateSet (t : Instant) (r : RingRef) (e : Entry) (s : State) : Host.Outcome State Fault Refusal :=
  let p := powerOf (efld e 16 1)
  command 0x0108 t r e
    (fun s => [layout e [(16, 1)], badIf (decide (3 < efld e 16 1)), (!powerValid s p, .badState),
      (decide (p = .decaf) &&
        decide (openUs (srcSoon s) (prmSoon s) < longestArmed (foreseen s) true), .exceedsWindow)])
    (fun seq s =>
      if s.tick.state = .running then
        if s.power.state = p then done seq (s.modPower fun x => { x with pending := none })
        else deferredOk seq (s.modPower fun x => { x with pending := some (p, s.now) })
      else s.modPower fun x => { x with job := some { target := p, cmd := seq } }) s

/-! ### Contracts (Tables 4.5, 4.6; R161 to R166) -/

/-- A unit code a lease may name (Table 4.3). -/
def leasable (u : Nat) : Bool :=
  (decide (0x10 ≤ u) && decide (u ≤ 0x19)) || (decide (0x20 ≤ u) && decide (u ≤ 0x31))

/-- The contract a record spells, with the default Carafe resolved (Table 4.6). -/
def parseContract (d : List Byte) : Contract :=
  let rows := fld d 12 4
  { key := fld d 1 1, tetherFirst := fld d 2 2, tetherCount := fld d 4 2,
    carafe := if rows = 0 then (0, 0) else (fld d 8 4, if rows = 0xFFFFFFFF then 4096 else rows),
    loft := (List.range 4).map fun k => (fld d (16 + 8 * k) 4, fld d (20 + 8 * k) 4),
    dram := (List.range 4).map fun k => (fld d (48 + 16 * k) 8, fld d (56 + 16 * k) 8),
    leases := (List.range 16).map fun k =>
      { unit := fld d (112 + 8 * k) 1, start := fld d (114 + 8 * k) 3, stop := fld d (117 + 8 * k) 3 } }

/-- Two leases on one unit with overlapping intervals. -/
def leaseClash (a b : Lease) : Bool :=
  decide (a.unit = b.unit) && decide (a.unit ≠ 0xFF) && decide (a.start < b.stop) && decide (b.start < a.stop)

/-- The conditions of R162 and Table 4.6; unused entries hold zeros (assumption log 20). -/
def contractOk (s : State) (d : List Byte) : Bool :=
  let c := parseContract d
  let loft := c.loft.filter fun e => decide (e.2 ≠ 0)
  let dram := c.dram.filter fun e => decide (e.2 ≠ 0)
  decide (fld d 0 1 < 4) && decide (c.key ≠ 0) && decide (c.tetherFirst ≤ 511) && decide (c.tetherCount ≤ 512) &&
    decide (c.tetherFirst + c.tetherCount ≤ 512) && zeros d 6 2 && zeros d 240 16 &&
    (decide (fld d 12 4 ≠ 0) || zeros d 8 4) &&
    (decide (c.carafe.2 = 0) || (decide (c.carafe.2 ≤ 32768) && loft.any (inside c.carafe))) &&
    (loft.all fun e => inside e (0, loftRows)) && !anyPair overlap loft &&
    (c.loft.all fun e => decide (e.2 ≠ 0) || decide (e.1 = 0)) &&
    (dram.all fun e => decide (e.1 % 2 ^ 20 = 0) && decide (e.2 % 2 ^ 20 = 0) && inDram s e.1 e.2) &&
    !anyPair overlap dram && (c.dram.all fun e => decide (e.2 ≠ 0) || decide (e.1 = 0)) &&
    ((List.range 16).all fun k =>
      let l := c.leases.getD k { unit := 0xFF, start := 0, stop := 0 }
      zeros d (113 + 8 * k) 1 &&
        if l.unit = 0xFF then decide (l.start = 0) && decide (l.stop = 0)
        else leasable l.unit && decide (l.start < l.stop) && decide (l.stop ≤ 200000) &&
          (decide (l.unit < 0x30) || (decide (l.start = 0) && decide (l.stop = 200000)))) &&
    !anyPair leaseClash c.leases

/-- Two contracts share a Loft row, a DRAM byte, a tether, the KEY or time on a unit (R163). -/
def contractsClash (a b : Contract) : Bool :=
  (a.loft.any fun x => b.loft.any fun y => overlap x y && decide (x.2 ≠ 0) && decide (y.2 ≠ 0)) ||
    (a.dram.any fun x => b.dram.any fun y => overlap x y && decide (x.2 ≠ 0) && decide (y.2 ≠ 0)) ||
    (overlap (a.tetherFirst, a.tetherCount) (b.tetherFirst, b.tetherCount) && decide (a.tetherCount ≠ 0) &&
      decide (b.tetherCount ≠ 0)) || decide (a.key = b.key) ||
    a.leases.any fun x => b.leases.any (leaseClash x)

/-- A contract clashes with one in force or pending of another tenant (R163). -/
def contractConflict (s : State) (tenant : Nat) (c : Contract) : Bool :=
  ((List.range 4).any fun n => decide (n ≠ tenant) && contractsClash c (s.contract n)) ||
    s.deferred.any fun d => match d with | .partition n x => decide (n ≠ tenant) && contractsClash c x | _ => false

/-- A tenant has a graph, a resident region, a gate or a result ring; a pending creation counts, a pending deletion does
not (R164). A GRAPH_LOAD whose image is still being read is no creation yet (assumption log 41). -/
def tenantInUse (s : State) (tenant : Nat) : Bool :=
  (s.drover.graphs.any fun p => decide (tenantOf p.1 = tenant)) || (s.loft.regions.any fun p => decide (p.2.tenant = tenant)) ||
    (s.loft.gates.any fun p => decide (p.2.tenant = tenant)) ||
    (s.deferred.any fun d => match d with | .gateOpen _ g => decide (g.tenant = tenant) | _ => false) ||
    s.egress.rings.any fun p => decide (p.1 / 64 = tenant)

/-- A contract comes into force. -/
def setContract (tenant : Nat) (c : Contract) (s : State) : State := { s with contracts := s.contracts.set tenant c }

/-- PARTITION_SET (R161 to R164). -/
def execPartitionSet (t : Instant) (r : RingRef) (e : Entry) (buf : Option (List Byte)) (s : State) :
    Host.Outcome State Fault Refusal :=
  let d := fit 256 (buf.getD [])
  let n := fld d 0 1
  bufCommand 0x0201 t r e
    (fun _ => [layout e [(24, 12)]] ++ bufChecks e 256 ++ [badIf (decide (efld e 32 4 ≠ 256))])
    (fun s => match buf with
      | none => [(true, .hostDmaError)]
      | some _ => [badIf (!contractOk s d), (decide (n < 4) && tenantInUse s n, .inUse),
                   (contractOk s d && contractConflict s n (parseContract d), .conflict)])
    (fun seq s => deferStar seq (.partition n (parseContract d)) (setContract n (parseContract d)) s) s

/-- The record of a contract (Table 4.6); a default Carafe is written as the 4,096 rows it stands for (assumption log 79). -/
def contractRecord (n : Nat) (c : Contract) : List Byte :=
  fit 256 (le 1 n ++ le 1 c.key ++ le 2 c.tetherFirst ++ le 2 c.tetherCount ++ le 2 0 ++ le 4 c.carafe.1 ++
    le 4 c.carafe.2 ++ (c.loft.flatMap fun x => le 4 x.1 ++ le 4 x.2) ++ (c.dram.flatMap fun x => le 8 x.1 ++ le 8 x.2) ++
    c.leases.flatMap fun l => le 1 l.unit ++ le 1 0 ++ le 3 l.start ++ le 3 l.stop)

/-- PARTITION_GET: the contract in force (Table 4.5). -/
def execPartitionGet (t : Instant) (r : RingRef) (e : Entry) (ok : Bool) (s : State) :
    Host.Outcome State Fault Refusal :=
  let n := efld e 16 1
  command 0x0202 t r e
    (fun _ => [layout e [(16, 1), (24, 12)], badTenant e] ++ bufChecks e 256 ++ [badIf (decide (efld e 32 4 ≠ 256))] ++
      [(!ok, .hostDmaError)])
    (fun seq s => writeBuffer seq r.fn (bufAddr e) (contractRecord n (s.contract n)) ok s) s

/-- PARTITION_RESET (R163, R164, R166). -/
def execPartitionReset (t : Instant) (r : RingRef) (e : Entry) (s : State) : Host.Outcome State Fault Refusal :=
  let n := efld e 16 1
  command 0x0203 t r e
    (fun s => [layout e [(16, 1)], badTenant e, (decide (n < 4) && tenantInUse s n, .inUse),
      (decide (n < 4) && contractConflict s n (.reset n), .conflict)])
    (fun seq s => deferStar seq (.partition n (.reset n)) (setContract n (.reset n)) s) s

end Sys2Proof.Machine
end

