-- ==== Sys2Proof/Machine/HostRows.lean ====
section
/-!
DEFINITION. What the host does through PCI Express (03; R549, R550, R628, R629): doorbells, registers, interrupts,
function level reset, bus mastering, the link; and the fetch of SQ entries.
-/
namespace Sys2Proof.Machine

/-- SQ_TAIL_DOORBELL: bits 31 to 12 are ignored (R91). -/
def execSqTailDoorbell (t : Instant) (r : RingRef) (value : BitVec 32) (whole : Bool) (s : State) :
    Host.Outcome State Fault Refusal :=
  hostRow t (if whole then writeTail r.fn r.ring (bits value.toNat 11 0) else partDoorbell r.fn r.ring) s

/-- CQ_HEAD_DOORBELL (R91, R94). -/
def execCqHeadDoorbell (t : Instant) (r : RingRef) (value : BitVec 32) (whole : Bool) (s : State) :
    Host.Outcome State Fault Refusal :=
  hostRow t (if whole then writeHead r.fn r.ring (bits value.toNat 11 0) else partDoorbell r.fn r.ring) s

/-- RESULT_HEAD_DOORBELL (R532). -/
def execResultHeadDoorbell (t : Instant) (fn : Fin 4) (ring : Fin 64) (value : BitVec 32) (s : State) :
    Host.Outcome State Fault Refusal :=
  hostRow t (writeResultHead fn ring (bits value.toNat 11 0)) s

/-- DEVICE_TIME_LO_READ: a read at the offset of DEVICE_TIME_LO, of 32 bits or more (R137, R138). -/
def execDeviceTimeLoRead (t : Instant) (read : RegisterRead) (s : State) : Host.Outcome State Fault Refusal :=
  hostRow t (fun s =>
    let r := readBar0 read.fn 0x18 read.len s
    emit (.reply read.fn r.2 false) r.1) s

/-- ADMIN_ENABLE (R98). -/
def execAdminEnable (t : Instant) (fn : Fin 4) (s : State) : Host.Outcome State Fault Refusal :=
  hostRow t (enableAdmin fn) s

/-- ADMIN_DISABLE (R100). -/
def execAdminDisable (t : Instant) (fn : Fin 4) (s : State) : Host.Outcome State Fault Refusal :=
  hostRow t (disableAdmin fn) s

/-- INT_CAUSE_CLEAR (Table 3.8). -/
def execIntCauseClear (t : Instant) (fn : Fin 4) (mask : BitVec 32) (s : State) : Host.Outcome State Fault Refusal :=
  hostRow t (writeBar0 fn 0x2004 mask) s

/-- ALERT_STATUS_CLEAR (R127). -/
def execAlertStatusClear (t : Instant) (fn : Fin 4) (mask : BitVec 32) (s : State) : Host.Outcome State Fault Refusal :=
  hostRow t (writeBar0 fn 0x3000 mask) s

/-- REGISTER_WRITE of `len` bytes: a 32-bit aligned write acts; any other access is discarded, and is a bad doorbell write
for every ring with a doorbell that it covers in part (R91, R137). -/
def execRegisterWrite (t : Instant) (fn : Fin 4) (offset : BitVec 20) (value : BitVec 32) (len : Nat) (s : State) :
    Host.Outcome State Fault Refusal :=
  hostRow t (fun s =>
    let off := offset.toNat
    if len = 4 ∧ off % 4 = 0 then writeBar0 fn off value s
    else (partRings off len).foldl (fun s r => partDoorbell fn r s) s) s

/-- BAR2_WRITE: discarded and counted (R82). -/
def execBar2Write (t : Instant) (fn : Fin 4) (_offset : BitVec 29) (_data : List Byte) (s : State) :
    Host.Outcome State Fault Refusal :=
  hostRow t (fun s => s.modFn fn fun x => { x with bar2Dropped := inc32 x.bar2Dropped }) s

/-- MSIX_UNMASK (R125). -/
def execMsixUnmask (t : Instant) (fn : Fin 4) (vector : Fin 32) (s : State) : Host.Outcome State Fault Refusal :=
  hostRow t (unmask fn vector) s

/-- Result rings of a tenant removed with their backlog, staged pages and queued writes (R550). -/
def dropResultRings (tenant : Nat) (which : Nat → Bool) (s : State) : State :=
  s.modEgress fun e =>
    { e with rings := tfilter e.rings fun k _ => !(decide (k / 64 = tenant) && which (k % 64)),
             queue := e.queue.filter fun i =>
               match i with | .page n m _ _ | .descriptor n m _ _ => !(decide (n = tenant) && which m) }

/-- Configuration registers after a Function Level Reset, as PCI Express Base Specification 5.0 gives them: error reporting,
link control and Max_Payload_Size stay (Table 19.2; assumption log 78). -/
def PciConfig.afterFlr (c : PciConfig) : PciConfig :=
  { c with bar0 := 0, bar2 := 0, pm := .d0,
           deviceControl := (PciConfig.reset.deviceControl &&& 0xFF1F) ||| (c.deviceControl &&& 0x00E0) }

/-- FUNCTION_LEVEL_RESET (R77, R139, R628). The function weight and the waiting events are no BAR0 registers and stay;
held writes go with the rings. -/
def execFunctionLevelReset (t : Instant) (fn : Fin 4) (s : State) : Host.Outcome State Fault Refusal :=
  hostRow t (fun s =>
    let s := s.modFn fn fun x =>
      { Func.reset with cfg := x.cfg.afterFlr, weight := x.weight, backlog := x.backlog, dropped := x.dropped,
                        stops := x.stops ++ x.rings.filterMap fun p => p.2.stop.map fun st => (p.1, st.by_) }
    let s := { s with cmds := tmap (tfilter s.cmds fun _ c => decide (c.fn ≠ fn) || c.isAccepted) fun _ c =>
      if c.fn = fn then { c with muted := true, noDma := true } else c }
    settle (dropResultRings fn (fun _ => true) s)) s

/-- BUS_MASTER_ENABLE_CLEAR (R78). -/
def execBusMasterEnableClear (t : Instant) (fn : Fin 4) (s : State) : Host.Outcome State Fault Refusal :=
  hostRow t (fun s => s.modFn fn fun x => { x with busMaster := false }) s

/-- BUS_MASTER_ENABLE_SET: what waited goes out (R78), and Device Control is as the host has programmed it by then (R74;
assumption log 78). -/
def execBusMasterEnableSet (t : Instant) (host : BusMaster) (s : State) : Host.Outcome State Fault Refusal :=
  hostRow t (fun s => settle (release host.fn (s.modFn host.fn fun x =>
    { x with busMaster := true, cfg := { x.cfg with deviceControl := host.deviceControl } }))) s

/-- PCIE_LINK_DOWN: PCIE_DOWN, queued TLPs discarded, result rings FROZEN (R127, R549). -/
def execPcieLinkDown (t : Instant) (s : State) : Host.Outcome State Fault Refusal :=
  event t (fun s =>
    raiseAlert alertPcie ({ s with linkUp := false }.modEgress fun e =>
      { e with queue := [], rings := tmap e.rings fun _ g => { g with frozen := true } })) s

/-- FETCH_GRANT: the arbiter grants one entry, at most every 250 ns and with at most 64 commands in flight (R109 to
R114). -/
def execFetchGrant (t : Instant) (s : State) : Host.Outcome State Fault Refusal :=
  event t (fun s =>
    if s.fw.state = .ready ∧ outstanding s < 64 ∧ (s.arb.lastGrant.all fun g => decide (g + 250 ≤ s.now)) then
      match nextGrant s with
      | some (f, r, a) => fetch f r { s with arb := { a with lastGrant := some s.now } }
      | none => s
    else s) s

/-- SQ_ENTRY_FETCHED: the read of an entry ends; a failed read puts the ring into ERROR (R97). The CQ slot reserved for the
entry comes free, and waiting events may take it (R122); the SQ head stays past the entry (assumption log 80). -/
def execSqEntryFetched (t : Instant) (r : RingRef) (entry : Option Entry) (s : State) :
    Host.Outcome State Fault Refusal :=
  event t (fun s =>
    match readingCmd s r.fn r.ring with
    | none => s
    | some (seq, _) =>
      match entry with
      | some e => settle { s with cmds := tmod s.cmds seq fun c => { c with entry := e, phase := .waiting } }
      | none =>
        let s := ringError r.fn r.ring .fetchFailed ({ s with cmds := tdel s.cmds seq }.modRing r.fn r.ring fun g =>
          { g with reserved := g.reserved - 1 })
        settle (if r.ring.val = 0 then flushEvents r.fn 66 s else s)) s

/-- CQ_MODERATION_TIMER: the oldest unsignalled entry has waited CQ_TIME (R124). -/
def execCqModerationTimer (t : Instant) (r : RingRef) (s : State) : Host.Outcome State Fault Refusal :=
  event t (fun s =>
    match s.ring r.fn r.ring with
    | some g =>
      (match g.oldest with
       | some o => if o + 1000 * g.cqTimeUs ≤ s.now then
           sendVector r.fn g.vector (s.modRing r.fn r.ring fun g => { g with unsignalled := 0, oldest := none }) else s
       | none => s)
    | none => s) s

/-- FW_RESTART_BEGIN: a restart that is due begins (R150, R160, R571). -/
def execFwRestartBegin (t : Instant) (s : State) : Host.Outcome State Fault Refusal :=
  event t (fun s =>
    if s.fw.restartDue ∧ s.fw.state = .ready ∧ canRestart s then beginRestart s else s) s

/-- FW_RESTART_END: BUSY completions, then the RESTARTED event, then events that waited; fetching resumes (R131,
R646). A restart that has not ended within 200 ms is FAILED (R132). -/
def execFwRestartEnd (t : Instant) (s : State) : Host.Outcome State Fault Refusal :=
  event t (fun s =>
    if s.fw.state = .restarting ∧ s.fw.restartSince.any (fun a => decide (a + 200000000 < s.now)) then failFw s
    else if s.fw.state = .restarting then
      let s := setFw .ready { s with fw := { s.fw with crashed := false, restartSince := none } }
      let s := settle (busyAll s)
      let s := [0, 1, 2, 3].foldl (fun s f => adminReady f s) s
      let s := [0, 1, 2, 3].foldl (fun s f => flushEvents f 66 s) s
      postAll clsFirmware 1 (BitVec.ofNat 64 s.fw.restarts) s
    else s) s

/-- FW_RESTART_TIMEOUT: a restart that has not ended within 200 ms (R132). -/
def execFwRestartTimeout (t : Instant) (s : State) : Host.Outcome State Fault Refusal :=
  event t (fun s =>
    match s.fw.restartSince with
    | some a => if s.fw.state = .restarting ∧ a + 200000000 ≤ s.now then failFw s else s
    | none => s) s

/-- ACREGA_WATCHDOG_EXPIRY (R573, R576). -/
def execAcregaWatchdogExpiry (t : Instant) (s : State) : Host.Outcome State Fault Refusal := event t crash s

/-- CONTROL_MEMORY_ERROR (R573, R576). -/
def execControlMemoryError (t : Instant) (s : State) : Host.Outcome State Fault Refusal :=
  event t (fun s => crash s) s

end Sys2Proof.Machine
end

