-- ==== Sys2Proof/Machine/ResultRows.lean ====
section
/-!
DEFINITION. Results to the host (15): the commands RESULT_RING_CREATE and RESULT_RING_DELETE, egress of pages and
descriptors, the egress flush.
-/
namespace Sys2Proof.Machine

/-- The ring RESULT_RING_CREATE makes (R531, Table 4.13). -/
def newResultRing (e : Entry) : ResultRing :=
  { descLog := efld e 18 1, vector := efld e 19 1, resCount := efld e 20 2, resTimeUs := efld e 22 2,
    descBase := BitVec.ofNat 64 (efld e 24 8), pageBase := BitVec.ofNat 64 (efld e 32 8), pageCount := efld e 40 4,
    tail := 0, head := 0, pagePtr := 0, live := [], written := 0, lost := 0, frozen := false, queue := [],
    unsignalled := 0, oldest := none }

/-- RESULT_RING_CREATE (R530, R531). -/
def execResultRingCreate (t : Instant) (r : RingRef) (e : Entry) (s : State) : Host.Outcome State Fault Refusal :=
  let k := 64 * efld e 16 1 + efld e 17 1
  command 0x0A01 t r e
    (fun s => [layout e [(16, 28)], badTenant e, badIf (decide (63 < efld e 17 1)), badIf (decide (8 < efld e 18 1)),
      badIf (decide (31 < efld e 19 1)), badIf (decide (efld e 20 2 = 0) || decide (256 < efld e 20 2)),
      badIf (decide (1000 < efld e 22 2)), badIf (decide (efld e 24 8 % 4096 ≠ 0)), badIf (decide (efld e 32 8 % 4096 ≠ 0)),
      badIf (decide (efld e 40 4 = 0) || decide (1048576 < efld e 40 4)),
      ((s.resultRing (efld e 16 1) (efld e 17 1)).isSome, .inUse)])
    (fun seq s => done seq (s.modEgress fun x => { x with rings := tset x.rings k (newResultRing e) })) s

/-- An armed graph of a tenant, or one whose arm is pending, names a result ring. -/
def ringNamed (s : State) (tenant m : Nat) : Bool :=
  (foreseen s).drover.graphs.any fun p =>
    decide (tenantOf p.1 = tenant) &&
      ((match p.2.arm with | some a => decide (a.spec.ring = some m) | none => false) ||
       (match p.2.systemArm with | some a => decide (a.ring = some m) | none => false))

/-- RESULT_RING_DELETE (R550). -/
def execResultRingDelete (t : Instant) (r : RingRef) (e : Entry) (s : State) : Host.Outcome State Fault Refusal :=
  let n := efld e 16 1
  let m := efld e 17 1
  command 0x0A02 t r e
    (fun s => [layout e [(16, 2)], badTenant e, badIf (decide (63 < m)),
      (decide (n ≤ 3) && decide (m ≤ 63) && (s.resultRing n m).isNone, .notFound), (ringNamed s n m, .inUse)])
    (fun seq s => done seq (dropResultRings n (fun k => decide (k = m)) s)) s

/-! ### Egress (R539 to R541, R570) -/

/-- The next page index of a ring's front result, if that page is free (R539). -/
def nextPage (g : ResultRing) (r : Result) : Option Nat :=
  let i := (g.pagePtr + r.delivered) % g.pageCount
  if r.delivered < g.pageCount ∧ g.pageHeld i = false then some i else none

/-- A ring has a page ready to write: its front result has been started or can be, and its next page is free. -/
def pageReady (g : ResultRing) : Bool :=
  match g.queue with
  | r :: _ => !g.frozen && decide (r.pages ≠ []) && (r.started || g.slotFree) && (nextPage g r).isSome
  | [] => false

/-- The ring of a tenant that egress takes next. -/
def readyRing (s : State) (tenant : Nat) : Option Nat :=
  if s.mayRequest tenant then
    (s.egress.rings.find? fun p => decide (p.1 / 64 = tenant) && pageReady p.2).map fun p => p.1 % 64
  else none

/-- Tenant and ring of the next grant: tenants in turn, starting after the tenant granted last (R540). -/
def egressGrant (s : State) : Option (Nat × Nat) :=
  ([1, 2, 3, 4].map fun k => (s.egress.lastTenant + k) % 4).findSome? fun n => (readyRing s n).map fun m => (n, m)

/-- Pages waiting in the endpoint queue. -/
def queuedPages (s : State) : Nat :=
  (s.egress.queue.filter fun i => match i with | .page .. => true | .descriptor .. => false).length

/-- The front result of a ring changed. -/
def modFront (f : Result → Result) (g : ResultRing) : ResultRing :=
  { g with queue := match g.queue with | r :: l => f r :: l | [] => [] }

/-- The first row of the page that a grant to a ring reads. -/
def grantRow (s : State) (n m : Nat) : Option Nat :=
  match s.resultRing n m with
  | some g => (match g.queue with | r :: _ => r.pages.head?.map (carafePageRow s n) | [] => none)
  | none => none

/-- One page of the front result is written, or dropped where a row of it is detected (R570). -/
def grantPage (n m : Nat) (flaws : List (Nat × Flips)) (s : State) : State :=
  match s.resultRing n m with
  | none => s
  | some g =>
    match g.queue with
    | [] => s
    | r :: _ =>
      match r.pages, nextPage g r with
      | page :: rest, some i =>
        let first := carafePageRow s n page
        let rows := (List.range 8).map (first + ·)
        let s := findFlaws rows flaws s
        let start := fun x : Result => { x with started := true, firstPage := g.pagePtr, pages := rest }
        if rows.any (rowBad s) then
          detectRows .egress rows
            (s.modResultRing n m (modFront fun x => let y := start x; { y with dropped := y.dropped + 1 }))
        else
          let item := EndpointItem.page n m (g.pageBase + BitVec.ofNat 64 (4096 * i)) (s.loft.mem.read (512 * first) 4096)
          (s.modResultRing n m (modFront fun x => let y := start x; { y with delivered := y.delivered + 1 })).modEgress
            fun e => { e with queue := e.queue ++ [item] }
      | _, _ => s

/-- A page is granted once the rows it reads have passed the arbitration of their stalls, in class NODE (R227 to R229). -/
def tryPage (n m : Nat) (flaws : List (Nat × Flips)) (s : State) : State :=
  match grantRow s n m with
  | none => s
  | some row =>
    let p := passStalls .node (2 ^ 48) [(row, 8)] s
    if p.2 then grantPage n m flaws (p.1.modEgress fun e => { e with lastTenant := n }) else p.1

/-- EGRESS_PAGE_GRANT: one page (R539, R540, R570), then what credits allow leaves the endpoint queue. `flaws` lists the
soft errors that the reads of the page's rows find. -/
def execEgressPageGrant (t : Instant) (flaws : List (Nat × Flips)) (credits : Bool) (s : State) :
    Host.Outcome State Fault Refusal :=
  event t (fun s =>
    match egressGrant s with
    | some (n, m) => if queuedPages s < 8 then sendQueued credits (tryPage n m flaws s) else sendQueued credits s
    | none => sendQueued credits s) s

/-- EGRESS_DESCRIPTOR: the front result of a ring has no page left to write and a descriptor slot (R541 to R543, R546). -/
def execEgressDescriptor (t : Instant) (tenant : Fin 4) (ring : Fin 64) (credits : Bool) (s : State) :
    Host.Outcome State Fault Refusal :=
  event t (fun s =>
    match s.resultRing tenant ring with
    | none => s
    | some g =>
      match g.queue with
      | r :: _ =>
        if !g.frozen && decide (r.pages = []) && (r.started || g.slotFree) then
          sendQueued credits (queueDescriptor tenant ring s)
        else sendQueued credits s
      | [] => sendQueued credits s) s

/-- RESULT_MODERATION_TIMER: the oldest unsignalled descriptor has waited RES_TIME (R551). -/
def execResultModerationTimer (t : Instant) (tenant : Fin 4) (ring : Fin 64) (s : State) :
    Host.Outcome State Fault Refusal :=
  event t (fun s =>
    match s.resultRing tenant ring with
    | some g =>
      (match g.oldest with
       | some o => if o + 1000 * g.resTimeUs ≤ s.now then
           sendVector tenant g.vector (s.modResultRing tenant ring fun g => { g with unsignalled := 0, oldest := none })
         else s
       | none => s)
    | none => s) s

/-! ### The egress flush (R545 to R547, R549) -/

/-- Pages of a result that are not written by the flush are dropped. -/
def dropPages (r : Result) : Result :=
  { r with dropped := r.dropped + r.pages.length, pages := [], backlogged := !r.started }

/-- The flush of one ring: a started result's descriptor is queued; at most 16 results that were never started stay. -/
def flushRing (n m : Nat) (s : State) : State :=
  let s := s.modResultRing n m fun g => { g with queue := g.queue.map dropPages }
  match s.resultRing n m with
  | none => s
  | some g =>
    let s := match g.queue with | r :: _ => if r.started && !g.frozen then queueDescriptor n m s else s | [] => s
    s.modResultRing n m fun g =>
      { g with queue := g.queue.take 16, lost := min 0xFFFF (g.lost + (g.queue.length - 16)) }

/-- The flush of every ring. -/
def flushEgress (s : State) : State := s.egress.rings.foldl (fun s p => flushRing (p.1 / 64) (p.1 % 64) s) s

end Sys2Proof.Machine
end

