-- ==== Sys2Proof/Machine/TallyRows.lean ====
section
/-!
DEFINITION. Tally (18): the commands TALLY_CONFIG and TALLY_CONTROL, the effects of both, the DRAM sink, and the end of an
overflow episode.
-/
namespace Sys2Proof.Machine

/-! ### Configuration records (Table 18.1, R609) -/

/-- Filter k of a record. -/
def parseFilter (d : List Byte) (k : Nat) : TallyFilter :=
  let b := slice d (64 + 32 * k) 32
  let f := fld b 0 1
  { enabled := bit f 0, reads := bit f 1, writes := bit f 2, matchKey := bit f 3, width := fld b 1 1, offset := fld b 2 2,
    key := fld b 4 1, sources := fld b 8 4, base := fld b 16 8, limit := fld b 24 8 }

/-- The configuration a record spells. -/
def parseTally (d : List Byte) : TallyConfig :=
  { ring := bit (fld d 5 1) 0, port := bit (fld d 5 1) 1, stopWhenFull := decide (fld d 6 1 = 1), tenants := fld d 7 1,
    events := fld d 8 2, plinkPorts := fld d 10 1, plinkKey := fld d 11 1, ringBase := fld d 16 8, ringSize := fld d 24 8,
    filters := (List.range 8).map (parseFilter d) }

/-- The rules of one filter. -/
def filterOk (d : List Byte) (k : Nat) : Bool :=
  let b := slice d (64 + 32 * k) 32
  let f := parseFilter d k
  let w := tallyWidth f.width
  if f.enabled then
    decide (fld b 0 1 < 16) && decide (f.width ≤ 5) && decide (f.offset % w = 0) && decide (f.offset + w ≤ 512) &&
      decide (f.matchKey = decide (f.key ≠ 0)) && zeros b 5 3 && zeros b 12 4 && decide (bits f.sources 15 10 = 0) &&
      decide (f.base % 512 = 0) && decide (f.limit % 512 = 0) && decide (f.base < f.limit)
  else zeros b 0 32

/-- A record that TALLY_CONFIG accepts (R609). -/
def tallyOk (s : State) (d : List Byte) : Bool :=
  let c := parseTally d
  let r := (c.ringBase, c.ringSize)
  decide (d.take 4 = [0x54, 0x43, 0x46, 0x47]) && decide (fld d 4 1 = 1) && decide (1 ≤ fld d 5 1) && decide (fld d 5 1 ≤ 3) &&
    decide (fld d 6 1 ≤ 1) && decide (c.tenants < 16) && decide (c.events < 2048) && decide (c.plinkPorts < 16) &&
    zeros d 12 4 && zeros d 32 32 &&
    (if c.ring then
      decide (r.1 % 4096 = 0) && decide (r.2 % 4096 = 0) && decide (0x10000 ≤ r.2) && decide (r.2 ≤ 2 ^ 32) &&
        inDram s r.1 r.2 && !hitsCheck s r.1 r.2 && !hitsBacking s r.1 r.2
     else decide (r.1 = 0) && decide (r.2 = 0)) &&
    (List.range 8).all (filterOk d)

/-- TALLY_CONFIG (R609, R610). -/
def execTallyConfig (t : Instant) (r : RingRef) (e : Entry) (buf : Option (List Byte)) (s : State) :
    Host.Outcome State Fault Refusal :=
  let d := fit 320 (buf.getD [])
  bufCommand 0x0B01 t r e
    (fun _ => [layout e [(24, 12)]] ++ bufChecks e 4096 ++ [badIf (decide (efld e 32 4 ≠ 320))])
    (fun s => match buf with | none => [(true, .hostDmaError)] | some _ => [badIf (!tallyOk s d)])
    (fun seq s => deferredOk seq (defer (.tallyConfig (parseTally d)) s)) s

/-- A list without the last element that passes a test. -/
def dropLast {α : Type} (f : α → Bool) (l : List α) : List α := ((l.reverse).eraseP f).reverse

/-- A pending START. -/
def startPending (s : State) : Bool := s.deferred.any fun d => match d with | .tallyStart => true | _ => false

/-- TALLY_CONTROL: a STOP that meets a pending START cancels it (R611). -/
def execTallyControl (t : Instant) (r : RingRef) (e : Entry) (s : State) : Host.Outcome State Fault Refusal :=
  let a := efld e 16 1
  command 0x0B02 t r e
    (fun s =>
      let f := (foreseen s).tally
      [layout e [(16, 1)], badIf (decide (1 < a)),
       (decide (a = 1) && (f.config.isNone || decide (f.state = .running)), .badState),
       (decide (a = 0) && decide (f.state ≠ .running), .badState)])
    (fun seq s =>
      if a = 1 then deferredOk seq (defer .tallyStart s)
      else if startPending s then
        done seq { s with deferred := dropLast (fun d => match d with | .tallyStart => true | _ => false) s.deferred }
      else deferredOk seq (defer .tallyStop s)) s

/-! ### Effects at an opening (R610, R611) -/

/-- A configuration replaces the one in force; a sink that is newly selected takes the stream from the next SYNC on. -/
def applyTallyConfig (c : TallyConfig) (s : State) : State :=
  let s := tracePort s
  s.modTally fun t =>
    let had := match t.config with | some o => (o.ring, o.port) | none => (false, false)
    let pad := (tallyPad t.pos).length
    ({ t with config := some c, configSeq := (t.configSeq + 1) % 2 ^ 32, portTime := if had.2 then t.portTime else s.now,
              ringTaken := if had.1 then t.ringTaken else t.fifo.length + pad,
              ringPos := if had.1 then t.ringPos else t.pos + pad,
              portTaken := if had.2 then t.portTaken else t.fifo.length + pad } : Tally).free

/-- START: the stream and the ring begin anew; the SYNC of the opening follows (R611, R616). -/
def applyTallyStart (s : State) : State :=
  s.modTally fun t =>
    { t with state := .running, pos := 0, fifo := [], ringTaken := 0, portTaken := 0, portTime := s.now, lastTime := s.now,
             lastRow := [], syncPos := 0, dropsTotal := 0, episode := none, ringPos := 0 }

/-- Bytes of padding up to the next 512 B boundary join the stream. -/
def padStream (s : State) : State :=
  let s := tracePort s
  s.modTally fun t => { t with fifo := t.fifo ++ tallyPad t.pos, pos := t.pos + (tallyPad t.pos).length }

/-- STOP: capture ends before the opening's SYNC; what Tally holds still goes to the sinks (R611). -/
def applyTallyStop (s : State) : State := (padStream s).modTally fun t => { t with state := .stopped, episode := none }

/-- The SYNC of a window opening (R616). -/
def openingSync (s : State) : State := if s.tally.capturing && s.tally.episode.isNone then tallySync (tracePort s) else s

/-- At t_m the DRAM sink pads its last row (R617). -/
def slotPad (s : State) : State :=
  match s.tally.config with
  | some c => if c.ring && decide (s.tally.state = .running) && s.tally.episode.isNone then padStream s else s
  | none => s

/-- The PHASE events of Table 18.3. -/
def tallyPhase (arg : Nat) (s : State) : State := tallyDrover 0xA 0 0 0xFFFF arg s

/-! ### Sinks (R612, R617 to R619) -/

/-- Tally injects nothing from t_g to t_m, and in the maintenance slot only while 1 µs remains (R617). -/
def ringTime (s : State) : Bool :=
  match s.tick.window with
  | some w => decide (s.now < w.tg) || (decide (w.tm ≤ s.now) && decide (s.now + 1000 ≤ w.te)) || decide (w.te ≤ s.now)
  | none => true

/-- The WR packet of Tally's port, router (2, 0) port 7, with key 0x00 (R446, R617). -/
def sendRing (x : Nat) (d : List Byte) (s : State) : State × Bool :=
  let dst := addrPort x
  sendRequest 2 7 .tally (requestHead s 2 7 (16 * s.chip + dst.1) dst.2 0 0x10 true false 0 0)
    (h1Rows x 0 (d.length / 512) 0 0) d [s.chip] none s

/-- TALLY_RING_WRITE: one WR packet of up to 8 rows, at most one per 500 ns; in STOP_WHEN_FULL mode FULL instead of a row
beyond the ring (R612, R617). `last`: the row of the packet beyond which it does not go (assumption log 85). Where the port has no tag, place or room the packet waits (R450, R457). -/
def execTallyRingWrite (t : Instant) (last : Fin 8) (s : State) : Host.Outcome State Fault Refusal :=
  event t (fun s =>
    match s.tally.config with
    | none => s
    | some c =>
      let s := tracePort s
      let t := s.tally
      let rows := (t.fifo.length - t.ringTaken) / 512
      if !c.ring || decide (t.state = .full) || decide (rows = 0) || !ringTime s || s.inStandby ||
          !(t.lastWrite.all fun w => decide (w + 500 ≤ s.now)) then s
      else
        let off := if c.stopWhenFull then t.ringPos else t.ringPos % c.ringSize
        let n := min (min rows (last.val + 1)) ((c.ringSize - off) / 512)
        if n = 0 then s.modTally fun t => ({ t with state := .full } : Tally).free
        else
          let d := (t.fifo.drop t.ringTaken).take (512 * n)
          let q := sendRing (c.ringBase + off) d s
          if q.2 then
            q.1.modTally fun t =>
              ({ t with ringTaken := t.ringTaken + 512 * n, ringPos := t.ringPos + 512 * n,
                        lastWrite := some s.now } : Tally).free
          else q.1) s

/-- TALLY_OVERFLOW_RESUME: once 4 KiB of the FIFO are free, an OVERFLOW packet, padding and a SYNC (R616, R619). -/
def execTallyOverflowResume (t : Instant) (s : State) : Host.Outcome State Fault Refusal :=
  event t (fun s =>
    let s := tracePort s
    match s.tally.episode with
    | none => s
    | some n =>
      if s.tally.fifo.length + 4096 ≤ tallyFifo then
        tallySync (tallyBytes (0x50 :: le 4 (min n 0xFFFFFFFF)) (s.modTally fun t => { t with episode := none }))
      else s) s

end Sys2Proof.Machine
end

