-- ==== Sys2Proof/Machine/DrainOps.lean ====
section
/-!
DEFINITION. The steps of DRAIN in the order of R42: stop of dispatch, guillotine, fabric quiesce, egress flush and
tether reset, maintenance slot.
-/
namespace Sys2Proof.Machine

/-- The window's phase advances. -/
def setPhase (p : Phase) (s : State) : State :=
  s.modTick fun t => { t with window := t.window.map fun w => { w with phase := p } }

/-- t_d: dispatch stops, and ignored triggers are reported once per graph (R44, R195). -/
def stopDispatch (s : State) : State :=
  let s := setPhase .drain s
  let s := s.drover.graphs.foldl (fun s p =>
    match p.2.arm with
    | some a =>
      if p.2.missed = 0 then s
      else postGraph p.1 6 a.spec.mode 0xFFFF p.2.missed (s.modGraph p.1 fun g => { g with missed := 0 })
    | none => s) s
  tallyPhase 0 s

/-- t_g: running nodes stop, frames in progress are cut, unanswered requests are discarded (R49, R277, R458). -/
def guillotineStep (s : State) : State :=
  tallyPhase 1 (discardRequests (cutFrames (guillotineAll (setPhase .guillotined s))))

/-- t_f: routers, gateways and links discard what they hold; a pending epoch switch takes effect (R43, R441, R458,
R479, R504). -/
def quiesceStep (s : State) : State :=
  let before := s.fabric.counts.quiesced
  let s := flushLinks (quiesceFabric (setPhase .quiesced s)).1
  let n := s.fabric.counts.quiesced - before
  let s := if 0 < n then postAll clsLink 5 (BitVec.ofNat 64 (n % 2 ^ 32)) s else s
  rerouteSwitch (applyEpoch s)

/-- Egress flush ends and tethers are reset in the same cycle (R42, R545). -/
def flushStep (s : State) : State := resetTethers (flushEgress (setPhase .flushed s))

/-- DRAM_CORRECTED of every channel with corrections in the window (R528). -/
def postCorrections (s : State) : State :=
  (List.range 4).foldl (fun s k =>
    let n := (s.dram.channels.getD k .reset).corrected
    if n = 0 then s else postAll clsMemory 0x101 (detail [(0, k), (16, n % 2 ^ 32)]) s) s

/-- SCHEDULE_SLIP when the congestion map of the window has an entry (R460). -/
def postSlip (s : State) : State :=
  let map := s.fabric.congestion
  if map = [] then s
  else
    let total := map.foldl (fun n p => n + p.2) 0
    let routers := (List.range 16).foldl (fun n r => n + 2 ^ r * b2n (map.any fun p => decide (p.1 / 12 = r))) 0
    postAll clsLink 1 (detail [(0, min total (2 ^ 32 - 1)), (32, routers)])
      (countFabric (fun c => { c with slips := c.slips + 1 }) s)

/-- Telemetry gathering and the per-window events, while Acrega is READY (R575, R584). -/
def gather (s : State) : State :=
  if s.fw.state = .ready then
    postCorrections (postPortErrors (postSlip (s.modFabric fun f => { f with latched := f.congestion })))
  else s

/-- The Halter self-test of each unit; a set bit of `fails` is a mismatch (R417). -/
def selfTests (fails : BitVec 2) (s : State) : State :=
  [0, 1].foldl (fun s u => if fails.getLsbD u then enterStop u .selfTest none s else s) s

/-- The maintenance slot: the clock change first, then the other activities (R583). -/
def maintenanceStep (failing : List Nat) (fails : BitVec 2) (drift : Bool) (s : State) : State :=
  let s := slotClocks (setPhase .maintained s)
  let s := s.modPower fun p => { p with slots := p.slots + 1 }
  let s := gather s
  let s := if s.fw.state = .ready then testSuspects failing s else s
  let s := selfTests fails (retrainStep drift s)
  tallyPhase 2 (slotPad (rerouteSlot (recalSlot s)))

/-- One step of the drain by its position in R42. -/
def drainStep (k : Nat) (s : State) : State :=
  match k with
  | 1 => stopDispatch s
  | 2 => guillotineStep s
  | 3 => quiesceStep s
  | 4 => flushStep s
  | _ => maintenanceStep [] 0 false s

/-- The instant of a step of the drain by its position in R42 (R39, R41). -/
def Window.stepAt (w : Window) (k : Nat) : Instant :=
  match k with | 1 => w.td | 2 => w.tg | 3 | 4 => w.tf | _ => w.tm

/-- What is done now as of an instant that has passed: reports carry that instant (R24). -/
def asOf (at_ : Instant) (f : State → State) (s : State) : State :=
  { f { s with now := min at_ s.now } with now := s.now }

/-- Every step of the drain up to the k-th that the open window has not taken yet, in order, each as of its own instant
(R42). -/
def drainTo (k : Nat) (s : State) : State :=
  (List.range k).foldl (fun s j =>
    match s.tick.window with
    | some w => if w.phase.rank ≤ j then asOf (w.stepAt (j + 1)) (drainStep (j + 1)) s else s
    | none => s) s

/-- A drain row: it acts once the instant has come and the step has not been taken. -/
def drainRow (k : Nat) (at_ : Window → Instant) (f : State → State) (s : State) : State :=
  match s.tick.window with
  | some w => if w.phase.rank < k ∧ at_ w ≤ s.now then f (drainTo (k - 1) s) else s
  | none => s

/-- t_d (R44). -/
def execDrainStart (t : Instant) (s : State) : Host.Outcome State Fault Refusal :=
  event t (drainRow 1 Window.td stopDispatch) s

/-- t_g (R49). -/
def execGuillotine (t : Instant) (s : State) : Host.Outcome State Fault Refusal :=
  event t (drainRow 2 Window.tg guillotineStep) s

/-- t_f (R458). -/
def execFabricQuiesceEnd (t : Instant) (s : State) : Host.Outcome State Fault Refusal :=
  event t (drainRow 3 Window.tf quiesceStep) s

/-- The end of the egress flush (R545). -/
def execEgressFlushEnd (t : Instant) (s : State) : Host.Outcome State Fault Refusal :=
  event t (drainRow 4 Window.tf flushStep) s

/-- t_m (R583). -/
def execMaintenanceSlot (t : Instant) (failing : List Nat) (selfTest : BitVec 2) (drift : Bool) (s : State) :
    Host.Outcome State Fault Refusal :=
  event t (drainRow 5 Window.tm (maintenanceStep failing selfTest drift)) s

end Sys2Proof.Machine
end

