-- ==== Sys2Proof/Machine/DroverRows.lean ====
section
/-!
DEFINITION. Dispatch, ends and stops of nodes (05, 10, 16).
-/
namespace Sys2Proof.Machine

/-- The Drover tests a ready node, or its whole pair: it dispatches it, or refuses it (R44 to R46, R197 to R199,
R202, R205). -/
def execNodeDispatch (t : Instant) (g : GraphRef) (node : Nat) (s : State) : Host.Outcome State Fault Refusal :=
  event t (fun s =>
    match s.graph (refKey g) with
    | some gr =>
      let i := pairHead gr node
      if nodeReady s (refKey g) i && !outranked s (refKey g) i then
        (pairOf gr i).foldl (fun s j => startUnits (refKey g) j s) (dispatch (refKey g) i s)
      else s
    | none => s) s

/-- Requests of a node are outstanding: its last access is not acknowledged (R200). -/
def nodeBusy (s : State) (g i : Nat) : Bool :=
  s.fabric.reqs.any fun p => match p.2.issuer with | .node h j => decide (h = g ∧ j = i) | .lane .. | .tally => false

/-- A parity failure found in the run of a node: cause 0x05 (Table 16.2). -/
def markParity (g i : Nat) (parity : Bool) (s : State) : State := if parity then markNode g i 5 detailNone none s else s

/-- What a node has done ends it, if it still runs. -/
def endWorked (g i : Nat) (parity : Bool) (s : State) : State :=
  let s := workNode g i (observeNode g i s)
  if s.nodeRunning g i then dropPackets g i (nodeDone g i (markParity g i parity s)) else s

/-- Rows a range of Loft bytes spans, as first row and count. -/
def loftSpan (r : Nat × Nat) : Option (Nat × Nat) :=
  if r.1 < dramBase ∧ 0 < r.2 then some (rowOf r.1, (r.1 + r.2 + 511) / 512 - rowOf r.1) else none

/-- The Loft rows whose accesses a node has still to make at its end. -/
def nodeRows (s : State) (g i : Nat) : List (Nat × Nat) :=
  match s.graph g, s.inst g with
  | some gr, some inst =>
    let r := inst.run i
    let n := gr.node i
    ((nodeReads s n r gr.blob) ++ outputRanges s n r gr.blob).filterMap loftSpan ++
      (match n.kind, r.carafePage with
       | .resultOut, some p => [(carafePageRow s (tenantOf g) p, 8 * ceilDiv (bf r.body 72 4) 4096)]
       | _, _ => [])
  | _, _ => []

/-- A node waits for the refill of a row it reads, unless its own read found the error (R254). -/
def waitsRefill (s : State) (g i : Nat) : Bool :=
  match s.graph g, s.inst g with
  | some gr, some inst =>
    let r := inst.run i
    s.loft.refills.any fun p => !(r.marks.any fun m => decide (m.row = some p.1)) &&
      (nodeReads s (gr.node i) r gr.blob).any fun q => overlap (512 * p.1, 512) q
  | _, _ => false

/-- A node at the end of its work: it ends once its packets have gone, its taps are served, the rows it reads are not under
refill, and the stalls grant its accesses (R202, R227, R254, R371). -/
def finishWork (g i : Nat) (parity : Bool) (s : State) : State :=
  if waitsRefill s g i || !tapsDone g i s then s
  else
    let r := streamStep g i s
    if r.2 then
      let q := passStalls .node (65536 * g + i) (nodeRows r.1 g i) r.1
      if q.2 then endWorked g i parity q.1 else q.1
    else r.1

/-- The end of a node whose work takes time: ENGINE, NE, RESULT_OUT, and GATE_COPY once every packet is acknowledged
(R200, R494, R535, R555, R556). -/
def execNodeEnd (t : Instant) (g : GraphRef) (node : Nat) (parity : Bool) (s : State) :
    Host.Outcome State Fault Refusal :=
  event t (fun s =>
    if !s.nodeRunning (refKey g) node || nodeBusy s (refKey g) node then s
    else match (s.node (refKey g) node).kind, s.inst (refKey g) with
      | .engine, _ | .ne, _ | .resultOut, _ => finishWork (refKey g) node parity s
      | .gateCopy, some inst => if gateDone (inst.run node) then nodeDone (refKey g) node s else s
      | _, _ => s) s

/-- A node stopped by the end of a lease entry: the rest of its instance is skipped, and LEASE_STOP is posted (R206). -/
def leaseStop (g i entry : Nat) (s : State) : State :=
  if s.nodeRunning g i then
    let s := postInst g 4 i entry s
    sweepInsts (skipRest g (stopNode g i 1 s))
  else s

/-- The end of a lease entry stops every node that runs under it (R206). -/
def execLeaseEnd (t : Instant) (tenant : Fin 4) (entry : Fin 16) (s : State) : Host.Outcome State Fault Refusal :=
  event t (fun s =>
    match (s.contract tenant).leases[entry.val]?, s.tick.window with
    | some l, some w =>
      if l.unit ≠ 0xFF ∧ w.t0 + 1000 * l.stop ≤ s.now then
        (runningNodes s).foldl (fun s p =>
          if tenantOf p.1 = tenant.val ∧ (s.node p.1 p.2).tags.contains entry.val = true then leaseStop p.1 p.2 entry s
          else s) s
      else s
    | _, _ => s) s

/-- A TETHER_WAIT node whose bound runs out with its tether not met ends by timeout (R214, R215). -/
def waitTimeout (g i : Nat) (body : List Byte) (s : State) : State :=
  let n := bf body 64 2
  let truncate := decide (bf body 66 1 = 1)
  let s := traceNode 8 g i 0 (postInst g 5 i (n + 2 ^ 16 * b2n truncate) s)
  let r := endCore g i s
  settleTethers r.2 (if truncate then skipRest g r.1 else r.1)

/-- The timeout of a wait (R214). -/
def execTetherWaitTimeout (t : Instant) (g : GraphRef) (node : Nat) (s : State) : Host.Outcome State Fault Refusal :=
  event t (fun s =>
    match s.inst (refKey g) with
    | some inst =>
      let n := s.node (refKey g) node
      (match (inst.run node).phase with
       | .running since =>
         if n.kind = .tetherWait ∧ since + nodeBound s n ≤ s.now ∧ (s.tether (bf (inst.run node).body 64 2)).met = false
         then waitTimeout (refKey g) node (inst.run node).body s else s
       | _ => s)
    | none => s) s

/-- The record of an NE node stopped at PROG_CYCLES, which marks the cause (R397); how far its counts had come by then has no
stated value (assumption log 14). A write of the record that the Loft or DRAM refuses is not made (R231, R233, R234,
R241). -/
def overrunRecord (g i : Nat) (s : State) : Option (Nat × List Byte) :=
  match s.graph g, s.inst g with
  | some gr, some inst =>
    let r := inst.run i
    let n := gr.node i
    let x := bf r.body 80 8
    let run := { NeRun.start [] with saturated := Config.draw (s.draws + 2), overflowed := Config.draw (s.draws + 3),
                                     nans := Config.draw (s.draws + 4) }
    if x = 0 ∨ (refusedAt s (tenantOf g) true false (x, 512)).isSome then none
    else some (x, neRecord s n r (fld (neProgram r.body gr.blob) 8 4) true run
      (if n.consumer then (s.fifo (portKey gr i)).length else 0))
  | _, _ => none

/-- An NE program that reaches PROG_CYCLES before its end: an immediate fault (R397). -/
def execNeOverrun (t : Instant) (g : GraphRef) (node : Nat) (s : State) : Host.Outcome State Fault Refusal :=
  event t (fun s =>
    if (s.node (refKey g) node).kind = .ne ∧ s.nodeRunning (refKey g) node = true then
      let rec_ := overrunRecord (refKey g) node s
      let s := immediateFault (refKey g) node 0x0F detailNone s
      match rec_ with
      | some (x, d) => { store x d s with draws := s.draws + 5 }
      | none => s
    else s) s

/-- The refills and map-outs a replay waits for have ended: its nodes are tested afresh (R563). -/
def execReplayResume (t : Instant) (g : GraphRef) (set : Nat) (s : State) : Host.Outcome State Fault Refusal :=
  event t (fun s =>
    match (s.inst (refKey g)).bind fun x => x.replays[set]? with
    | some r =>
      if r.waiting && !(r.rows.any (thas s.loft.refills)) then
        s.modInst (refKey g) fun x => { x with replays := lmod x.replays set fun r => { r with waiting := false, rows := [] } }
      else s
    | none => s) s

/-- An error in Drover storage: corrected and counted, or a double error (R560). -/
def execDroverCheck (t : Instant) (double : Bool) (s : State) : Host.Outcome State Fault Refusal :=
  event t (fun s => if double then droverDouble s else s.modDrover fun d => { d with corrected := d.corrected + 1 }) s

end Sys2Proof.Machine
end

