-- ==== Sys2Proof/Machine/HalterRows.lean ====
section
/-!
DEFINITION. Halter tiles, acknowledgements, watchdogs and heartbeat (11), and the commands of group 0x07 (Table 4.12).
-/
namespace Sys2Proof.Machine

/-- A node that taps its tiles to a Halter unit runs: HLTu is tapped by STEu (R204, R371). -/
def tapsHalter (s : State) (u : Nat) (n : NodeRef) : Bool :=
  let g := refKey n.graph
  s.nodeRunning g n.node && (s.node g n.node).tap && decide ((s.node g n.node).unit = 0x14 + u)

/-- A tapped tile that the unit does not accept (R405). -/
def ignoreTile (u : Nat) (s : State) : State :=
  s.modHalter u fun h => { h with counts := { h.counts with ignored := h.counts.ignored + 1 } }

/-- The disparities and the confidences of an STE packet, in raster order after its header (R371). -/
def packetDisparity (p : List Byte) : List (BitVec 16) := (List.range 2048).map fun k => BitVec.ofNat 16 (fld p (64 + 2 * k) 2)
def packetConfidence (p : List Byte) : List Byte := slice p 4160 2048

/-- A tapped packet meets the unit: ignored, or accepted from the owner of its pair (R405); its header is laid out as R371
says. -/
def meetTile (u : Nat) (from_ : NodeRef) (packet : List Byte) (s : State) : State :=
  let h := s.halter u
  let pair := fld packet 8 1
  let me := (refKey from_.graph, from_.node)
  let p := h.pairs.getD pair .reset
  if h.state = .disabled ∨ bit (hcfg h 5 1) from_.graph.tenant = false ∨
      (watched (h.config.getD [])).contains pair = false ∨ p.owner.any (· ≠ me) then ignoreTile u s
  else
    let s := s.modHalter u fun h => { h with pairs := lmod h.pairs pair fun p => { p with owner := some me } }
    takeTile u pair (fld packet 0 2) (fld packet 2 2) (fld packet 12 2) (bit (fld packet 9 1) 1)
      (tileBreaks s p (fld packet 4 4) (fld packet 2 2) (fld packet 0 2)) (packetDisparity packet) (packetConfidence packet) s

/-! ### Watchdogs (R417, R418) -/

/-- DEADLINE: the frame is not complete at its deadline. -/
def deadlineWatch (u : Nat) (s : State) : State :=
  let h := s.halter u
  match s.tick.window with
  | some w => if !h.frameDone ∧ min (w.t0 + 1000 * hcfg h 8 4) w.tg ≤ s.now then enterStop u .deadline none s else s
  | none => s

/-- GAP: too long without a frame completion, in every tick state. -/
def gapWatch (u : Nat) (s : State) : State :=
  let h := s.halter u
  if h.gapFrom + 1000 * hcfg h 12 4 ≤ s.now then enterStop u .gap none s else s

/-- TILE_GAP: too long without a tile of a pair whose first tile has come and whose last has not. -/
def tileGapWatch (u pair : Nat) (s : State) : State :=
  let h := s.halter u
  match (h.pairs.getD pair .reset).lastTile with
  | some l =>
    if l + 1000 * hcfg h 16 4 ≤ s.now then
      enterStop u .tileGap none
        (s.modHalter u fun h => { h with pairs := lmod h.pairs pair fun p => { p with lastTile := none } })
    else s
  | none => s

/-- Every watchdog that arrivals end. -/
def watchdogs (u : Nat) (s : State) : State :=
  [0, 1, 2, 3].foldl (fun s p => tileGapWatch u p s) (gapWatch u (deadlineWatch u s))

/-- A tile of the unit whose instant has come still waits in the queue. A watchdog that expires now leaves the decision to it:
the arrival wins (R418). -/
def tileComing (s : State) (u : Fin 2) : Bool :=
  s.pending.any fun c => match c with | .halterTile t v _ _ _ _ => decide (t ≤ s.now) && decide (v = u) | _ => false

/-- The packet is the tile at (tx, ty) of the pair (R371). -/
def isTile (pair : Fin 4) (tx ty : Nat) (p : List Byte) : Bool :=
  decide (fld p 8 1 = pair.val) && decide (fld p 0 2 = tx) && decide (fld p 2 2 = ty)

/-- HALTER_TILE (R371, R405 to R411): the tile at (tx, ty) of a pair, which is the next of a node with a tap, then the watchdogs
that it did not end (R418). A row that names another tile than the next names no arrival (assumption log 85). -/
def execHalterTile (t : Instant) (unit : Fin 2) (from_ : NodeRef) (pair : Fin 4) (tx ty : Nat) (s : State) :
    Host.Outcome State Fault Refusal :=
  event t (fun s =>
    let g := refKey from_.graph
    watchdogs unit <|
      if tapsHalter s unit from_ then
        match nextTap g from_.node s with
        | some p =>
          if isTile pair tx ty p then
            meetTile unit from_ p (s.modRun g from_.node fun r => { r with tapped := r.tapped + 1 })
          else s
        | none => s
      else s) s

/-- HALTER_ACK_QUALIFIED: a rising edge that has stayed high for 1 µs is an acknowledgement, and counts as one whether or not
it is awaited (R416, Table 11.5). -/
def execHalterAckQualified (t : Instant) (unit : Fin 2) (edge : Nat) (s : State) : Host.Outcome State Fault Refusal :=
  event t (fun s =>
    if s.now < edge + 1000 then s
    else
      let s := s.modHalter unit fun h => { h with counts := { h.counts with acks := h.counts.acks + 1 } }
      if (s.halter unit).awaitAck.any fun a => decide (a ≤ edge) then leaveStop unit true s
      else postHalter unit 7 []
        (s.modHalter unit fun h => { h with counts := { h.counts with acksIgnored := h.counts.acksIgnored + 1 } })) s

/-- HALTER_DEADLINE (R417). -/
def execHalterDeadline (t : Instant) (unit : Fin 2) (s : State) : Host.Outcome State Fault Refusal :=
  event t (fun s => if tileComing s unit then s else deadlineWatch unit s) s

/-- HALTER_GAP (R417): in every tick state. -/
def execHalterGap (t : Instant) (unit : Fin 2) (s : State) : Host.Outcome State Fault Refusal :=
  event t (fun s => if tileComing s unit then s else gapWatch unit s) s

/-- HALTER_TILE_GAP (R417). -/
def execHalterTileGap (t : Instant) (unit : Fin 2) (pair : Fin 4) (s : State) : Host.Outcome State Fault Refusal :=
  event t (fun s => if tileComing s unit then s else tileGapWatch unit pair s) s

/-- HALTER_PIN_MISMATCH (R417). -/
def execHalterPinMismatch (t : Instant) (unit : Fin 2) (s : State) : Host.Outcome State Fault Refusal :=
  event t (enterStop unit .pin none) s

/-- HALTER_HEARTBEAT_EDGE: both pins change at the end of a half-period of 50 µs (R413). -/
def execHalterHeartbeatEdge (t : Instant) (unit : Fin 2) (s : State) : Host.Outcome State Fault Refusal :=
  event t (fun s =>
    let h := s.halter unit
    match h.edgeDue with
    | some e => if e ≤ s.now then
        (drivePins unit (!h.pinA) (!h.pinB) h.pinSlow s).modHalter unit fun h => { h with edgeDue := some (e + 50000) }
      else s
    | none => s) s

/-! ### Commands -/

/-- The rules of one volume record; one that is not enabled has every byte but its FLAGS zero (Table 11.2). -/
def volumeOk (v : List Byte) : Bool :=
  let on := fun k => bit (fld v 0 1) k
  if on 0 then
    decide (fld v 0 1 < 16) && decide (fld v 1 1 < 4) && decide (1 ≤ fld v 2 2) && decide (fld v 6 2 ≤ fld v 8 2) &&
      decide (fld v 8 2 ≤ 4095) && decide (fld v 10 2 ≤ fld v 12 2) && decide (fld v 12 2 ≤ 8191) &&
      decide (fld v 14 2 ≤ fld v 16 2) && decide (fld v 16 2 ≤ 0x7FF0) && zeros v 18 2 && (on 2 || zeros v 20 10) &&
      (on 3 || zeros v 30 10)
  else decide (fld v 0 1 < 16) && zeros v 1 39

/-- The rules of a Halter configuration (Tables 11.1, 11.2). -/
def halterConfigOk (d : List Byte) : Bool :=
  let f := fld d
  decide (d.take 4 = [0x48, 0x41, 0x4C, 0x54]) && decide (f 4 1 = 1) && decide (1 ≤ f 5 1) && decide (f 5 1 < 16) &&
    decide (f 7 1 < 2) && decide (1 ≤ f 8 4) && decide (f 8 4 ≤ 200000) && decide (1 ≤ f 12 4) &&
    decide (f 12 4 ≤ 400000) && decide (1 ≤ f 16 4) && decide (f 16 4 ≤ 10000) && decide (1 ≤ f 20 1) && zeros d 21 43 &&
    ((List.range 16).all fun v => volumeOk (volume d v)) && (List.range 16).any (volOn d)

/-- HALTER_CONFIG (R177, R402). -/
def execHalterConfig (t : Instant) (r : RingRef) (e : Entry) (buf : Option (List Byte)) (s : State) :
    Host.Outcome State Fault Refusal :=
  let u := efld e 16 1 - 0x30
  let d := fit 704 (buf.getD [])
  bufCommand 0x0701 t r e
    (fun s => [layout e [(16, 1), (24, 12)], badIf (decide (efld e 16 1 ≠ 0x30) && decide (efld e 16 1 ≠ 0x31)),
      ((halterTenant (foreseen s) u).isNone, .badState)] ++ bufChecks e 4096 ++
      [badIf (decide (efld e 32 4 ≠ 704))])
    (fun _ => match buf with | none => [(true, .hostDmaError)] | some _ => [(!halterConfigOk d, .badImage)])
    (fun seq s => deferredOk seq (defer (.halterConfig u d) s)) s

/-- HALTER_ENABLE (R177, R403). -/
def execHalterEnable (t : Instant) (r : RingRef) (e : Entry) (s : State) : Host.Outcome State Fault Refusal :=
  let u := efld e 16 1 - 0x30
  let on := decide (efld e 17 1 = 1)
  command 0x0702 t r e
    (fun s => [layout e [(16, 2)], badIf (decide (efld e 16 1 ≠ 0x30) && decide (efld e 16 1 ≠ 0x31)),
      badIf (decide (1 < efld e 17 1)), ((halterTenant (foreseen s) u).isNone, .badState),
      (on && ((foreseen s).halter u).config.isNone, .badState)])
    (fun seq s => deferredOk seq (defer (.halterEnable u on) s)) s

end Sys2Proof.Machine
end

