-- ==== Sys2Proof/Machine/Movements.lean ====
section
/-!
DEFINITION. DATA_MOVEMENT_END: how MEM_WRITE, MEM_READ, RESIDENT_LOAD and the image read of GRAPH_LOAD end (R145, R150,
R239 to R241, R517, R527, R629).
-/
namespace Sys2Proof.Machine

/-- Rows of a Loft range are under refill (R254). -/
def refillsIn (s : State) (x n : Nat) : Bool := s.loft.refills.any fun p => inside (512 * p.1, 512) (x, n)

/-- A range of DRAM touches a channel in full training (R527); a span of 16 KiB touches every channel. -/
def trainingIn (s : State) (x n : Nat) : Bool :=
  (List.range (min 64 (n / 256 + 1))).any fun k =>
    ((s.dram.channels.getD (channelOf (x + 256 * k)) .reset).training).isSome

/-- A movement reads a host buffer. -/
def Move.readsBuffer : Move → Bool
  | .memWrite .. | .graphLoad .. => true
  | .memRead .. | .residentLoad _ => false

/-- A movement cannot end yet: a row it reads is under refill, a channel trains, or its host buffer cannot be read (R78,
R254, R527). -/
def moveWaits (s : State) (id : Nat) (m : Move) : Bool :=
  let at_ := fun x n : Nat => if x < dramBase then refillsIn s x n else trainingIn s x n
  (match m with
   | .memWrite x n => at_ x n
   | .memRead x n _ _ => at_ x n
   | .residentLoad k => (match tget s.loft.regions k with | some g => trainingIn s g.backing (512 * g.count) | none => false)
   | .graphLoad .. => false) ||
  (m.readsBuffer && match tget s.cmds id with | some c => !c.noDma && !bufferReady s c.fn | none => false)

/-- Rows of the Loft that a movement accesses, as first row and count: in class HOST (Table 6.2). -/
def moveRows (s : State) : Move → List (Nat × Nat)
  | .memWrite x n | .memRead x n _ _ => if x < dramBase then [(rowOf x, n / 512)] else []
  | .residentLoad k => (match tget s.loft.regions k with | some g => [(g.first, g.count)] | none => [])
  | .graphLoad .. => []

/-- What the ECC checks of consecutive sectors find, as the operand of DATA_MOVEMENT_END gives it. -/
def foundIn (x n : Nat) (l : List (Nat × SectorCheck)) : List SectorCheck :=
  (List.range (n / 64)).map fun k => ((l.find? fun p => decide (p.1 = x + 64 * k)).map (·.2)).getD .clean

/-- Regions whose backing copy a MEM_WRITE changed return to DEFINED; one being loaded stays LOADING until its load ends, and
rows that failed stay detected until they are rewritten (R241, R256, Table 6.4). -/
def redefine (x n : Nat) (s : State) : State :=
  let f := fun (_ : Nat) (g : Region) =>
    if overlap (x, n) (backing g) ∧ g.state ≠ .loading then { g with state := .defined } else g
  s.modLoft fun l => { l with regions := tmap l.regions f }

/-- MEM_WRITE ends: written whole, or its destination is undefined (R145). -/
def endMemWrite (seq x n : Nat) (data : Option (List Byte)) (s : State) : State :=
  match data with
  | none => finish seq .hostDmaError 0 (undefineRange s (x, n))
  | some d =>
    let d := fit n d
    finish seq .ok 0 (if x < dramBase then putRows (rowOf x) d s else redefine x n (writeDram x d s))

/-- Sectors read for the host, gathered into runs of one kind: `none` marks a poisoned sector (R517). -/
def sectorRuns (x : Nat) : Nat → List SectorCheck → State → State × List (Bool × List Byte)
  | 0, _, s => (s, [])
  | n + 1, fs, s =>
    let a := readSector x (fs.headD .clean) 2 false s
    let q := sectorRuns (x + 64) n fs.tail a.1
    let d := a.2.getD (s.dram.mem.read x 64)
    (q.1, match q.2 with
      | (p, b) :: l => if p = a.2.isNone then (p, d ++ b) :: l else (a.2.isNone, d) :: (p, b) :: l
      | [] => [(a.2.isNone, d)])

/-- Runs written to a host buffer, the poisoned ones with EP set. -/
def writeRuns (f : Nat) (addr : BitVec 64) (runs : List (Bool × List Byte)) (s : State) : State :=
  (runs.foldl (fun (a : BitVec 64 × State) r => (a.1 + BitVec.ofNat 64 r.2.length, hostWriteEp f a.1 r.2 r.1 a.2)) (addr, s)).2

/-- MEM_READ ends. A detection in a LOADED row starts a refill, for whose end the read waits (Table 6.5). -/
def endMemRead (seq f x n : Nat) (buf : BitVec 64) (seen ok : Bool) (flaws : List (Nat × Flips)) (sectors : List (Nat × SectorCheck))
    (s : State) : State :=
  if x < dramBase then
    let rows := rowsOfRange x n
    let s := if seen then s else detectRows .memRead rows (findFlaws rows flaws s)
    if refillsIn s x n then beginMove (.memRead x n buf true) seq s
    else if ok then finish seq .ok 0 (hostWrite f buf (rows.flatMap (storedRow s)) s)
    else finish seq .hostDmaError 0 s
  else
    let q := sectorRuns x (n / 64) (foundIn x n sectors) s
    if ok then finish seq .ok 0 (writeRuns f buf q.2 q.1) else finish seq .hostDmaError 0 q.1

/-- Backing sectors read in order, each with what its check finds, up to the first that is uncorrectable (R240). Answers the
bytes read and whether the load stopped. -/
def loadSectors (x : Nat) : Nat → List SectorCheck → State → State × List Byte × Bool
  | 0, _, s => (s, [], false)
  | n + 1, fs, s =>
    let r := readSector x (fs.headD .clean) 5 false s
    match r.2 with
    | none => (r.1, [], true)
    | some d =>
      let q := loadSectors (x + 64) n fs.tail r.1
      (q.1, d ++ q.2.1, q.2.2)

/-- RESIDENT_LOAD ends: LOADED, or DEFINED with undefined rows where a backing sector is uncorrectable (R239, R240). -/
def endResidentLoad (seq k : Nat) (sectors : List (Nat × SectorCheck)) (s : State) : State :=
  match tget s.loft.regions k with
  | none => finish seq .ok 0 s
  | some g =>
    let q := loadSectors g.backing (8 * g.count) (foundIn g.backing (512 * g.count) sectors) s
    let put := fun (f : Region → Region) (s : State) => s.modLoft fun l => { l with regions := tmod l.regions k f }
    if q.2.2 then finish seq .badState 0 (put (fun g => { g with state := .defined }) (undefineRows g.first g.count q.1))
    else finish seq .ok 0 (put (fun g => { g with state := .loaded, failedRows := [] }) (putRows g.first q.2.1 q.1))

/-- The requests with which a movement reads its host buffer (R142). -/
def readMoveBuffer (m : Move) (c : Option Cmd) (s : State) : State :=
  match c with
  | some c => if m.readsBuffer ∧ !c.noDma ∧ s.mayRequest c.fn then emitRead c.fn (bufAddr c.entry) (efld c.entry 32 4) s else s
  | none => s

/-- A movement ends. `data`: the bytes of its host buffer, or none where an access of the buffer failed. -/
def endMove (seq : Nat) (m : Move) (data : Option (List Byte)) (flaws : List (Nat × Flips)) (sectors : List (Nat × SectorCheck))
    (s : State) : State :=
  let c := tget s.cmds seq
  let dead := match c with | some c => c.noDma | none => true
  let f := match c with | some c => c.fn.val | none => 0
  let data := if dead then none else data
  let s := { readMoveBuffer m c s with moves := tdel s.moves seq }
  match m with
  | .memWrite x n => endMemWrite seq x n data s
  | .memRead x n buf seen => endMemRead seq f x n buf seen data.isSome flaws sectors s
  | .residentLoad k => endResidentLoad seq k sectors s
  | .graphLoad n slot len => endGraphLoad seq n slot len data s

/-- DATA_MOVEMENT_END: the movement of the command with fetch number `id` has done its work. `data`: the bytes of its
host buffer, or none where an access of the buffer failed; `flaws` and `sectors`: what the checks of rows and of DRAM
sectors find. Its rows join the arbitration of their stalls in class HOST (R227 to R229). -/
def execDataMovementEnd (t : Instant) (id : Nat) (data : Option (List Byte)) (flaws : List (Nat × Flips))
    (sectors : List (Nat × SectorCheck)) (s : State) : Host.Outcome State Fault Refusal :=
  event t (fun s =>
    match tget s.moves id with
    | none => s
    | some m =>
      if moveWaits s id m then s
      else
        let p := passStalls .host (2 ^ 24 + id) (moveRows s m) s
        if p.2 then settle (endMove id m data flaws sectors p.1) else p.1) s

end Sys2Proof.Machine
end

