-- ==== Sys2Proof/Machine/Telemetry.lean ====
section
/-!
DEFINITION. The telemetry blocks and TELEMETRY_READ (R179), and the debug commands (R133 to R136, R180, R181).
-/
namespace Sys2Proof.Machine

/-- Counters of 8 B each, one after the other. -/
def counters (l : List Nat) : List Byte := l.flatMap (le 8)

/-- A counter of 4 B that saturates. -/
def sat4 (n : Nat) : List Byte := le 4 (min n (2 ^ 32 - 1))

/-- The CAMERA block (Table 7.9). -/
def cameraBlock (s : State) (n : Nat) : List Byte :=
  let p := (s.port n).counts
  let c := s.i2cCtl n
  let l := s.lane n
  let lane := counters [l.framesOk, l.framesDamaged, l.framesLate, l.absent, l.dropped, l.processed s.now, l.refused, l.unset,
    l.defects, l.embedDropped, l.highest]
  fit 128 (counters [p.longPackets, p.hdrCorrected, p.hdrBad, p.crcErrors, p.unsupported, p.unmatched, p.phySync,
    p.outOfWindow, p.extra, p.noFrame, p.cutAtTg, c.done, c.failed]) ++ fit 128 lane

/-- Nanoseconds a Halter unit has spent in STOP or DISABLED. -/
def Halter.darkNs (h : Halter) (now : Instant) : Nat :=
  h.counts.stoppedNs + (if h.state.dark then now - h.stoppedSince else 0)

/-- Bits of a list, the first at bit 0. -/
def bitsOf (l : List Bool) : Nat := l.foldr (fun b acc => b2n b + 2 * acc) 0

/-- The HALTER block (Table 11.5). -/
def halterBlock (s : State) (n : Nat) : List Byte :=
  let h := s.halter n
  let c := h.counts
  let d := counters [c.evaluated, c.ignored, c.complete, c.clear, c.stops, c.slows, c.stopsOther, c.acks,
    c.acksIgnored, h.darkNs s.now / 1000]
  let reason := match h.reason with | some r => r.code | none => 0
  fit 128 (d ++ le 4 c.verdictNs ++ le 4 c.pinsNs ++ le 1 h.state.code ++ le 1 reason ++ le 2 (bitsOf h.triggered) ++
    le 1 (b2n h.awaitAck.isSome) ++ le 3 0 ++ le 8 c.whileStopped)

/-- The FABRIC block (Table 12.9). -/
def fabricBlock (s : State) : List Byte :=
  let f := s.fabric
  let c := f.counts
  let d := counters [c.injected, c.dataInjected, c.keyRefused, c.keyRefusedRx, c.nacks, c.noRoute, c.malformed,
    c.expired, c.discarded, c.quiesced, c.calWaits, c.windowWaits, c.tagWaits, c.stalls, c.slips]
  fit 256 (d ++ le 1 f.epoch ++ le 1 (b2n f.switch.isSome) ++ le 2 c.highest ++ le 4 (s.routes f.epoch).timeoutUs) ++
    (List.range 192).flatMap fun k => sat4 ((tget f.latched k).getD 0)

/-- The PLINK block (Table 13.6). -/
def plinkBlock (s : State) (p : Nat) : List Byte :=
  let l := s.plink p
  let c := l.counts
  let d := counters [c.fecCorrected, c.fecLost, c.framesSent, c.framesDelivered, c.badFrames, c.naks, c.attempts,
    c.downs, c.trainFails, c.confirms, c.ticksIgnored, c.abortsForwarded, c.abortRepeats]
  fit 128 (le 1 l.state.code ++ le 1 l.neighbour ++ le 2 l.delay ++ le 4 l.lastStc.toNat ++ d ++
    le 2 c.highestReplay ++ le 6 0 ++ le 8 c.recalJoined)

/-- The state of a region as the LOFT block codes it; a region not in the table is EMPTY. -/
def regionCode (s : State) (r : Nat) : Nat :=
  match tget s.loft.regions r with | some g => g.state.code | none => RegionState.empty.code

/-- Stalls with no free spare (Table 6.7); stall k holds row k. -/
def stallsSpent (l : Loft) : Nat := ((List.range 64).filter fun k => (freeSpare l k).isNone).length

/-- The LOFT block (Table 6.7). -/
def loftBlock (s : State) : List Byte :=
  let l := s.loft
  let c := l.counts
  let head := counters [c.detections, c.byNode, c.byScrub, c.byHost, c.byGate, c.refills, c.readBack, c.mapOuts]
  let lists := le 2 l.map.length ++ le 2 (stallsSpent l) ++ le 2 l.suspect.length ++ le 2 l.badRows.length
  let more := counters ([c.notListed, c.writesRefused, c.outside, c.gateRefusals, c.poisonedBar2] ++
    (List.range 6).map fun k => c.lost.getD k 0)
  fit 192 (head ++ lists ++ more ++ le 4 c.largestWait) ++
    fit 64 ((List.range 32).flatMap fun k => le 1 (regionCode s (2 * k) + 16 * regionCode s (2 * k + 1)))

/-- The data rate of a DRAM_RATE code in MT/s (R509, Table 19.5). -/
def dramMts : Nat → Nat
  | 0 => 6400 | 1 => 7500 | _ => 8533

/-- The DRAM block (Table 14.3). -/
def dramBlock (s : State) (n : Nat) : List Byte :=
  let c := (s.dram.channels.getD n .reset).counts
  let d := counters [c.read, c.written, c.merged, c.corrClient, c.corrScrub, c.uncorrectable, c.poisonReads, c.refused,
    c.cleared, c.notListed, c.refreshes, c.retrains, c.trainings]
  fit 128 (d ++ le 2 s.dram.listed.length ++ le 2 (dramMts s.boot.config.dramRate) ++ le 1 s.boot.config.dramGib)

/-- Idle: no window opens (R590). -/
def State.idle (s : State) : Bool :=
  decide (s.tick.state ≠ .running) && (decide (s.power.state = .active) || decide (s.power.state = .decaf))

/-- The POWER_THERMAL block (Table 17.5). -/
def powerBlock (s : State) : List Byte :=
  let p := s.power
  let sensors := (List.range 8).flatMap fun k => leI 2 (p.sensors.getD k 0)
  fit 128 (le 1 p.state.code ++ le 1 (b2n s.idle + 2 * b2n p.pending.isSome) ++ le 1 p.level ++ le 1 0 ++ sensors ++
    leI 2 p.tmax ++ leI 2 p.highest ++ le 8 0 ++
    counters [p.skippedWindows, p.decafEntries, p.loftScrub, p.loftPromoted, p.dramScrub, p.dramPromoted, p.passes,
      p.slots])

/-- A fault record (Table 16.6). -/
def FaultRecord.bytes (r : FaultRecord) : List Byte :=
  le 4 r.tickno.toNat ++ le 4 (r.ns % 2 ^ 28 + 2 ^ 28 * r.outcome.code + 2 ^ 30 * r.replays) ++ le 1 r.slot ++
    le 1 r.cause ++ le 2 r.node ++ le 4 r.detail

/-- The FAULTS block (Table 16.5). -/
def faultsBlock (s : State) (n : Nat) : List Byte :=
  let f := s.drover.faults.getD n .zero
  let head := counters [f.taken, f.replays, f.closedAfterReplay, f.unrecovered, f.aborted, f.abortsFault]
  let causes := (List.range 17).flatMap fun c => if c = 0 then le 4 0 else sat4 (f.perCause.getD c 0)
  fit 128 (head ++ causes ++ sat4 s.drover.corrected) ++ fit 128 (f.records.flatMap FaultRecord.bytes)

/-- Whether a deferred effect of a kind is pending. -/
def pendingEffect (s : State) (f : Effect → Bool) : Bool := s.deferred.any f

/-- The TALLY block (Table 18.4). -/
def tallyBlock (s : State) : List Byte :=
  let t := s.tally
  let config := pendingEffect s fun e => match e with | .tallyConfig _ => true | _ => false
  let start := pendingEffect s fun e => match e with | .tallyStart => true | _ => false
  let stop := pendingEffect s fun e => match e with | .tallyStop => true | _ => false
  fit 128 (le 1 t.state.code ++ le 1 (bitsOf [config, start, stop]) ++ le 6 0 ++
    counters [t.pos, t.emitted, t.dropped, t.episodes, t.ringBytes, t.portBytes, t.ringLost] ++ le 4 t.highest ++
    le 4 t.configSeq)

/-- Indices of a telemetry class; none where the class is reserved (R179). -/
def telemetryIndices : Nat → Option Nat
  | 1 => some 8 | 2 => some 2 | 3 => some 1 | 4 => some 4 | 5 => some 1 | 6 => some 4 | 7 => some 1 | 8 => some 4
  | 9 => some 1 | _ => none

/-- The block of a class and index (R179). -/
def telemetryBlock (s : State) (cls n : Nat) : List Byte :=
  match cls with
  | 1 => cameraBlock s n
  | 2 => halterBlock s n
  | 3 => fabricBlock s
  | 4 => plinkBlock s n
  | 5 => loftBlock s
  | 6 => dramBlock s n
  | 7 => powerBlock s
  | 8 => faultsBlock s n
  | 9 => tallyBlock s
  | _ => []

/-- TELEMETRY_READ: the block sampled at acceptance, or its leading LEN bytes (R179). -/
def execTelemetryRead (t : Instant) (r : RingRef) (e : Entry) (ok : Bool) (s : State) :
    Host.Outcome State Fault Refusal :=
  let cls := efld e 16 1
  let n := efld e 17 1
  command 0x0B03 t r e
    (fun _ => [layout e [(16, 2), (24, 12)],
      badIf (match telemetryIndices cls with | some k => decide (k ≤ n) | none => true)] ++ bufChecks e 65536 ++
      [(!ok, .hostDmaError)])
    (fun seq s =>
      let s := tracePort s
      writeBuffer seq r.fn (bufAddr e) ((telemetryBlock s cls n).take (efld e 32 4)) ok s) s

end Sys2Proof.Machine
end

