-- ==== Sys2Proof/Machine/TickOps.lean ====
section
/-!
DEFINITION. Ticks, window openings, switches of source, holdover and LOST (02; for the follower 13).
-/
namespace Sys2Proof.Machine

/-! ### Reports (R68, Table 3.7) -/

/-- Causes of TICK events besides the faults. -/
def tickLost : Nat := 3
def tickHoldoverEnter : Nat := 0x10
def tickHoldoverExit : Nat := 0x11
def tickSwitchingEnter : Nat := 0x12
def tickSwitchDone : Nat := 0x13
def tickPausedEnter : Nat := 0x14
def tickPausedExit : Nat := 0x15
def tickLostExit : Nat := 0x16

/-- The code of a TICK_FAULT cause (Table 3.7). -/
def TickFault.code : TickFault → Nat
  | .early => 1 | .missing => 2 | .lost => 3 | .noQualify => 4

/-- A TICK event; causes 1 to 4 are TICK_FAULTs and counted (R68, Table 4.8). -/
def postTick (cause : Nat) (s : State) : State :=
  postAll clsTick cause 0 (if cause ≤ 4 then s.modTick fun t => { t with faults := t.faults + 1 } else s)

/-- A TICK_FAULT (R68). -/
def tickFault (f : TickFault) (s : State) : State := postTick f.code s

/-- TICK events in order. -/
def postTicks (l : List Nat) (s : State) : State := l.foldl (fun s c => postTick c s) s

/-! ### Deferred effects (R107, R147) -/

/-- Whether an STC has been passed: (x − STC) mod 2^32 is 2^31 or more. -/
def stcPassed (now : BitVec 32) (x : Nat) : Bool := decide (2 ^ 31 ≤ (x + 2 ^ 32 - now.toNat) % 2 ^ 32)

/-- The arm of a SYSTEM graph at a tick: it takes effect if the tick carries its START_STC and opened a window, and is dropped
if the tick opened none, or has passed it (R497). -/
def systemArm (opened : Bool) (g : Nat) (s : State) : State :=
  match (s.graph g).bind (·.systemArm) with
  | none => s
  | some spec =>
    let here := decide (spec.startStc = s.tick.stc.toNat)
    if here && opened then
      postGraph g 1 spec.mode 0xFFFF 0 (s.modGraph g fun x =>
        { x with systemArm := none, arm := some { spec := spec, openings := 0 }, missed := 0 })
    else if here || stcPassed s.tick.stc spec.startStc then
      postGraph g 2 spec.mode 0xFFFF 1 (s.modGraph g fun x => { x with systemArm := none })
    else s

/-- The arm of a SYSTEM graph still waits for its START_STC. -/
def armWaits (s : State) (e : Effect) : Bool :=
  match e with | .systemArm g => ((s.graph g).bind (·.systemArm)).isSome | _ => false

/-- One deferred effect takes place at a window opening. -/
def applyEffect (e : Effect) (s : State) : State :=
  match e with
  | .partition n c => setContract n c s
  | .gateOpen k g => s.modLoft fun l => { l with gates := tset l.gates k g }
  | .gateClose k => s.modLoft fun l => { l with gates := tdel l.gates k }
  | .arm g spec =>
    postGraph g 1 spec.mode 0xFFFF 0
      (s.modGraph g fun x => { x with arm := some { spec := spec, openings := 0 }, missed := 0 })
  | .systemArm g => systemArm true g s
  | .disarm g =>
    (match (s.graph g).bind (·.arm) with
     | some a => postGraph g 2 a.spec.mode 0xFFFF 0 (s.modGraph g fun x => { x with arm := none, missed := 0 })
     | none => s)
  | .param g o d => s.modGraph g fun x => { x with param := patch x.param o d }
  | .fsync k on off width div =>
    s.modFsync k fun f =>
      { f with enabled := on, offset := off, width := width, divider := div, skipPosted := false }
  | .xfer k x => s.modI2c k fun c => { c with queue := c.queue ++ [{ x with effect := some s.win.t0 }] }
  | .halterConfig u r => postHalter u 5 [] (s.modHalter u fun h => { h with config := some r })
  | .halterEnable u on =>
    if on then (if (s.halter u).state = .disabled then enterStop u .startup none s else s) else disableHalter u false s
  | .tallyConfig c => applyTallyConfig c s
  | .tallyStart => applyTallyStart s
  | .tallyStop => applyTallyStop s

/-- Every deferred effect that is due takes place, in acceptance order (R107). -/
def applyDeferred (s : State) : State :=
  let t := s.deferred.foldl (fun s e => applyEffect e s) { s with deferred := [] }
  { t with deferred := s.deferred.filter (armWaits t) }

/-- Arms of SYSTEM graphs at a tick that opens no window, or whose STC is learnt after its opening, in acceptance order
(R497). -/
def systemArms (opened : Bool) (s : State) : State :=
  let t := s.deferred.foldl (fun s e => match e with | .systemArm g => systemArm opened g s | _ => s) s
  { t with deferred := t.deferred.filter fun e => match e with | .systemArm _ => armWaits t e | _ => true }

/-! ### Window openings -/

/-- The boundaries of a window opened at t0 (Table 2.1). -/
def windowAt (t : Tick) (t0 : Instant) : Window :=
  let w := 1000 * (t.prm.p - guardUs t.source t.prm.p)
  let tg := t0 + w - (t.qf + t.qe + 1000 * t.prm.m)
  { t0 := t0, td := t0 + w - 1000 * t.prm.r, tg := tg, tf := tg + t.qf, tm := tg + t.qf + t.qe, te := t0 + w,
    phase := .opened, halted := false, skipped := false }

/-- Ranges of DRAM that a MEM_WRITE in progress names (R170). -/
def writingDram (s : State) : List (Nat × Nat) :=
  s.moves.filterMap fun m => match m.2 with | .memWrite x n => if x < dramBase then none else some (x, n) | _ => none

/-- What a window counts starts at zero, and nothing is left of the previous one in stream ports and at the stalls (R54). -/
def freshWindow (s : State) : State :=
  { s with
    drover := { s.drover with graphs := tmap s.drover.graphs fun _ g => { g with activated := false }, fifos := [] },
    loft := { s.loft with scrubDone := 0, gateRows := [], tries := tfilter s.loft.tries fun k _ => decide (2 ^ 24 ≤ k) },
    dram := { s.dram with scrubDone := 0, repeated := [], hostWrote := writingDram s,
                          channels := s.dram.channels.map fun c => { c with corrected := 0 } },
    egress := { s.egress with carafeNext := [0, 0, 0, 0] },
    fabric := { s.fabric with congestion := [] } }

/-- UP ports carry packets of every key (R466). -/
def openLinks (s : State) : State :=
  { s with links := s.links.map fun l => if l.state = .up then { l with tenantOk := true } else l }

/-- Whether an arm activates at its k-th opening (Table 5.5). -/
def activatesAt (a : Arm) : Bool :=
  match a.spec.mode with
  | .everyTick => true
  | .everyNth => decide (a.openings % a.spec.n = a.spec.phase)
  | .once => decide (a.openings = 0)
  | .onFrameStart | .onTether => false

/-- Activations at an opening, in increasing order of tenant and slot; the opening counts for every arm in force
(R193, R196). -/
def activations (s : State) : State :=
  s.drover.graphs.foldl (fun s p =>
    match p.2.arm with
    | some a =>
      let s := s.modGraph p.1 fun g => { g with arm := some { a with openings := a.openings + 1 } }
      if activatesAt a then activate p.1 a.spec s else s
    | none => s) s

/-- The sum of window counts of a skipped window. -/
def skipForHeat (s : State) : State :=
  if heatSkips s then
    (s.modTick fun t => { t with window := t.window.map fun w => { w with skipped := true } }).modPower fun p =>
      { p with skippedWindows := p.skippedWindows + 1 }
  else s

/-- A window opens at t0: TICKNO increments, nothing of the previous window is left in the fabric and on the links, the events
of the tick are posted, a tick that leaves PAUSED switches the epoch, heat is evaluated, deferred effects take place, units that
act at openings act, and armed graphs activate (R38, R54, R107, R193, R441, R598). -/
def openWindow (t0 : Instant) (evs : List Nat) (upset : BitVec 2) (s : State) : State :=
  let s := s.modTick fun t =>
    { t with window := some (windowAt t t0), tickno := t.tickno + 1, lastOpen := t0, win := .zero }
  let s := postTicks evs (clearLinks (clearFabric s))
  let s := if evs.contains tickPausedExit then applyEpoch s else s
  let s := skipForHeat (openingHeat (openLinks (resetTethers (freshWindow s))))
  let s := openXfers (applyDeferred s)
  let s := openFsync (openContexts (openingSync s))
  let s := halterOpening 1 (upset.getLsbD 1) (halterOpening 0 (upset.getLsbD 0) s)
  sweepInsts (activations s)

/-- A tick that opens no window (R57, R61): in PAUSED a pending epoch switch takes effect (R441). -/
def closedTick (evs : List Nat) (s : State) : State :=
  let s := systemArms false (postTicks evs s)
  if s.tick.state = .paused then startTrainings (applyEpoch (openLinks s)) else s

/-- The window that is open ends: what is left of its drain is done first, each step at its own instant (R24, R41, R42). -/
def closeWindow (s : State) : State := (drainTo 5 s).modTick fun t => { t with window := none }

/-- A pending change of P, R and M takes effect (R64, R304). -/
def takeParams (s : State) : State :=
  match s.tick.newParams with
  | some p => { s.modTick (fun t => { t with prm := p, newParams := none }) with
                fsync := s.fsync.map fun f => { f with skipPosted := false } }
  | none => s

/-! ### Source switches (R65, R66, R679) -/

/-- P and G of a source in ns. -/
def periodNs (s : State) : Nat := 1000 * s.tick.prm.p
def guardNs (s : State) (src : TickSource) : Nat := 1000 * guardUs src s.tick.prm.p

/-- The band of the first new-source tick of a switch to TICK_IN: u + kP ± G for the smallest k at least 1 whose end
lies at or after t_k (R679). -/
def newBand (s : State) (u tk : Instant) : Instant × Instant :=
  let p := periodNs s
  let g := guardNs s .tickIn
  let k := max 1 (ceilDiv (tk - g - u) p)
  (u + k * p - g, u + k * p + g)

/-- The first tick of a PLINK follower's timer at or after t_k. -/
def followerFrom (s : State) (u tk : Instant) : Instant :=
  u + max 1 (ceilDiv (tk - u) (periodNs s)) * periodNs s

/-- The switch completes: its source is in force (R66). -/
def finishSwitch (sw : Switch) (s : State) : State :=
  s.modTick fun t => { t with source := sw.source, port := sw.port, switch := none }

/-- Holdover ends; the answer names the event, if any. -/
def endHoldover (s : State) : State × List Nat :=
  (s.modTick fun t => { t with holdover := false, synth := 0 }, if s.tick.holdover then [tickHoldoverExit] else [])

/-- What the pending switch does at a recognised tick t0: the state, the events, and whether the tick may open a
window. `fromNew`: the tick comes from the new source; `paused`: the tick leaves the device in PAUSED. Where t_k of a switch to
TICK_IN or PLINK is also the effect tick of a RESUME, R60 has it open a window and R66 has it open none: it opens none, and the
device enters SWITCHING (assumption log 81). -/
def switchAtTick (t0 : Instant) (fromNew paused : Bool) (s : State) : State × List Nat × Bool :=
  match s.tick.switch with
  | none => (s, [], true)
  | some sw =>
    if fromNew then (finishSwitch sw s, [tickSwitchDone], true)
    else
      match sw.qualified, sw.tk with
      | some _, none =>
        let h := endHoldover s
        (match sw.source with
         | .internal => (finishSwitch sw h.1, h.2 ++ [tickSwitchDone], true)
         | .tickIn =>
           if sw.anchor = some t0 ∧ sw.qualified ≠ some t0 then
             (finishSwitch sw h.1, h.2 ++ (if paused then [] else [tickSwitchingEnter]) ++ [tickSwitchDone], true)
           else (h.1.modTick fun t => { t with switch := some { sw with tk := some t0 }, confirmBy := none, early := none,
                                               due := none }, h.2, false)
         | .plink =>
           let due := followerFrom s (sw.anchor.getD t0) t0
           (h.1.modTick fun t => { t with switch := some { sw with tk := some t0 }, confirmBy := none, early := none,
                                          due := some due }, h.2, false))
      | _, _ => (s, [], true)

/-! ### PAUSE and RESUME at a tick (R58 to R63) -/

/-- The mode a tick at t0 leaves, with the pending PAUSE, RESUME or HALT that takes effect at it consumed: true for
PAUSED. -/
def pauseAtTick (t0 : Instant) (t : Tick) : Tick × Bool :=
  let pauseDue := t.pause.any (· ≤ t0)
  if t.state = .paused then
    if t.resume.any (· ≤ t0) then
      if pauseDue then ({ t with resume := none, pause := none }, true) else ({ t with resume := none }, false)
    else (t, true)
  else if t.haltPending || pauseDue then ({ t with pause := none, haltPending := false }, true)
  else (t, false)

/-- Events of a change of tick state (Table 3.7), apart from those of a switch and of LOST. -/
def stateEvents (old new : TickState) : List Nat :=
  if old = new then []
  else (if old = .paused then [tickPausedExit] else []) ++
    (if new = .paused then [tickPausedEnter] else if new = .switching then [tickSwitchingEnter] else [])

/-- The next tick of a timer, for the source in force: P later for INTERNAL and PLINK (R29, R487). A device that is no
follower sends DEPTH 0 (R485). -/
def timerNext (t0 : Instant) (t : Tick) : Tick :=
  match t.source with
  | .internal => { t with due := some (t0 + 1000 * t.prm.p), depth := 0 }
  | .plink => { t with due := some (t0 + 1000 * t.prm.p) }
  | .tickIn => { t with due := none, depth := 0 }

/-- A tick recognised at t0. `stc`: the STC it carries, for a follower whose block has come; `evs`: TICK events that
precede those of the tick itself (R37, R56 to R66, R70, R485). -/
def tickAt (t0 : Instant) (fromNew : Bool) (stc : Option (BitVec 32)) (evs : List Nat) (upset : BitVec 2)
    (s : State) : State :=
  let s := takeParams (closeWindow s)
  let s := s.modTick fun t => { t with stc := stc.getD (t.stc + 1), last := some t0, startedAt := none, edges := [] }
  let s := emit .tickOut s
  let old := s.tick.state
  let (t, paused) := pauseAtTick t0 s.tick
  let (s, swEvs, mayOpen) := switchAtTick t0 fromNew paused { s with tick := t }
  let new := if paused then TickState.paused else if mayOpen then .running else .switching
  let waiting := s.tick.switch.any fun w => w.tk.isSome
  let s := s.modTick fun t => { (if waiting then t else timerNext t0 t) with state := new }
  let evs := evs ++ swEvs ++ stateEvents old new
  sendTicks (if new = .running then openWindow t0 evs upset s else closedTick evs s)

/-! ### Holdover, LOST and reacquisition (R32 to R35) -/

/-- A tick is synthesised: MISSING and the entry to holdover at the first of them (R32, R33). -/
def synthesise (t0 : Instant) (fromNew : Bool) (upset : BitVec 2) (s : State) : State :=
  let evs := if s.tick.holdover then [] else [TickFault.missing.code, tickHoldoverEnter]
  tickAt t0 fromNew none evs upset (s.modTick fun t => { t with holdover := true, synth := t.synth + 1 })

/-- No window opens any more: what waits for that takes place (R466, R527). -/
def windowsStop (s : State) : State := startTrainings (openLinks s)

/-- Entry to LOST (R34, R35). -/
def enterLost (s : State) : State :=
  let s := closeWindow s
  let t := s.tick
  let ret := if t.state = .paused then (if t.resume.isSome then ReturnTo.running else .paused)
    else if t.pause.isSome || t.haltPending then .paused else .running
  let evs := stateEvents t.state .lost ++ (if t.holdover then [tickHoldoverExit] else [])
  let s := takeParams s
  let s := s.modTick fun t =>
    { t with state := .lost, returnTo := ret, pause := none, haltPending := false, resume := none, switch := none,
             holdover := false, synth := 0, due := none, edges := [], confirmBy := none, early := none }
  raiseAlert alertTickLost (windowsStop (tickFault .lost (postTicks evs s)))

/-- The device reacquires: it enters the return state, and the tick is recognised there (R35, R489). -/
def reacquire (t0 : Instant) (stc : Option (BitVec 32)) (upset : BitVec 2) (s : State) : State :=
  let paused := decide (s.tick.returnTo = .paused)
  let evs := tickLostExit :: (if paused then [tickPausedEnter] else [])
  tickAt t0 false stc evs upset (s.modTick fun t =>
    { t with state := if paused then .paused else .running, synth := 0, holdover := false })

/-- A clock change that waited for a window takes effect as the device enters STOPPED (R591). -/
def enterStopped (s : State) : State :=
  windowsStop (changeClocks (s.modTick fun t =>
    { t with state := .stopped, pause := none, haltPending := false, resume := none, switch := none, startedAt := none,
             edges := [], due := none, holdover := false, synth := 0, confirmBy := none, early := none, last := none }))

end Sys2Proof.Machine
end

