-- ==== Sys2Proof/Machine/TickRows.lean ====
section
/-!
DEFINITION. The tick commands (R27, R57 to R64, R167), and the rows of the tick sources (R29 to R36, R65 to R67, R486 to
R490).
-/
namespace Sys2Proof.Machine

/-! ### Tick sources -/

/-- The tick machine recognises ticks of the source in force: RUNNING or PAUSED, and no switch past t_k. -/
def followsSource (s : State) (src : TickSource) : Bool :=
  decide (s.tick.source = src) && (decide (s.tick.state = .running) || decide (s.tick.state = .paused)) &&
    !(s.tick.switch.any fun w => w.tk.isSome)

/-- The internal timer reaches its tick (R29). -/
def execInternalTick (t : Instant) (upset : BitVec 2) (s : State) : Host.Outcome State Fault Refusal :=
  event t (fun s =>
    match s.tick.due with
    | some d => if followsSource s .internal ∧ d ≤ s.now then tickAt d false none [] upset s else s
    | none => s) s

/-- Two instants of a qualification lie P apart within a tolerance, both ends included. -/
def spaced (p tol a b : Nat) : Bool := decide (p ≤ (b - a) + tol) && decide (b - a ≤ p + tol) && decide (a ≤ b)

/-- Edges that can still qualify with a later one. -/
def recentEdges (p tol : Nat) (now : Instant) (l : List Instant) : List Instant :=
  l.filter fun e => decide (now ≤ e + p + tol)

/-- P of a switch in progress: the configuration in force with what is pending (R148). -/
def switchPeriod (s : State) : Nat := 1000 * (prmSoon s).p

/-- Tolerance of a source's qualification: G for TICK_IN, 200 ns for PLINK (R65, R490). -/
def qualifyTol (src : TickSource) (pUs : Nat) : Nat :=
  match src with | .plink => 200 | _ => 1000 * guardUs src pUs

/-- An edge or block at c while a switch qualifies, or its anchor follows the new source (R65, R679). -/
def followSwitch (sw : Switch) (c : Instant) (s : State) : State :=
  let p := switchPeriod s
  let tol := qualifyTol sw.source (prmSoon s).p
  let sw' := match sw.anchor with
    | none =>
      if sw.edges.any fun e => spaced p tol e c then { sw with qualified := some s.now, anchor := some c, edges := [] }
      else { sw with edges := c :: recentEdges p tol c sw.edges }
    | some u =>
      let k := (c - u + p / 2) / p
      if 1 ≤ k ∧ u + k * p ≤ c + tol ∧ c ≤ u + k * p + tol then { sw with anchor := some c } else sw
  s.modTick fun t => { t with switch := some sw' }

/-- The acceptance band of R30 and R33. -/
def tickBand (s : State) : Instant × Instant :=
  let g := guardNs s .tickIn
  let u := s.tick.last.getD 0 + periodNs s
  (u - g, if s.tick.holdover then u else u + g)

/-- An edge of a start or of a reacquisition: a tick if an earlier edge lies P within G before it (R34, R57). -/
def qualifyEdge (f : State → State) (s : State) : State :=
  let p := periodNs s
  let g := guardNs s .tickIn
  if s.tick.edges.any fun e => spaced p g e s.now then f s
  else s.modTick fun t => { t with edges := s.now :: recentEdges p g s.now t.edges }

/-- An edge while TICK_IN is the source in force (R30, R31, R33, R34, R57). -/
def ownEdge (upset : BitVec 2) (s : State) : State :=
  let now := s.now
  if s.tick.source ≠ .tickIn then s
  else if s.tick.state = .lost then qualifyEdge (fun s => reacquire now none upset s) s
  else if s.tick.startedAt.isSome then qualifyEdge (fun s => tickAt now false none [] upset s) s
  else if followsSource s .tickIn then
    let b := tickBand s
    if now < b.1 then tickFault .early (s.modTick fun t => { t with edgesIgnored := t.edgesIgnored + 1 })
    else if now ≤ b.2 then
      let h := endHoldover s
      tickAt now false none h.2 upset h.1
    else s
  else s

/-- The switch in progress, if it goes to a source. -/
def switchTo (s : State) (src : TickSource) : Option Switch := s.tick.switch.filter fun w => decide (w.source = src)

/-- A rising edge on TICK_IN: for a switch to TICK_IN (R65, R66, R679), else for the source in force. -/
def takeEdge (upset : BitVec 2) (s : State) : State :=
  match switchTo s .tickIn with
  | some sw =>
    (match sw.tk with
     | some tk =>
       let b := newBand s (sw.anchor.getD tk) tk
       if b.1 ≤ s.now ∧ tk ≤ s.now ∧ s.now ≤ b.2 then tickAt s.now true none [] upset s else s
     | none => followSwitch sw s.now s)
  | none => ownEdge upset s

/-- A rising edge on TICK_IN. -/
def execTickInEdge (t : Instant) (upset : BitVec 2) (s : State) : Host.Outcome State Fault Refusal :=
  event t (takeEdge upset) s

/-- The end of an acceptance band without an edge: a tick is synthesised, or the device is LOST after 16 (R32 to R34,
R679). -/
def bandExpiry (upset : BitVec 2) (s : State) : State :=
  match (switchTo s .tickIn).bind fun sw => sw.tk.map fun tk => newBand s (sw.anchor.getD tk) tk with
  | some b => if b.2 ≤ s.now then synthesise b.2 true upset s else s
  | none =>
    if followsSource s .tickIn && s.tick.startedAt.isNone then
      let b := tickBand s
      if b.2 ≤ s.now then (if 16 ≤ s.tick.synth then enterLost s else synthesise b.2 false upset s) else s
    else s

/-- The end of an acceptance band (R32). -/
def execTickInBandExpiry (t : Instant) (upset : BitVec 2) (s : State) : Host.Outcome State Fault Refusal :=
  event t (bandExpiry upset) s

/-- 16 × P without a tick after TICK_START, or without qualification after TICK_CONFIG (R57, R67). -/
def execTickQualifyTimeout (t : Instant) (s : State) : Host.Outcome State Fault Refusal :=
  event t (fun s =>
    match s.tick.startedAt with
    | some a => if a + 16 * periodNs s ≤ s.now then enterStopped (tickFault .noQualify s) else s
    | none =>
      match s.tick.switch with
      | some sw =>
        if sw.qualified.isNone = true ∧ sw.accepted + 16 * switchPeriod s ≤ s.now then
          tickFault .noQualify (s.modTick fun t => { t with switch := none })
        else s
      | none => s) s

/-! ### Source PLINK (R486 to R490) -/

/-- Two instants lie within 200 ns. -/
def near (a b : Nat) : Bool := decide (a ≤ b + 200) && decide (b ≤ a + 200)

/-- DEPTH a follower sends on (R485). -/
def takeDepth (depth : Nat) (s : State) : State := s.modTick fun t => { t with depth := min (depth + 1) 15 }

/-- A block confirms the latest tick, which adopts its STC; the first confirming block ends holdover (R487, R488). -/
def confirmTick (stc : BitVec 32) (s : State) : State :=
  let h := endHoldover s
  let s := postTicks h.2 (h.1.modTick fun t => { t with stc := stc, confirmBy := none })
  let opened := s.tick.window.any fun w => decide (some w.t0 = s.tick.last)
  systemArms opened s

/-- A block confirms the latest tick or the one to come, or is ignored (R487, R488). -/
def steerBy (port : Nat) (c : Instant) (stc : BitVec 32) (depth : Nat) (s : State) : State :=
  if s.tick.last.any (near c) then
    countLink port (fun k => { k with confirms := k.confirms + 1 }) (confirmTick stc (takeDepth depth s))
  else if s.tick.due.any (near c) then
    countLink port (fun k => { k with confirms := k.confirms + 1 })
      ((takeDepth depth s).modTick fun t => { t with early := some (c, stc) })
  else tickFault .early (countLink port (fun k => { k with ticksIgnored := k.ticksIgnored + 1 }) s)

/-- A block of a start or of a reacquisition: a tick if an earlier block lies P ± 200 ns before it (R57, R489). -/
def qualifyBlock (c : Instant) (f : State → State) (s : State) : State :=
  if s.tick.edges.any fun e => spaced (periodNs s) 200 e c then f s
  else s.modTick fun t => { t with edges := c :: recentEdges (periodNs s) 200 c t.edges }

/-- A TICK block from the configured port, or from the port a switch qualifies. -/
def takeBlock (port : Nat) (stc : BitVec 32) (depth : Nat) (upset : BitVec 2) (s : State) : State :=
  let c := s.now - (s.plink port).delay
  let mine := decide (s.tick.source = .plink) && decide (s.tick.port = port)
  match (switchTo s .plink).filter fun sw => decide (sw.port = port) with
  | some sw =>
    if sw.tk.isSome then
      if s.tick.due.any (near c) then (takeDepth depth s).modTick fun t => { t with early := some (c, stc) } else s
    else followSwitch sw c s
  | none =>
    if !mine then s
    else if s.tick.state = .lost then
      qualifyBlock c (fun s => reacquire c (some stc) upset (takeDepth depth s)) s
    else if s.tick.startedAt.isSome then
      qualifyBlock c (fun s => tickAt c false (some stc) [] upset (takeDepth depth s)) s
    else if followsSource s .plink then steerBy port c stc depth s
    else s

/-- A TICK block arrives on a P-link port (R485 to R490). -/
def execPlinkTickBlock (t : Instant) (port : Fin 4) (stc : BitVec 32) (depth : Fin 16) (_holdover : Bool)
    (upset : BitVec 2) (s : State) : Host.Outcome State Fault Refusal :=
  event t (fun s =>
    if (s.plink port).state = .up then
      takeBlock port stc depth upset (s.modLink port fun l => { l with lastStc := stc })
    else s) s

/-- The follower's own tick: confirmed by a block that came early, else to be confirmed (R487, R488). -/
def followerTick (d : Instant) (fromNew : Bool) (upset : BitVec 2) (s : State) : State :=
  let port := match s.tick.switch with | some sw => if fromNew then sw.port else s.tick.port | none => s.tick.port
  match s.tick.early with
  | some (_, stc) =>
    let h := endHoldover s
    tickAt d fromNew (some stc) h.2 upset (h.1.modTick fun t => { t with early := none, confirmBy := none })
  | none =>
    if 16 ≤ s.tick.synth then enterLost s
    else (tickAt d fromNew none [] upset s).modTick fun t =>
      { t with confirmBy := some (d + 200 + (s.plink port).delay) }

/-- The tick timer of a PLINK follower (R487). -/
def execFollowerTick (t : Instant) (upset : BitVec 2) (s : State) : Host.Outcome State Fault Refusal :=
  event t (fun s =>
    match s.tick.due with
    | some d =>
      if d ≤ s.now then
        if followsSource s .plink && s.tick.startedAt.isNone then followerTick d false upset s
        else if (switchTo s .plink).any (fun w => w.tk.isSome) then followerTick d true upset s
        else s
      else s
    | none => s) s

/-- A follower tick that no block has confirmed is synthesised (R488). -/
def execFollowerConfirmExpiry (t : Instant) (s : State) : Host.Outcome State Fault Refusal :=
  event t (fun s =>
    if s.tick.confirmBy.any (· ≤ s.now) then
      let evs := if s.tick.holdover then [] else [TickFault.missing.code, tickHoldoverEnter]
      postTicks evs (s.modTick fun t => { t with confirmBy := none, holdover := true, synth := t.synth + 1 })
    else s) s

/-! ### Commands -/

/-- The source a code names (Table 4.7). -/
def sourceOf : Nat → TickSource
  | 0 => .internal | 1 => .tickIn | _ => .plink

/-- The port of the source once a switch in progress has completed. -/
def portSoon (s : State) : Nat := match s.tick.switch with | some w => w.port | none => s.tick.port

/-- A pending PAUSE, or the entry to PAUSED that HALT has scheduled (R63). -/
def Tick.pausePending (t : Tick) : Bool := t.pause.isSome || t.haltPending

/-- P, R and M of a TICK_CONFIG. -/
def configPrm (e : Entry) : TickParams := { p := efld e 20 4, r := efld e 24 4, m := efld e 18 2 }

/-- Q in ns for a slot length (R39). -/
def quiesceNs (s : State) (m : Nat) : Nat := s.tick.qf + s.tick.qe + 1000 * m

/-- The states and fields in which TICK_CONFIG is refused (R64). -/
def configState (s : State) (prm : TickParams) : Bool :=
  decide (s.tick.state = .switching) || (decide (s.tick.state = .running) && decide (prm ≠ prmSoon s)) ||
    (decide (s.tick.state = .paused) && s.tick.switch.any fun w => w.tk.isSome)

/-- New values of P, R and M in force at once (R304). -/
def setPrm (prm : TickParams) (s : State) : State :=
  if prm = s.tick.prm then s else takeParams (s.modTick fun t => { t with newParams := some prm })

/-- A source switch begins; INTERNAL qualifies at once (R65). -/
def beginSwitch (src : TickSource) (port : Nat) (s : State) : State :=
  let sw : Switch := { source := src, port := port, accepted := s.now, edges := [], anchor := none, tk := none,
                       qualified := if src = .internal then some s.now else none }
  s.modTick fun t => { t with switch := some sw }

/-- TICK_CONFIG where it defers: the change of P, R and M in PAUSED, and the change of source (R64, R65). -/
def deferConfig (seq : Nat) (src : TickSource) (port : Nat) (prm : TickParams) (s : State) : State :=
  if src = srcSoon s ∧ port = portSoon s ∧ prm = prmSoon s then done seq s
  else
    let samePrm := decide (prm = prmSoon s)
    let s := s.modTick fun t => { t with newParams := if prm = t.prm then none else some prm }
    if src = srcSoon s ∧ port = portSoon s then deferredOk seq s
    else if src = s.tick.source ∧ port = s.tick.port then
      let s := s.modTick fun t => { t with switch := none }
      if samePrm then done seq s else deferredOk seq s
    else deferredOk seq (beginSwitch src port s)

/-- TICK_CONFIG where it acts at once: in STOPPED and LOST (R64). -/
def applyConfig (seq : Nat) (src : TickSource) (port : Nat) (prm : TickParams) (s : State) : State :=
  let changed := decide (src ≠ s.tick.source) || decide (port ≠ s.tick.port)
  let s := (setPrm prm s).modTick fun t => { t with source := src, port := port }
  if s.tick.state = .lost ∧ changed = true then
    done seq (postAll clsTick tickLostExit 1 (enterStopped s))
  else done seq s

/-- TICK_CONFIG (R27, R28, R40, R52, R64). -/
def execTickConfig (t : Instant) (r : RingRef) (e : Entry) (s : State) : Host.Outcome State Fault Refusal :=
  let code := efld e 16 1
  let src := sourceOf code
  let port := efld e 17 1
  let prm := configPrm e
  command 0x0301 t r e
    (fun s => [layout e [(16, 12)], badIf (decide (2 < code)),
      badIf (if code = 2 then decide (3 < port) else decide (port ≠ 0)),
      badIf (decide (prm.p < 500) || decide (200000 < prm.p)), badIf (decide (prm.r < 20) || decide (2000 < prm.r)),
      badIf (decide (prm.m < 5) || decide (100 < prm.m)),
      badIf (decide (1000 * prm.r < quiesceNs s prm.m) || decide (openUs src prm < 100)),
      (configState s prm, .badState),
      (decide (openUs src prm < longestArmed (foreseen s) (stretchNow s)), .exceedsWindow)])
    (fun seq s =>
      if s.tick.state = .stopped ∨ s.tick.state = .lost then applyConfig seq src port prm s
      else deferConfig seq src port prm s) s

/-- TICK_START (R57, R485). -/
def execTickStart (t : Instant) (r : RingRef) (e : Entry) (s : State) : Host.Outcome State Fault Refusal :=
  command 0x0302 t r e
    (fun s => [layout e [], (decide (s.tick.state ≠ .stopped), .badState)])
    (fun seq s => done seq (s.modTick fun t =>
      { t with state := .running, tickno := 0, stc := 0, startedAt := some s.now, edges := [], last := none,
               due := if t.source = .internal then some (s.now + 10000) else none, depth := 0 })) s

/-- The earliest effect tick of a command with a delay: at or after a + d, and after a (R58). -/
def effectTick (s : State) (delayUs : Nat) : Instant := max (s.now + 1000 * delayUs) (s.now + 1)

/-- PAUSE is valid (R59). -/
def pauseValid (t : Tick) : Bool :=
  match t.state with
  | .stopped => false
  | .lost => true
  | .running | .switching => !t.pausePending
  | .paused => t.resume.isSome && t.pause.isNone

/-- PAUSE (R35, R58, R59). -/
def execPause (t : Instant) (r : RingRef) (e : Entry) (s : State) : Host.Outcome State Fault Refusal :=
  command 0x0303 t r e (fun s => [layout e [(16, 4)], (!pauseValid s.tick, .badState)])
    (fun seq s =>
      if s.tick.state = .lost then done seq (s.modTick fun t => { t with returnTo := .paused })
      else deferredOk seq (s.modTick fun t => { t with pause := some (effectTick s (efld e 16 4)) })) s

/-- RESUME is valid (R60). -/
def resumeValid (t : Tick) : Bool :=
  match t.state with
  | .stopped => false
  | .lost => true
  | .running | .switching => t.pausePending
  | .paused => t.resume.isNone || t.pause.isSome

/-- RESUME (R35, R60, R63). -/
def execResume (t : Instant) (r : RingRef) (e : Entry) (s : State) : Host.Outcome State Fault Refusal :=
  command 0x0304 t r e (fun s => [layout e [(16, 4)], (!resumeValid s.tick, .badState)])
    (fun seq s =>
      if s.tick.state = .lost then done seq (s.modTick fun t => { t with returnTo := .running })
      else if s.tick.pausePending then done seq (s.modTick fun t => { t with pause := none, haltPending := false })
      else deferredOk seq (s.modTick fun t => { t with resume := some (effectTick s (efld e 16 4)) })) s

/-- HALT in RUNNING or SWITCHING: dispatch and running nodes stop, active instances end HALTED, and the next tick enters
PAUSED (R62, R63). -/
def haltNow (s : State) : State :=
  let s := s.modTick fun t =>
    { t with pause := none, resume := none, haltPending := true,
             window := t.window.map fun w => { w with halted := true } }
  if s.tick.window.isSome then haltAll s else s

/-- HALT (R35, R62, R63). -/
def execHalt (t : Instant) (r : RingRef) (e : Entry) (s : State) : Host.Outcome State Fault Refusal :=
  command 0x0305 t r e (fun s => [layout e [], (decide (s.tick.state = .stopped), .badState)])
    (fun seq s =>
      match s.tick.state with
      | .lost => done seq (s.modTick fun t => { t with returnTo := .paused })
      | .paused => done seq (s.modTick fun t => { t with pause := none, resume := none })
      | _ => done seq (haltNow s)) s

/-- The TICK_STATUS block (Table 4.8). -/
def tickBlock (s : State) : List Byte :=
  let t := s.tick
  let flags := b2n t.holdover + 2 * b2n t.pausePending + 4 * b2n t.resume.isSome + 8 * b2n t.switch.isSome
  let w := t.win
  let short := fun n : Nat => le 2 (min n 0xFFFF)
  let word := fun n : Nat => le 4 (min n 0xFFFFFFFF)
  let head := le 1 t.state.code ++ le 1 t.source.code ++ le 1 flags ++ le 1 0 ++ le 4 t.prm.p ++ le 4 t.prm.r ++
    le 2 t.prm.m ++ le 2 (guardUs t.source t.prm.p) ++ le 4 (quiesceNs s t.prm.m) ++ le 4 t.qf ++ le 4 t.qe ++
    le 4 t.tickno.toNat ++ le 8 t.lastOpen
  let latest := word w.admitted ++ word w.skipped ++ word w.guillotined ++ short w.instSkipped ++
    short w.instTruncated ++ short w.instHalted ++ le 6 0
  let sums := [t.total.admitted, t.total.skipped, t.total.guillotined, t.total.instSkipped, t.total.instTruncated,
    t.total.instHalted].flatMap (le 8)
  head ++ latest ++ sums ++ le 8 t.faults ++ le 4 t.stc.toNat ++ le 4 0

/-- TICK_STATUS (R167). -/
def execTickStatus (t : Instant) (r : RingRef) (e : Entry) (ok : Bool) (s : State) :
    Host.Outcome State Fault Refusal :=
  command 0x0306 t r e
    (fun _ => [layout e [(24, 12)]] ++ bufChecks e 128 ++ [badIf (decide (efld e 32 4 ≠ 128)), (!ok, .hostDmaError)])
    (fun seq s => writeBuffer seq r.fn (bufAddr e) (tickBlock s) ok s) s

end Sys2Proof.Machine
end

