-- ==== Sys2Proof/Machine/Dispatch.lean ====
section
/-!
DEFINITION. One arm per command of the opcode table: the call of its meaning.
-/
namespace Sys2Proof.Machine

/-- The effect of a command on everything but the queue. -/
def exec (i : Instr) (s : State) : Host.Outcome State Fault Refusal :=
  match i with
  | .identify t r e => Sys2Proof.Machine.execIdentify t r e s
  | .ringCreate t r e => Sys2Proof.Machine.execRingCreate t r e s
  | .ringReset t r e => Sys2Proof.Machine.execRingReset t r e s
  | .ringDelete t r e => Sys2Proof.Machine.execRingDelete t r e s
  | .arbSet t r e => Sys2Proof.Machine.execArbSet t r e s
  | .fwUpdate t r e buf => Sys2Proof.Machine.execFwUpdate t r e buf s
  | .fwRestart t r e => Sys2Proof.Machine.execFwRestart t r e s
  | .powerStateSet t r e => Sys2Proof.Machine.execPowerStateSet t r e s
  | .deviceReset t r e => Sys2Proof.Machine.execDeviceReset t r e s
  | .partitionSet t r e buf => Sys2Proof.Machine.execPartitionSet t r e buf s
  | .partitionGet t r e ok => Sys2Proof.Machine.execPartitionGet t r e ok s
  | .partitionReset t r e => Sys2Proof.Machine.execPartitionReset t r e s
  | .tickConfig t r e => Sys2Proof.Machine.execTickConfig t r e s
  | .tickStart t r e => Sys2Proof.Machine.execTickStart t r e s
  | .pause t r e => Sys2Proof.Machine.execPause t r e s
  | .resume t r e => Sys2Proof.Machine.execResume t r e s
  | .halt t r e => Sys2Proof.Machine.execHalt t r e s
  | .tickStatus t r e ok => Sys2Proof.Machine.execTickStatus t r e ok s
  | .memWrite t r e => Sys2Proof.Machine.execMemWrite t r e s
  | .memRead t r e => Sys2Proof.Machine.execMemRead t r e s
  | .residentDefine t r e => Sys2Proof.Machine.execResidentDefine t r e s
  | .residentLoad t r e => Sys2Proof.Machine.execResidentLoad t r e s
  | .residentDelete t r e => Sys2Proof.Machine.execResidentDelete t r e s
  | .gateOpen t r e => Sys2Proof.Machine.execGateOpen t r e s
  | .gateClose t r e => Sys2Proof.Machine.execGateClose t r e s
  | .eccRegionSet t r e => Sys2Proof.Machine.execEccRegionSet t r e s
  | .graphLoad t r e => Sys2Proof.Machine.execGraphLoad t r e s
  | .graphUnload t r e => Sys2Proof.Machine.execGraphUnload t r e s
  | .graphArm t r e => Sys2Proof.Machine.execGraphArm t r e s
  | .graphDisarm t r e => Sys2Proof.Machine.execGraphDisarm t r e s
  | .graphParamSet t r e => Sys2Proof.Machine.execGraphParamSet t r e s
  | .graphStatus t r e => Sys2Proof.Machine.execGraphStatus t r e s
  | .frameAbort t r e => Sys2Proof.Machine.execFrameAbort t r e s
  | .portConfig t r e => Sys2Proof.Machine.execPortConfig t r e s
  | .laneBind t r e => Sys2Proof.Machine.execLaneBind t r e s
  | .laneContextSet t r e buf => Sys2Proof.Machine.execLaneContextSet t r e buf s
  | .fsyncSet t r e => Sys2Proof.Machine.execFsyncSet t r e s
  | .sensorXfer t r e buf => Sys2Proof.Machine.execSensorXfer t r e buf s
  | .halterConfig t r e buf => Sys2Proof.Machine.execHalterConfig t r e buf s
  | .halterEnable t r e => Sys2Proof.Machine.execHalterEnable t r e s
  | .routeLoad t r e buf => Sys2Proof.Machine.execRouteLoad t r e buf s
  | .epochSwitch t r e => Sys2Proof.Machine.execEpochSwitch t r e s
  | .plinkControl t r e => Sys2Proof.Machine.execPlinkControl t r e s
  | .tetherSignal t r e => Sys2Proof.Machine.execTetherSignal t r e s
  | .tetherRead t r e => Sys2Proof.Machine.execTetherRead t r e s
  | .resultRingCreate t r e => Sys2Proof.Machine.execResultRingCreate t r e s
  | .resultRingDelete t r e => Sys2Proof.Machine.execResultRingDelete t r e s
  | .tallyConfig t r e buf => Sys2Proof.Machine.execTallyConfig t r e buf s
  | .tallyControl t r e => Sys2Proof.Machine.execTallyControl t r e s
  | .telemetryRead t r e ok => Sys2Proof.Machine.execTelemetryRead t r e ok s
  | .debugPeek t r e => Sys2Proof.Machine.execDebugPeek t r e s
  | .debugPoke t r e => Sys2Proof.Machine.execDebugPoke t r e s
  | .sqTailDoorbell t r value whole => Sys2Proof.Machine.execSqTailDoorbell t r value whole s
  | .cqHeadDoorbell t r value whole => Sys2Proof.Machine.execCqHeadDoorbell t r value whole s
  | .resultHeadDoorbell t fn ring value => Sys2Proof.Machine.execResultHeadDoorbell t fn ring value s
  | .deviceTimeLoRead t read => Sys2Proof.Machine.execDeviceTimeLoRead t read s
  | .adminEnable t fn => Sys2Proof.Machine.execAdminEnable t fn s
  | .adminDisable t fn => Sys2Proof.Machine.execAdminDisable t fn s
  | .intCauseClear t fn mask => Sys2Proof.Machine.execIntCauseClear t fn mask s
  | .alertStatusClear t fn mask => Sys2Proof.Machine.execAlertStatusClear t fn mask s
  | .registerWrite t fn offset value len => Sys2Proof.Machine.execRegisterWrite t fn offset value len s
  | .bar2Read t fn offset len flaws => Sys2Proof.Machine.execBar2Read t fn offset len flaws s
  | .bar2Write t fn offset data => Sys2Proof.Machine.execBar2Write t fn offset data s
  | .msixUnmask t fn vector => Sys2Proof.Machine.execMsixUnmask t fn vector s
  | .functionLevelReset t fn => Sys2Proof.Machine.execFunctionLevelReset t fn s
  | .busMasterEnableClear t fn => Sys2Proof.Machine.execBusMasterEnableClear t fn s
  | .busMasterEnableSet t host => Sys2Proof.Machine.execBusMasterEnableSet t host s
  | .pcieLinkDown t => Sys2Proof.Machine.execPcieLinkDown t s
  | .fetchGrant t => Sys2Proof.Machine.execFetchGrant t s
  | .sqEntryFetched t r entry => Sys2Proof.Machine.execSqEntryFetched t r entry s
  | .cqModerationTimer t r => Sys2Proof.Machine.execCqModerationTimer t r s
  | .fwRestartBegin t => Sys2Proof.Machine.execFwRestartBegin t s
  | .fwRestartEnd t => Sys2Proof.Machine.execFwRestartEnd t s
  | .fwRestartTimeout t => Sys2Proof.Machine.execFwRestartTimeout t s
  | .acregaWatchdogExpiry t => Sys2Proof.Machine.execAcregaWatchdogExpiry t s
  | .controlMemoryError t => Sys2Proof.Machine.execControlMemoryError t s
  | .internalTick t upset => Sys2Proof.Machine.execInternalTick t upset s
  | .tickInEdge t upset => Sys2Proof.Machine.execTickInEdge t upset s
  | .tickInBandExpiry t upset => Sys2Proof.Machine.execTickInBandExpiry t upset s
  | .tickQualifyTimeout t => Sys2Proof.Machine.execTickQualifyTimeout t s
  | .plinkTickBlock t port stc depth holdover upset => Sys2Proof.Machine.execPlinkTickBlock t port stc depth holdover upset s
  | .followerTick t upset => Sys2Proof.Machine.execFollowerTick t upset s
  | .followerConfirmExpiry t => Sys2Proof.Machine.execFollowerConfirmExpiry t s
  | .drainStart t => Sys2Proof.Machine.execDrainStart t s
  | .guillotine t => Sys2Proof.Machine.execGuillotine t s
  | .fabricQuiesceEnd t => Sys2Proof.Machine.execFabricQuiesceEnd t s
  | .egressFlushEnd t => Sys2Proof.Machine.execEgressFlushEnd t s
  | .maintenanceSlot t failing selfTest drift => Sys2Proof.Machine.execMaintenanceSlot t failing selfTest drift s
  | .nodeDispatch t g node => Sys2Proof.Machine.execNodeDispatch t g node s
  | .nodeEnd t g node parity => Sys2Proof.Machine.execNodeEnd t g node parity s
  | .leaseEnd t tenant entry => Sys2Proof.Machine.execLeaseEnd t tenant entry s
  | .tetherWaitTimeout t g node => Sys2Proof.Machine.execTetherWaitTimeout t g node s
  | .neOverrun t g node => Sys2Proof.Machine.execNeOverrun t g node s
  | .replayResume t g set => Sys2Proof.Machine.execReplayResume t g set s
  | .droverCheck t double => Sys2Proof.Machine.execDroverCheck t double s
  | .csiFrameStart t port vc number hdr => Sys2Proof.Machine.execCsiFrameStart t port vc number hdr s
  | .csiLongPacket t port vc dt data hdr crcOk => Sys2Proof.Machine.execCsiLongPacket t port vc dt data hdr crcOk s
  | .csiEmbeddedData t port vc data hdr crcOk => Sys2Proof.Machine.execCsiEmbeddedData t port vc data hdr crcOk s
  | .csiShortPacket t port vc dt hdr => Sys2Proof.Machine.execCsiShortPacket t port vc dt hdr s
  | .csiFrameEnd t port vc hdr => Sys2Proof.Machine.execCsiFrameEnd t port vc hdr s
  | .frameRecordWrite t lane context => Sys2Proof.Machine.execFrameRecordWrite t lane context s
  | .laneInputTimeout t g node => Sys2Proof.Machine.execLaneInputTimeout t g node s
  | .portQuietEnd t port => Sys2Proof.Machine.execPortQuietEnd t port s
  | .fsyncEdge t output => Sys2Proof.Machine.execFsyncEdge t output s
  | .sensorXferStart t controller => Sys2Proof.Machine.execSensorXferStart t controller s
  | .i2cTransactionEnd t controller result => Sys2Proof.Machine.execI2cTransactionEnd t controller result s
  | .i2cStretchTimeout t controller => Sys2Proof.Machine.execI2cStretchTimeout t controller s
  | .loftRowAccess t stall corrupt => Sys2Proof.Machine.execLoftRowAccess t stall corrupt s
  | .refillEnd t row found readBackOk => Sys2Proof.Machine.execRefillEnd t row found readBackOk s
  | .mapOutEnd t row ok => Sys2Proof.Machine.execMapOutEnd t row ok s
  | .loftScrubRead t corrupt => Sys2Proof.Machine.execLoftScrubRead t corrupt s
  | .gateRequest t gateway => Sys2Proof.Machine.execGateRequest t gateway s
  | .dramSectorRead t addr found reader => Sys2Proof.Machine.execDramSectorRead t addr found reader s
  | .dramFullWrite t addr data => Sys2Proof.Machine.execDramFullWrite t addr data s
  | .dramPartialWrite t addr data found writer => Sys2Proof.Machine.execDramPartialWrite t addr data found writer s
  | .dramScrubRead t found => Sys2Proof.Machine.execDramScrubRead t found s
  | .dramRefresh t channel => Sys2Proof.Machine.execDramRefresh t channel s
  | .idleRetrainTimer t drift => Sys2Proof.Machine.execIdleRetrainTimer t drift s
  | .dramFullTrainingEnd t channel => Sys2Proof.Machine.execDramFullTrainingEnd t channel s
  | .fabricInject t router port what => Sys2Proof.Machine.execFabricInject t router port what s
  | .fabricForward t router output => Sys2Proof.Machine.execFabricForward t router output s
  | .fabricDeliver t router port found => Sys2Proof.Machine.execFabricDeliver t router port found s
  | .fabricResponse t router port => Sys2Proof.Machine.execFabricResponse t router port s
  | .requestExpiry t router port tag => Sys2Proof.Machine.execRequestExpiry t router port tag s
  | .tagHoldbackEnd t router port tag => Sys2Proof.Machine.execTagHoldbackEnd t router port tag s
  | .plinkTrainingEnd t port result => Sys2Proof.Machine.execPlinkTrainingEnd t port result s
  | .trainRetryTimer t port => Sys2Proof.Machine.execTrainRetryTimer t port s
  | .downHoldEnd t port => Sys2Proof.Machine.execDownHoldEnd t port s
  | .linkFrameReceived t port seq h0 h1 rest whole => Sys2Proof.Machine.execLinkFrameReceived t port seq h0 h1 rest whole s
  | .fecCodeword t port symbols => Sys2Proof.Machine.execFecCodeword t port symbols s
  | .linkCtlReceived t port fields => Sys2Proof.Machine.execLinkCtlReceived t port fields s
  | .partnerBlockReceived t port blockType => Sys2Proof.Machine.execPartnerBlockReceived t port blockType s
  | .recalBlockReceived t port => Sys2Proof.Machine.execRecalBlockReceived t port s
  | .replayTimer t port => Sys2Proof.Machine.execReplayTimer t port s
  | .ackTimer t port => Sys2Proof.Machine.execAckTimer t port s
  | .noAckTimeout t port => Sys2Proof.Machine.execNoAckTimeout t port s
  | .fecLockLost t port => Sys2Proof.Machine.execFecLockLost t port s
  | .idleRecalTimer t => Sys2Proof.Machine.execIdleRecalTimer t s
  | .abortReceived t port => Sys2Proof.Machine.execAbortReceived t port s
  | .fwMsgReceived t port msg => Sys2Proof.Machine.execFwMsgReceived t port msg s
  | .bootPush t port package => Sys2Proof.Machine.execBootPush t port package s
  | .halterTile t unit from_ pair tx ty => Sys2Proof.Machine.execHalterTile t unit from_ pair tx ty s
  | .halterAckQualified t unit edge => Sys2Proof.Machine.execHalterAckQualified t unit edge s
  | .halterDeadline t unit => Sys2Proof.Machine.execHalterDeadline t unit s
  | .halterGap t unit => Sys2Proof.Machine.execHalterGap t unit s
  | .halterTileGap t unit pair => Sys2Proof.Machine.execHalterTileGap t unit pair s
  | .halterPinMismatch t unit => Sys2Proof.Machine.execHalterPinMismatch t unit s
  | .egressPageGrant t corrupt credits => Sys2Proof.Machine.execEgressPageGrant t corrupt credits s
  | .egressDescriptor t tenant ring credits => Sys2Proof.Machine.execEgressDescriptor t tenant ring credits s
  | .resultModerationTimer t tenant ring => Sys2Proof.Machine.execResultModerationTimer t tenant ring s
  | .thermalSample t readings => Sys2Proof.Machine.execThermalSample t readings s
  | .thermalEvaluation t => Sys2Proof.Machine.execThermalEvaluation t s
  | .thermtrip t => Sys2Proof.Machine.execThermtrip t s
  | .tallyRingWrite t last => Sys2Proof.Machine.execTallyRingWrite t last s
  | .tallyOverflowResume t => Sys2Proof.Machine.execTallyOverflowResume t s
  | .powerGoodChange t aon core io vddIo18 testEn => Sys2Proof.Machine.execPowerGoodChange t aon core io vddIo18 testEn s
  | .perstNAssert t => Sys2Proof.Machine.execPerstNAssert t s
  | .perstNRelease t bootSel pcieWidth testEn => Sys2Proof.Machine.execPerstNRelease t bootSel pcieWidth testEn s
  | .warmReset t bootSel => Sys2Proof.Machine.execWarmReset t bootSel s
  | .loftSelfTestEnd t failingSpares failingRows => Sys2Proof.Machine.execLoftSelfTestEnd t failingSpares failingRows s
  | .dramTrainingEnd t ok gibPerChannel => Sys2Proof.Machine.execDramTrainingEnd t ok gibPerChannel s
  | .bootCandidateRead t source package => Sys2Proof.Machine.execBootCandidateRead t source package s
  | .pcieEndpointReady t => Sys2Proof.Machine.execPcieEndpointReady t s
  | .jtagInstruction t instr => Sys2Proof.Machine.execJtagInstruction t instr s
  | .dataMovementEnd t id data flaws sectors => Sys2Proof.Machine.execDataMovementEnd t id data flaws sectors s
  | .flashWriteEnd t ok => Sys2Proof.Machine.execFlashWriteEnd t ok s
  | .powerStateChangeEnd t => Sys2Proof.Machine.execPowerStateChangeEnd t s
  | .acregaReady t qf qe fuseOk => Sys2Proof.Machine.execAcregaReady t qf qe fuseOk s
  | .halterHeartbeatEdge t unit => Sys2Proof.Machine.execHalterHeartbeatEdge t unit s

end Sys2Proof.Machine
end

