-- ==== Sys2Proof/Safety.lean ====
section
/-!
DEFINITION. What a sound state of the device is, in the terms the statements use.
-/
namespace Sys2Proof.Machine

/-- The two memories are in their canonical form. -/
def State.memoryOk (s : State) : Prop := s.loft.mem.wf = true ∧ s.dram.mem.wf = true

/-- The state holds as many of each unit as the device has (R1, R71, R266, R399). -/
def State.shape (s : State) : Prop :=
  s.fns.length = 4 ∧ s.contracts.length = 4 ∧ s.ports.length = 8 ∧ s.ctxs.length = 32 ∧ s.lanes.length = 8 ∧
  s.fsync.length = 8 ∧ s.i2c.length = 8 ∧ s.halters.length = 2 ∧ s.links.length = 4 ∧ s.drover.tethers.length = 512 ∧
  s.drover.faults.length = 4 ∧ s.dram.channels.length = 4

/-- The pins of a Halter unit say its state: in STOP and DISABLED both are low, HALTER_SLOW is high and no heartbeat edge
is due; otherwise the two differ, and HALTER_SLOW is high exactly in SLOW (R413, R414). After THERMTRIP both are low in
every state (R601). -/
def Halter.pinsOk (trip : Bool) (h : Halter) : Bool :=
  (trip && !h.pinA && !h.pinB) ||
    if h.state.dark then !h.pinA && !h.pinB && h.pinSlow && h.edgeDue.isNone
    else (h.pinA != h.pinB) && (h.pinSlow == decide (h.state = .slow))

/-- Every Halter unit's pins say its state. -/
def State.pinsOk (s : State) : Prop := ∀ h ∈ s.halters, h.pinsOk s.pins.thermtrip = true

/-- Tenants share nothing: no two contracts in force or pending of different tenants clash (R163). -/
def contractsApart (cs : List Contract) (ds : List Effect) : Prop :=
  (∀ a b, a < 4 → b < 4 → a ≠ b → contractsClash (cs.getD a (.reset a)) (cs.getD b (.reset b)) = false) ∧
  (∀ n c b, Effect.partition n c ∈ ds → b < 4 → n ≠ b → contractsClash c (cs.getD b (.reset b)) = false) ∧
  ∀ n c m d, Effect.partition n c ∈ ds → Effect.partition m d ∈ ds → n ≠ m → contractsClash c d = false

/-- Contracts of the state are apart. -/
def State.contractsOk (s : State) : Prop := contractsApart s.contracts s.deferred

/-- The state in which an Acrega command takes its effect: device time is its acceptance instant, and the command is marked
accepted (R103). -/
def accepted (seq : Nat) (t : Instant) (s : State) : State := markAccepted seq (advance t s)

/-- A command of an opcode is accepted at `t` and passes the checks every command has: it is at the front of its ring and
may be accepted (R103 to R105), its start timeout is not over (R117), its header is sound (R86), and in a Standby state it is
one of those accepted there (R595). `seq` is its fetch order and `c` its record. -/
structure Accepts (op : Nat) (t : Instant) (r : RingRef) (e : Entry) (seq : Nat) (c : Cmd) (s : State) : Prop where
  front : takeFront op r e (advance t s) = some (seq, c)
  inTime : timedOut (accepted seq t s) c = false
  header : badHeader e = false
  awake : s.inStandby = false ∨ op ∈ standbyOpcodes

/-- What the host sees of a function but its rings, its vectors and what waits for it. -/
def Func.inner (x : Func) : Func :=
  { x with
    ready := false, error := false, cause := .none, intCause := 0, eventsLost := 0, timeouts := 0, msix := [], rings := [],
    stops := [], backlog := [], dropped := 0, held := [] }

/-- The state but device time, what the device sends, and the queues to and from the host. -/
def State.inner (s : State) : State :=
  { s with now := 0, out := [], fns := s.fns.map Func.inner, cmds := [], lastAccept := none }

/-- The Acrega command of a row: its opcode (Tables 4.4 to 4.15), its instant, its ring and its entry; none for the other
rows. -/
def acregaOf : Instr → Option (Nat × Instant × RingRef × Entry)
  | .identify t r e => some (0x0101, t, r, e)
  | .ringCreate t r e => some (0x0102, t, r, e)
  | .ringReset t r e => some (0x0103, t, r, e)
  | .ringDelete t r e => some (0x0104, t, r, e)
  | .arbSet t r e => some (0x0105, t, r, e)
  | .fwUpdate t r e _ => some (0x0106, t, r, e)
  | .fwRestart t r e => some (0x0107, t, r, e)
  | .powerStateSet t r e => some (0x0108, t, r, e)
  | .deviceReset t r e => some (0x0109, t, r, e)
  | .partitionSet t r e _ => some (0x0201, t, r, e)
  | .partitionGet t r e _ => some (0x0202, t, r, e)
  | .partitionReset t r e => some (0x0203, t, r, e)
  | .tickConfig t r e => some (0x0301, t, r, e)
  | .tickStart t r e => some (0x0302, t, r, e)
  | .pause t r e => some (0x0303, t, r, e)
  | .resume t r e => some (0x0304, t, r, e)
  | .halt t r e => some (0x0305, t, r, e)
  | .tickStatus t r e _ => some (0x0306, t, r, e)
  | .memWrite t r e => some (0x0401, t, r, e)
  | .memRead t r e => some (0x0402, t, r, e)
  | .residentDefine t r e => some (0x0403, t, r, e)
  | .residentLoad t r e => some (0x0404, t, r, e)
  | .residentDelete t r e => some (0x0405, t, r, e)
  | .gateOpen t r e => some (0x0406, t, r, e)
  | .gateClose t r e => some (0x0407, t, r, e)
  | .eccRegionSet t r e => some (0x0408, t, r, e)
  | .graphLoad t r e => some (0x0501, t, r, e)
  | .graphUnload t r e => some (0x0502, t, r, e)
  | .graphArm t r e => some (0x0503, t, r, e)
  | .graphDisarm t r e => some (0x0504, t, r, e)
  | .graphParamSet t r e => some (0x0505, t, r, e)
  | .graphStatus t r e => some (0x0506, t, r, e)
  | .frameAbort t r e => some (0x0507, t, r, e)
  | .portConfig t r e => some (0x0601, t, r, e)
  | .laneBind t r e => some (0x0602, t, r, e)
  | .laneContextSet t r e _ => some (0x0603, t, r, e)
  | .fsyncSet t r e => some (0x0604, t, r, e)
  | .sensorXfer t r e _ => some (0x0605, t, r, e)
  | .halterConfig t r e _ => some (0x0701, t, r, e)
  | .halterEnable t r e => some (0x0702, t, r, e)
  | .routeLoad t r e _ => some (0x0801, t, r, e)
  | .epochSwitch t r e => some (0x0802, t, r, e)
  | .plinkControl t r e => some (0x0803, t, r, e)
  | .tetherSignal t r e => some (0x0901, t, r, e)
  | .tetherRead t r e => some (0x0902, t, r, e)
  | .resultRingCreate t r e => some (0x0A01, t, r, e)
  | .resultRingDelete t r e => some (0x0A02, t, r, e)
  | .tallyConfig t r e _ => some (0x0B01, t, r, e)
  | .tallyControl t r e => some (0x0B02, t, r, e)
  | .telemetryRead t r e _ => some (0x0B03, t, r, e)
  | .debugPeek t r e => some (0x0C01, t, r, e)
  | .debugPoke t r e => some (0x0C02, t, r, e)
  | _ => none

/-- A command waits for another on the same object to end (a ring being reset or deleted, the flash, a region being loaded, a
graph whose image is being read: R106), or for the read of its host buffer, which Bus Master Enable forbids (R78). -/
def waitsFor (i : Instr) (s : State) : Bool :=
  match i with
  | .ringCreate _ _ e | .ringReset _ _ e | .ringDelete _ _ e => ringBusy s e
  | .fwUpdate _ r _ _ => s.flash.isSome || !bufferReady s r.fn
  | .partitionSet _ r _ _
  | .laneContextSet _ r _ _
  | .sensorXfer _ r _ _
  | .halterConfig _ r _ _
  | .routeLoad _ r _ _
  | .tallyConfig _ r _ _ => !bufferReady s r.fn
  | .residentLoad _ _ e | .residentDelete _ _ e => loadingRegion s (efld e 17 1)
  | .graphLoad _ _ e
  | .graphUnload _ _ e
  | .graphArm _ _ e
  | .graphDisarm _ _ e
  | .graphParamSet _ _ e
  | .graphStatus _ _ e
  | .frameAbort _ _ e => graphBusy s e
  | _ => false

/-- What every step keeps: canonical memories, as many of each unit as the device has, Halter pins that say their state,
tenants that share nothing. -/
structure State.Sound (s : State) : Prop where
  memory : s.memoryOk
  shape : s.shape
  pins : s.pinsOk
  contracts : s.contractsOk

end Sys2Proof.Machine
end

