-- ==== Sys2Proof/Certificates/Slice0/Obligations.lean ====
section
/-!
DEFINITION. The statements about the model that provers settle.
-/
open Sys2Proof Sys2Proof.Machine

/-! ### Commands of groups 0x01 and 0x02 -/

/-- IDENTIFY, RING_CREATE, RING_RESET, RING_DELETE and ARB_SET take their effect (Table 4.4; R101, R106, R114, R156, R157):
where no check fails and no earlier stop of the ring is at work, IDENTIFY returns the capabilities, RING_CREATE makes an empty
ring with phase 1, RING_RESET and RING_DELETE stop the ring and complete once every command accepted from it has, and ARB_SET
changes the weights that are not 0. -/
def Obligations.RingCommandsTakeEffect : Prop :=
  ∀ (t : Instant) (r : RingRef) (e : Entry) (seq : Nat) (c : Cmd) (s : State),
    let a := accepted seq t s
    let f := efld e 16 1
    let k := efld e 17 1
    (Accepts 0x0101 t r e seq c s → unusedZero e [] = true →
      exec (.identify t r e) s = .next (settle (finish seq .ok
        (resultBytes [(20, 4 * s.boot.config.dramGib), (22, s.boot.config.chip), (23, s.boot.config.devices),
          (24, s.loft.map.length)]) a))) ∧
    (Accepts 0x0102 t r e seq c s → unusedZero e [(16, 5), (22, 4), (32, 16)] = true → f ≤ 3 → k ≠ 0 →
      efld e 18 1 % 16 ≤ 8 → efld e 18 1 / 16 ≤ 8 → 1 ≤ efld e 19 1 → efld e 19 1 ≤ 16 → efld e 20 1 ≤ 31 →
      1 ≤ efld e 22 2 → efld e 22 2 ≤ 256 → efld e 24 2 ≤ 1000 → efld e 32 8 % 4096 = 0 → efld e 40 8 % 4096 = 0 →
      ringBusy s e = false → s.ring f k = none →
      exec (.ringCreate t r e) s = .next (settle (finish seq .ok 0 (a.modFn f fun x => { x with
        rings := tset x.rings k
          { sqBase := BitVec.ofNat 64 (efld e 32 8), cqBase := BitVec.ofNat 64 (efld e 40 8), sqLog := efld e 18 1 % 16,
            cqLog := efld e 18 1 / 16, weight := efld e 19 1, vector := efld e 20 1, cqCount := efld e 22 2,
            cqTimeUs := efld e 24 2, sqHead := 0, sqTail := 0, cqHead := 0, cqTail := 0, phase := true, reserved := 0,
            error := false, cause := .none, tails := [], unsignalled := 0, oldest := none, stop := none,
            closing := false } })))) ∧
    (Accepts 0x0103 t r e seq c s → unusedZero e [(16, 2)] = true → f ≤ 3 → k ≠ 0 → ¬(f = r.fn ∧ k = r.ring) →
      ringBusy s e = false → (s.ring f k).isSome →
      exec (.ringReset t r e) s =
        .next (settle (a.modRing f k fun g => { g with stop := some { delete := false, by_ := seq } }))) ∧
    (Accepts 0x0104 t r e seq c s → unusedZero e [(16, 2)] = true → f ≤ 3 → k ≠ 0 → ¬(f = r.fn ∧ k = r.ring) →
      ringBusy s e = false → (s.ring f k).isSome →
      exec (.ringDelete t r e) s =
        .next (settle (a.modRing f k fun g => { g with stop := some { delete := true, by_ := seq } }))) ∧
    (Accepts 0x0105 t r e seq c s → unusedZero e [(16, 4)] = true → (∀ i < 4, efld e (16 + i) 1 ≤ 16) →
      exec (.arbSet t r e) s = .next (settle (finish seq .ok 0 ([0, 1, 2, 3].foldl (fun u i =>
        if efld e (16 + i) 1 = 0 then u else u.modFn i fun x => { x with weight := efld e (16 + i) 1 }) a))))

/-- FW_UPDATE, FW_RESTART and DEVICE_RESET take their effect (R158, R160, R632, R633, R639, R645, R646): an update of a package
reads its host buffer and leaves the slot that is not active empty from its acceptance; one that passes its checks starts writing
the flash, and one that does not completes with the code of the first check it fails; a restart and a warm reset are due once
the CQ entry is written. -/
def Obligations.FirmwareCommandsTakeEffect : Prop :=
  ∀ (t : Instant) (r : RingRef) (e : Entry) (d : List Byte) (seq : Nat) (c : Cmd) (s : State),
    let a := accepted seq t s
    let p := fit (efld e 32 4) d
    let b := readBuffer r.fn e { a with boot := { a.boot with slots := a.boot.slots.set (1 - activeSlot a) (some []) } }
    (Accepts 0x0106 t r e seq c s → s.mayRequest r.fn = true → unusedZero e [(24, 12)] = true → s.flash = none →
      efld e 24 8 % 64 = 0 → 5248 ≤ efld e 32 4 → efld e 32 4 ≤ 2 ^ 25 →
      exec (.fwUpdate t r e (some d)) s = .next (settle (
        if zeros p 0 64 = false then finish seq .badParam 0 b
        else if (imageRules p && configOk (configOf p)) = false then finish seq .badImage 0 b
        else if signatureOk b p = false then finish seq .authFailed 0 b
        else if securityVersion p < s.part.rollback then finish seq .rollback 0 b
        else { b with flash := some { cmd := seq, slot := 1 - activeSlot b, seq := nextSeq b, package := p } }))) ∧
    (Accepts 0x0106 t r e seq c s → s.mayRequest r.fn = true → unusedZero e [(24, 12)] = true → s.flash = none →
      efld e 24 8 % 64 = 0 → 5248 ≤ efld e 32 4 → efld e 32 4 ≤ 2 ^ 25 →
      exec (.fwUpdate t r e none) s = .next (settle (finish seq .hostDmaError 0 b))) ∧
    (Accepts 0x0107 t r e seq c s → unusedZero e [] = true →
      ∃ u, u = finish seq .ok 0 a ∧
        exec (.fwRestart t r e) s = .next (settle { u with fw := { u.fw with restartDue := true } })) ∧
    (Accepts 0x0109 t r e seq c s → unusedZero e [(16, 1)] = true → efld e 16 1 = 0 →
      ∃ u, u = finish seq .ok 0 a ∧
        exec (.deviceReset t r e) s = .next (settle { u with fw := { u.fw with resetDue := true } }))

/-- POWER_STATE_SET takes its effect (R159, R591, R593, R594): in RUNNING it records or cancels the pending clock change, in
STOPPED it starts the change. DECAF needs a window that its stretched graphs fit. -/
def Obligations.PowerStateSetTakesEffect : Prop :=
  ∀ (t : Instant) (r : RingRef) (e : Entry) (seq : Nat) (c : Cmd) (s : State),
    let a := accepted seq t s
    let p := powerOf (efld e 16 1)
    Accepts 0x0108 t r e seq c s → unusedZero e [(16, 1)] = true → efld e 16 1 ≤ 3 → s.power.job = none →
    (p = .decaf → longestArmed (foreseen a) true ≤ openUs (srcSoon a) (prmSoon a)) →
    (s.tick.state = .running → (p = .active ∨ p = .decaf) →
      (s.power.state = p →
        exec (.powerStateSet t r e) s = .next (settle (finish seq .ok 0 (a.modPower fun x => { x with pending := none })))) ∧
      (s.power.state ≠ p → exec (.powerStateSet t r e) s =
        .next (settle (finish seq .deferred 0 (a.modPower fun x => { x with pending := some (p, a.now) }))))) ∧
    (s.tick.state = .stopped →
      (p = .active ∨ p = .decaf → s.power.state = .standby ∨ s.power.state = .standbyRetain) →
      exec (.powerStateSet t r e) s = .next (settle (a.modPower fun x => { x with job := some { target := p, cmd := seq } })))

/-- PARTITION_SET, PARTITION_GET and PARTITION_RESET take their effect (Table 4.5; R142, R161 to R166): the host buffer is read,
and a sound contract of a tenant not in use that clashes with no other is recorded for the next opening while windows open and
is in force at once otherwise; PARTITION_GET writes the record of the contract in force. -/
def Obligations.PartitionCommandsTakeEffect : Prop :=
  ∀ (t : Instant) (r : RingRef) (e : Entry) (d : List Byte) (seq : Nat) (c : Cmd) (s : State),
    let a := accepted seq t s
    let p := fit 256 d
    let n := fld p 0 1
    let k := efld e 16 1
    let take := fun (m : Nat) (x : Contract) (u : State) => if s.tick.state = .running ∨ s.tick.state = .switching then
        finish seq .deferred 0 { u with deferred := a.deferred ++ [.partition m x] }
      else finish seq .ok 0 { u with contracts := a.contracts.set m x }
    (Accepts 0x0201 t r e seq c s → s.mayRequest r.fn = true → unusedZero e [(24, 12)] = true → efld e 24 8 % 64 = 0 → efld e 32 4 = 256 →
      contractOk a p = true → tenantInUse a n = false → contractConflict a n (parseContract p) = false →
      exec (.partitionSet t r e (some d)) s = .next (settle (take n (parseContract p) (readBuffer r.fn e a)))) ∧
    (Accepts 0x0202 t r e seq c s → unusedZero e [(16, 1), (24, 12)] = true → k ≤ 3 → efld e 24 8 % 64 = 0 →
      efld e 32 4 = 256 →
      exec (.partitionGet t r e true) s = .next (settle (finish seq .ok 0
        (hostWrite r.fn (BitVec.ofNat 64 (efld e 24 8)) (contractRecord k (s.contract k)) a)))) ∧
    (Accepts 0x0203 t r e seq c s → unusedZero e [(16, 1)] = true → k ≤ 3 → tenantInUse a k = false →
      contractConflict a k (.reset k) = false →
      exec (.partitionReset t r e) s = .next (settle (take k (.reset k) a)))

/-! ### Commands of group 0x03 -/

/-- TICK_CONFIG takes its effect (R27, R28, R40, R52, R64): where its operands are in range, its window holds Q and leaves 100
µs of OPEN, and its graphs fit, it is in force at once in STOPPED and LOST and deferred elsewhere. In STOPPED its source and
port are in force and its P, R and M are those of the machine. -/
def Obligations.TickConfigTakesEffect : Prop :=
  ∀ (t : Instant) (r : RingRef) (e : Entry) (seq : Nat) (c : Cmd) (s : State),
    let a := accepted seq t s
    let code := efld e 16 1
    let port := efld e 17 1
    let prm : TickParams := { p := efld e 20 4, r := efld e 24 4, m := efld e 18 2 }
    let q := s.tick.qf + s.tick.qe + 1000 * prm.m
    let opens := prm.p - (if code = 1 then ceilDiv prm.p 50 else 0) - prm.r
    Accepts 0x0301 t r e seq c s → unusedZero e [(16, 12)] = true → code ≤ 2 →
    (if code = 2 then port ≤ 3 else port = 0) → 500 ≤ prm.p → prm.p ≤ 200000 → 20 ≤ prm.r → prm.r ≤ 2000 → 5 ≤ prm.m →
    prm.m ≤ 100 → q ≤ 1000 * prm.r → 100 ≤ opens → s.tick.state ≠ .switching →
    (s.tick.state = .running → prm = prmSoon s) →
    (s.tick.state = .paused → ∀ w, s.tick.switch = some w → w.tk = none) →
    longestArmed (foreseen a) (stretchNow a) ≤ opens →
    exec (.tickConfig t r e) s = .next (settle (if s.tick.state = .stopped ∨ s.tick.state = .lost then
        applyConfig seq (sourceOf code) port prm a else deferConfig seq (sourceOf code) port prm a)) ∧
    (s.tick.state = .stopped → ∃ v, exec (.tickConfig t r e) s = .next (settle (finish seq .ok 0 v)) ∧
      v.tick = { s.tick with
        source := if code = 0 then .internal else if code = 1 then .tickIn else .plink
        port := port
        prm := prm
        newParams := if prm = s.tick.prm then s.tick.newParams else none } ∧
      ({ v with tick := a.tick, fsync := a.fsync } : State) = a)

/-- TICK_START in STOPPED takes its effect at once (R57, R485): RUNNING, TICKNO and STC 0, and with INTERNAL a first tick 10
µs after acceptance. TICK_STATUS writes its block (R167). -/
def Obligations.TickStartAndStatusTakeEffect : Prop :=
  ∀ (t : Instant) (r : RingRef) (e : Entry) (seq : Nat) (c : Cmd) (s : State),
    let a := accepted seq t s
    (Accepts 0x0302 t r e seq c s → unusedZero e [] = true → s.tick.state = .stopped →
      exec (.tickStart t r e) s = .next (settle (finish seq .ok 0 { a with
        tick := { a.tick with
          state := .running, tickno := 0, stc := 0, startedAt := some a.now, edges := [], last := none, depth := 0
          due := if a.tick.source = .internal then some (a.now + 10000) else none } }))) ∧
    (Accepts 0x0306 t r e seq c s → unusedZero e [(24, 12)] = true → efld e 24 8 % 64 = 0 → efld e 32 4 = 128 →
      exec (.tickStatus t r e true) s = .next (settle (finish seq .ok 0
        (hostWrite r.fn (BitVec.ofNat 64 (efld e 24 8)) (tickBlock a) a))))

/-- PAUSE, RESUME and HALT take their effect (R35, R58 to R63): in LOST they choose the return state; in RUNNING and SWITCHING
PAUSE with no pause pending and RESUME with one pending set and cancel the pause; in PAUSED, PAUSE after a pending RESUME and
RESUME are recorded for their effect tick, and a RESUME cancels a pause pending after an earlier
RESUME (the model's reading, assumption log 22); HALT cancels what is
pending and, in a window, ends every instance. -/
def Obligations.PauseCommandsTakeEffect : Prop :=
  ∀ (t : Instant) (r : RingRef) (e : Entry) (seq : Nat) (c : Cmd) (s : State),
    let a := accepted seq t s
    let at_ := max (a.now + 1000 * efld e 16 4) (a.now + 1)
    let pausing := s.tick.pause.isSome ∨ s.tick.haltPending = true
    (Accepts 0x0303 t r e seq c s → unusedZero e [(16, 4)] = true →
      (s.tick.state = .lost → exec (.pause t r e) s =
        .next (settle (finish seq .ok 0 (a.modTick fun x => { x with returnTo := .paused })))) ∧
      ((s.tick.state = .running ∨ s.tick.state = .switching) ∧ ¬pausing ∨
        s.tick.state = .paused ∧ s.tick.resume.isSome ∧ s.tick.pause = none →
        exec (.pause t r e) s = .next (settle (finish seq .deferred 0 (a.modTick fun x => { x with pause := some at_ }))))) ∧
    (Accepts 0x0304 t r e seq c s → unusedZero e [(16, 4)] = true →
      (s.tick.state = .lost → exec (.resume t r e) s =
        .next (settle (finish seq .ok 0 (a.modTick fun x => { x with returnTo := .running })))) ∧
      ((s.tick.state = .running ∨ s.tick.state = .switching) ∧ pausing ∨
        s.tick.state = .paused ∧ s.tick.resume.isSome ∧ s.tick.pause.isSome → exec (.resume t r e) s =
        .next (settle (finish seq .ok 0 (a.modTick fun x => { x with pause := none, haltPending := false })))) ∧
      (s.tick.state = .paused ∧ s.tick.resume = none ∧ ¬pausing → exec (.resume t r e) s =
        .next (settle (finish seq .deferred 0 (a.modTick fun x => { x with resume := some at_ }))))) ∧
    (Accepts 0x0305 t r e seq c s → unusedZero e [] = true →
      (s.tick.state = .lost → exec (.halt t r e) s =
        .next (settle (finish seq .ok 0 (a.modTick fun x => { x with returnTo := .paused })))) ∧
      (s.tick.state = .paused → exec (.halt t r e) s =
        .next (settle (finish seq .ok 0 (a.modTick fun x => { x with pause := none, resume := none })))) ∧
      (s.tick.state = .running ∨ s.tick.state = .switching →
        ∃ h, h = a.modTick (fun x => { x with
            pause := none, resume := none, haltPending := true
            window := x.window.map fun w => { w with halted := true } }) ∧
          exec (.halt t r e) s = .next (settle (finish seq .ok 0 (if s.tick.window.isSome then haltAll h else h)))))

/-! ### Commands of groups 0x04, 0x05 and 0x09 -/

/-- MEM_WRITE and MEM_READ begin their movement (R142, R145, R169, R235, R241, R514): an aligned range inside the contract
that meets no check area, and for MEM_WRITE no Loft row while windows open, no row of a region, and no backing range while
windows open. A range of DRAM that MEM_WRITE names is one that nodes read as undefined in this window (R170). -/
def Obligations.MemoryMovementsBegin : Prop :=
  ∀ (t : Instant) (r : RingRef) (e : Entry) (seq : Nat) (c : Cmd) (s : State),
    let a := accepted seq t s
    let x := efld e 40 8
    let n := efld e 32 4
    let sound := unusedZero e [(16, 1), (24, 12), (40, 8)] = true ∧ efld e 16 1 ≤ 3 ∧ efld e 24 8 % 64 = 0 ∧ n ≠ 0 ∧
      n ≤ 0x4000000 ∧ (x < 512 * loftRows → x % 512 = 0 ∧ n % 512 = 0) ∧ (dramBase ≤ x → x % 64 = 0 ∧ n % 64 = 0) ∧
      inContract ((foreseen a).contract (efld e 16 1)) (x, n) = true ∧ (dramBase ≤ x → hitsCheck a x n = false)
    (Accepts 0x0401 t r e seq c s → sound → (x < 512 * loftRows → s.tick.state ≠ .running ∧ s.tick.state ≠ .switching) →
      (x < 512 * loftRows → (s.loft.regions.any fun p => overlap (x / 512, n / 512) (p.2.first, p.2.count)) = false) →
      (dramBase ≤ x → s.tick.state = .running ∨ s.tick.state = .switching → hitsBacking a x n = false) →
      exec (.memWrite t r e) s = .next (settle { a with
        moves := tset a.moves seq (.memWrite x n)
        dram := if x < dramBase then a.dram else { a.dram with hostWrote := (x, n) :: a.dram.hostWrote } })) ∧
    (Accepts 0x0402 t r e seq c s → sound →
      exec (.memRead t r e) s =
        .next (settle { a with moves := tset a.moves seq (.memRead x n (BitVec.ofNat 64 (efld e 24 8)) false) }))

/-- RESIDENT_DEFINE, RESIDENT_LOAD and RESIDENT_DELETE take their effect in STOPPED, PAUSED and LOST (Table 4.9; R171, R238,
R239, R243): a region is defined over free rows of its tenant with a backing range, loads from acceptance, and leaves working
rows of undefined contents. -/
def Obligations.ResidentCommandsTakeEffect : Prop :=
  ∀ (t : Instant) (r : RingRef) (e : Entry) (g : Region) (seq : Nat) (c : Cmd) (s : State),
    let a := accepted seq t s
    let n := efld e 16 1
    let k := efld e 17 1
    let first := efld e 20 4
    let count := efld e 24 4
    let back := efld e 32 8
    let still := s.tick.state = .stopped ∨ s.tick.state = .paused ∨ s.tick.state = .lost
    (Accepts 0x0403 t r e seq c s → unusedZero e [(16, 2), (20, 8), (32, 8)] = true → n ≤ 3 → k ≤ 63 → count ≠ 0 →
      back % 512 = 0 → still → tget (foreseen a).loft.regions k = none →
      inContract ((foreseen a).contract n) (512 * first, 512 * count) = true → first + count ≤ loftRows →
      dramBase ≤ back → inContract ((foreseen a).contract n) (back, 512 * count) = true →
      rowsTaken (foreseen a) (first, count) = false →
      (((foreseen a).contract n).carafe.2 ≠ 0 → overlap (first, count) ((foreseen a).contract n).carafe = false) →
      hitsBacking (foreseen a) back (512 * count) = false → hitsCheck (foreseen a) back (512 * count) = false →
      exec (.residentDefine t r e) s = .next (settle (finish seq .ok 0 { a with loft := { a.loft with
        regions := tset a.loft.regions k
          { tenant := n, first := first, count := count, backing := back, state := .defined, failedRows := [] } } }))) ∧
    (Accepts 0x0404 t r e seq c s → unusedZero e [(17, 1)] = true → k ≤ 63 → still → loadingRegion s k = false →
      tget s.loft.regions k = some g →
      exec (.residentLoad t r e) s = .next (settle { a with
        loft := { a.loft with regions := tset a.loft.regions k { g with state := .loading } }
        moves := tset a.moves seq (.residentLoad k) })) ∧
    (Accepts 0x0405 t r e seq c s → unusedZero e [(17, 1)] = true → k ≤ 63 → still → loadingRegion s k = false →
      tget s.loft.regions k = some g → (s.drover.graphs.any fun p => namesRegion p.2 k) = false →
      exec (.residentDelete t r e) s = .next (settle (finish seq .ok 0 (undefineRows g.first g.count
        { a with loft := { a.loft with regions := tdel a.loft.regions k } }))))

/-- GATE_OPEN and GATE_CLOSE take their effect (R171, R246, R247): a gate over free rows of its tenant opens, and a gate that
no graph names closes, at the next opening while windows open and at once otherwise. -/
def Obligations.GateCommandsTakeEffect : Prop :=
  ∀ (t : Instant) (r : RingRef) (e : Entry) (seq : Nat) (c : Cmd) (s : State),
    let a := accepted seq t s
    let k := efld e 17 1
    let m := efld e 18 1
    let g : Gate := { tenant := efld e 16 1, first := efld e 20 4, count := efld e 24 4, persistent := m.testBit 0,
                      write := m.testBit 1, openMode := m.testBit 2, key := efld e 19 1, peer := efld e 28 1 }
    let windows := s.tick.state = .running ∨ s.tick.state = .switching
    (Accepts 0x0406 t r e seq c s → unusedZero e [(16, 13)] = true → efld e 16 1 ≤ 3 → k ≤ 63 → m ≤ 7 → g.peer ≤ 15 →
      g.count ≠ 0 → (if g.openMode then g.key = 0 ∧ g.peer = 0 else g.key ≠ 0) → tget (foreseen a).loft.gates k = none →
      inContract ((foreseen a).contract g.tenant) (512 * g.first, 512 * g.count) = true → g.first + g.count ≤ loftRows →
      rowsTaken (foreseen a) (g.first, g.count) = false →
      (((foreseen a).contract g.tenant).carafe.2 ≠ 0 →
        overlap (g.first, g.count) ((foreseen a).contract g.tenant).carafe = false) →
      exec (.gateOpen t r e) s = .next (settle (if windows then
          finish seq .deferred 0 { a with deferred := a.deferred ++ [.gateOpen k g] }
        else finish seq .ok 0 { a with loft := { a.loft with gates := tset a.loft.gates k g } }))) ∧
    (Accepts 0x0407 t r e seq c s → unusedZero e [(17, 1)] = true → k ≤ 63 → (tget (foreseen a).loft.gates k).isSome →
      (s.drover.graphs.any fun p => namesGate p.2 k) = false →
      exec (.gateClose t r e) s = .next (settle (if windows then
          finish seq .deferred 0 { a with deferred := a.deferred ++ [.gateClose k] }
        else finish seq .ok 0 { a with loft := { a.loft with gates := tdel a.loft.gates k } })))

/-- ECC_REGION_SET takes its effect in STOPPED (R512, R513): an aligned range in DRAM that meets no other region, no backing
range and no Tally ring reads zero with valid check bytes; a removed region keeps its data and leaves an undefined check area.
The undefined check bytes are free values (assumption log 7). -/
def Obligations.EccRegionSetTakesEffect : Prop :=
  ∀ (t : Instant) (r : RingRef) (e : Entry) (q : Nat × Nat) (seq : Nat) (c : Cmd) (s : State),
    let a := accepted seq t s
    let k := efld e 17 1
    let x := (efld e 24 8, efld e 32 8)
    Accepts 0x0408 t r e seq c s → unusedZero e [(17, 2), (24, 16)] = true → k ≤ 7 → s.tick.state = .stopped →
    (efld e 18 1 = 1 → x.1 % 2 ^ 23 = 0 → x.2 % 2 ^ 23 = 0 → inDram a x.1 x.2 = true → tget s.dram.ecc k = none →
      hitsBacking a x.1 x.2 = false → hitsTallyRing a x = false →
      (s.dram.ecc.any fun p => decide (p.1 ≠ k) && overlap x p.2) = false →
      exec (.eccRegionSet t r e) s = .next (settle (finish seq .ok 0 { a with
        draws := a.draws + 1
        dram := { a.dram with
          mem := (a.dram.mem.zero (dataArea x).1 (dataArea x).2).undefine (checkArea x).1 (checkArea x).2 a.draws
          ecc := tset a.dram.ecc k x
          poison := a.dram.poison.filter fun z => !inside (sectorAddr z, 64) x
          listed := a.dram.listed.filter fun z => !inside (sectorAddr z, 64) x } }))) ∧
    (efld e 18 1 = 0 → x = (0, 0) → tget s.dram.ecc k = some q →
      exec (.eccRegionSet t r e) s = .next (settle (finish seq .ok 0 { a with
        draws := a.draws + 1
        dram := { a.dram with
          mem := a.dram.mem.undefine (checkArea q).1 (checkArea q).2 a.draws
          ecc := tdel a.dram.ecc k
          poison := a.dram.poison.filter fun z => !inside (sectorAddr z, 64) q
          listed := a.dram.listed.filter fun z => !inside (sectorAddr z, 64) q } })))

/-- GRAPH_LOAD, GRAPH_UNLOAD and GRAPH_STATUS take their effect (R172 to R174, R189): the image of a slot is read while no
contract change of the tenant is pending; an unarmed graph without an active instance leaves its slot with every pending
effect on it; the status returns the latest result, the flags and the latest TICKNO. A command waits while an image of its
graph is read. -/
def Obligations.GraphSlotCommandsTakeEffect : Prop :=
  ∀ (t : Instant) (r : RingRef) (e : Entry) (gr : Graph) (seq : Nat) (c : Cmd) (s : State),
    let a := accepted seq t s
    let n := efld e 16 1
    let k := efld e 17 1
    let g := graphKey n k
    graphBusy s e = false → n ≤ 3 → k ≤ 63 →
    (Accepts 0x0501 t r e seq c s → unusedZero e [(16, 2), (24, 12)] = true → efld e 24 8 % 64 = 0 → efld e 32 4 ≠ 0 →
      efld e 32 4 ≤ 0x1000000 → partitionPending s n = false →
      exec (.graphLoad t r e) s = .next (settle { a with moves := tset a.moves seq (.graphLoad n k (efld e 32 4)) })) ∧
    (Accepts 0x0502 t r e seq c s → unusedZero e [(16, 2)] = true → s.graph g = some gr →
      (∀ x, (foreseen a).graph g = some x → x.isArmed = false) → s.inst g = none →
      exec (.graphUnload t r e) s = .next (settle (finish seq .ok 0 { a with
        drover := { a.drover with graphs := tdel a.drover.graphs g }
        deferred := a.deferred.filter fun x => !effectOn g x }))) ∧
    (Accepts 0x0506 t r e seq c s → unusedZero e [(16, 2)] = true → s.graph g = some gr →
      exec (.graphStatus t r e) s = .next (settle (finish seq .ok (resultBytes
        [(20, match gr.latest with | some q => q.1.code | none => 0),
         (22, b2n gr.arm.isSome + 2 * b2n (armPending s g) + 4 * b2n (disarmPending s g)),
         (24, match gr.latest with | some q => q.2.toNat | none => 0)]) a)))

/-- GRAPH_ARM, GRAPH_DISARM and GRAPH_PARAM_SET take their effect (R51, R53, R174, R175, R194, R209, R210, R497): an arm with
sound operands whose graph fits the window is recorded for the next opening, or for the opening of START_STC; a disarm cancels
a pending arm or is recorded; a parameter write whose bodies stay sound is recorded. -/
def Obligations.GraphArmingCommandsTakeEffect : Prop :=
  ∀ (t : Instant) (r : RingRef) (e : Entry) (gr : Graph) (seq : Nat) (c : Cmd) (s : State),
    let a := accepted seq t s
    let n := efld e 16 1
    let g := graphKey n (efld e 17 1)
    let spec := armSpec e
    let o := efld e 18 2
    let len := efld e 20 1
    let d := ebytes e 24 (min len 40)
    let bodies := changedBodies gr (patch (paramSoon a g gr) o d) o len
    graphBusy s e = false → n ≤ 3 → efld e 17 1 ≤ 63 → s.graph g = some gr →
    (Accepts 0x0503 t r e seq c s → unusedZero e [(16, 16)] = true → s.tick.state ≠ .lost →
      (∀ x ∈ armParams e, x.1 = false) → (∀ x ∈ armChecks e a gr, x.1 = false) →
      exec (.graphArm t r e) s = .next (settle (finish seq .deferred 0 (if gr.system then
          { a with
            drover := { a.drover with graphs := tset a.drover.graphs g { gr with systemArm := some spec } }
            deferred := a.deferred ++ [.systemArm g] }
        else { a with deferred := a.deferred ++ [.arm g spec] })))) ∧
    (Accepts 0x0504 t r e seq c s → unusedZero e [(16, 2)] = true →
      (∀ x, (foreseen a).graph g = some x → x.isArmed = true) →
      (armPending a g = true → exec (.graphDisarm t r e) s = .next (settle (finish seq .ok 0 { a with
        deferred := a.deferred.filter fun x => match x with | .arm k _ | .systemArm k => decide (k ≠ g) | _ => true
        drover := { a.drover with graphs := tset a.drover.graphs g { gr with systemArm := none } } }))) ∧
      (armPending a g = false → exec (.graphDisarm t r e) s =
        .next (settle (finish seq .deferred 0 { a with deferred := a.deferred ++ [.disarm g] })))) ∧
    (Accepts 0x0505 t r e seq c s → unusedZero e [(16, 5), (24, 40)] = true → 1 ≤ len → len ≤ 40 →
      zeros (ebytes e 24 40) len (40 - len) = true → o + len ≤ gr.param.length →
      (bodies.all fun b => bodyOk a b.1 b.2 gr.blob) = true →
      (bodies.all fun b => bodyInside a n b.1 b.2 gr.blob) = true →
      exec (.graphParamSet t r e) s = .next (settle (finish seq .deferred 0
        { a with deferred := a.deferred ++ [.param g o d] })))

/-- FRAME_ABORT in RUNNING ends the active instance of its graph, and for a SYSTEM graph with SYSTEM set also sends an ABORT
(R498 to R500). -/
def Obligations.FrameAbortTakesEffect : Prop :=
  ∀ (t : Instant) (r : RingRef) (e : Entry) (gr : Graph) (inst : Inst) (seq : Nat) (c : Cmd) (s : State),
    let a := accepted seq t s
    let g := graphKey (efld e 16 1) (efld e 17 1)
    Accepts 0x0507 t r e seq c s → unusedZero e [(16, 3)] = true → graphBusy s e = false → efld e 16 1 ≤ 3 →
    efld e 17 1 ≤ 63 → efld e 18 1 ≤ 1 → s.tick.state = .running → s.graph g = some gr → s.inst g = some inst →
    (efld e 18 1 = 0 → exec (.frameAbort t r e) s = .next (settle (finish seq .ok 0 (abortInst g a)))) ∧
    (efld e 18 1 = 1 → gr.system = true →
      exec (.frameAbort t r e) s = .next (settle (finish seq .ok 0 (sendAbort g 0 inst.stc (abortInst g a)))))

/-- TETHER_SIGNAL in OPEN adds to its tether, and waits and triggers follow; TETHER_READ returns count and target (Table 4.13;
R178, R213). -/
def Obligations.TetherCommandsTakeEffect : Prop :=
  ∀ (t : Instant) (r : RingRef) (e : Entry) (w : Window) (seq : Nat) (c : Cmd) (s : State),
    let a := accepted seq t s
    let n := efld e 16 2
    (Accepts 0x0901 t r e seq c s → unusedZero e [(16, 4)] = true → n ≤ 511 → efld e 18 2 ≠ 0 →
      s.tick.state = .running → s.tick.window = some w → a.now < w.td →
      exec (.tetherSignal t r e) s =
        .next (settle (finish seq .ok 0 (settleTethers [n] (tetherAdd n (efld e 18 2) a))))) ∧
    (Accepts 0x0902 t r e seq c s → unusedZero e [(16, 2)] = true → n ≤ 511 →
      exec (.tetherRead t r e) s =
        .next (settle (finish seq .ok (resultBytes [(20, (s.tether n).count), (22, (s.tether n).target)]) a)))

/-! ### Commands of groups 0x06, 0x07 and 0x08 -/

/-- PORT_CONFIG, LANE_BIND, LANE_CONTEXT_SET and SENSOR_XFER take their effect (Table 4.11; R142, R266, R271, R272, R275, R306):
an unbound port takes its configuration and is quiet for 10 µs; a binding of a free stream, or an unbinding, and a sound image
for the binding to come wait for the context's next frame boundary; a sound transfer waits for the next opening. The last two
read their host buffer at acceptance. -/
def Obligations.CameraCommandsTakeEffect : Prop :=
  ∀ (t : Instant) (r : RingRef) (e : Entry) (d : List Byte) (seq : Nat) (c : Cmd) (s : State),
    let a := accepted seq t s
    let p := efld e 16 1
    let k := 4 * efld e 17 1 + efld e 18 1
    let b : Binding := { tenant := p, port := efld e 19 1, vc := efld e 20 1, dtype := efld e 21 1 }
    let img := fit 8704 d
    let xfer := fit (efld e 32 4) d
    let read := readBuffer r.fn e a
    (Accepts 0x0601 t r e seq c s → unusedZero e [(16, 3), (20, 4)] = true → p ≤ 7 → efld e 17 1 ≤ 1 →
      efld e 18 1 ∈ (if efld e 17 1 = 0 then [1, 2, 4] else [1, 2, 3]) → 80 ≤ efld e 20 4 → efld e 20 4 ≤ 4500 →
      (∀ x ∈ s.ctxs, ∀ y, x.bindingSoon = some y → y.port ≠ p) →
      exec (.portConfig t r e) s = .next (settle (finish seq .ok 0 (a.modPort p fun x => { x with
        enabled := true, cphy := decide (efld e 17 1 = 1), width := efld e 18 1, rate := efld e 20 4,
        quietUntil := some (a.now + 10000) })))) ∧
    (Accepts 0x0602 t r e seq c s → p ≤ 3 → efld e 17 1 ≤ 7 → efld e 18 1 ≤ 3 →
      (efld e 22 1 = 1 → unusedZero e [(16, 3), (22, 1)] = true →
        exec (.laneBind t r e) s = .next (settle (finish seq .deferred 0
          (a.modCtx k fun x => { x with pending := x.pending ++ [.unbind] })))) ∧
      (efld e 22 1 = 0 → unusedZero e [(16, 7)] = true → b.port ≤ 7 → b.vc ≤ 15 → dtBindable b.dtype = true →
        (∀ j < 32, j ≠ k → ∀ y, (s.ctx j).bindingSoon = some y → ¬(y.port = b.port ∧ y.vc = b.vc ∧ y.dtype = b.dtype)) →
        exec (.laneBind t r e) s = .next (settle (finish seq .deferred 0
          (a.modCtx k fun x => { x with pending := x.pending ++ [.bind b] }))))) ∧
    (Accepts 0x0603 t r e seq c s → s.mayRequest r.fn = true → unusedZero e [(16, 3), (24, 12)] = true → p ≤ 3 → efld e 17 1 ≤ 7 → efld e 18 1 ≤ 3 →
      efld e 32 4 = 8704 → efld e 24 8 % 64 = 0 → ((s.ctx k).bindingSoon.any fun y => decide (y.tenant = p)) = true →
      (∀ x ∈ contextChecks a p (s.ctx k).bindingSoon img, x.1 = false) →
      exec (.laneContextSet t r e (some d)) s = .next (settle (finish seq .deferred 0
        (read.modCtx k fun x => { x with pending := x.pending ++ [.params img] })))) ∧
    (Accepts 0x0605 t r e seq c s → s.mayRequest r.fn = true → unusedZero e [(16, 8), (24, 12)] = true → p ≤ 3 → efld e 17 1 ≤ 7 → efld e 18 1 ≤ 2 →
      efld e 19 1 ≤ 127 → efld e 20 4 < openUs s.tick.source s.tick.prm → efld e 20 4 < openUs (srcSoon a) (prmSoon a) →
      s.tick.state = .running →
      xfersHeld a (efld e 17 1) < 16 → efld e 24 8 % 64 = 0 → efld e 32 4 ≠ 0 → efld e 32 4 ≤ 4096 →
      xferOk xfer 1025 0 = true →
      exec (.sensorXfer t r e (some d)) s = .next (settle (finish seq .deferred 0 { read with
        deferred := a.deferred ++ [.xfer (efld e 17 1)
          { tenant := p, fn := r.fn, cmdId := BitVec.ofNat 16 (efld e 4 2), mode := efld e 18 1, addr := efld e 19 1,
            offset := efld e 20 4, bufAddr := BitVec.ofNat 64 (efld e 24 8), buf := xfer, effect := none,
            startAt := none }] })))

/-- FSYNC_SET is recorded for the next opening (R304): to enable, with a pulse of 1 to 10,000 µs that ends within OPEN, of the
configuration in force and of the pending one, and a divider; to disable, with no other operand. -/
def Obligations.FsyncSetTakesEffect : Prop :=
  ∀ (t : Instant) (r : RingRef) (e : Entry) (seq : Nat) (c : Cmd) (s : State),
    let a := accepted seq t s
    let off := efld e 20 4
    let width := efld e 24 4
    Accepts 0x0604 t r e seq c s → efld e 16 1 ≤ 7 →
    (efld e 17 1 = 1 → unusedZero e [(16, 2), (20, 10)] = true → 1 ≤ width → width ≤ 10000 → efld e 28 2 ≠ 0 →
      off + width ≤ openUs s.tick.source s.tick.prm → off + width ≤ openUs (srcSoon a) (prmSoon a) →
      exec (.fsyncSet t r e) s = .next (settle (finish seq .deferred 0 { a with
        deferred := a.deferred ++ [.fsync (efld e 16 1) true off width (efld e 28 2)] }))) ∧
    (efld e 17 1 = 0 → unusedZero e [(16, 2)] = true →
      exec (.fsyncSet t r e) s = .next (settle (finish seq .deferred 0 { a with
        deferred := a.deferred ++ [.fsync (efld e 16 1) false off width (efld e 28 2)] })))

/-- HALTER_CONFIG and HALTER_ENABLE are recorded for the next opening (R142, R177, R402, R403): for a unit that a tenant holds, a
sound record, read at acceptance, and an enabling only of a unit with a configuration. -/
def Obligations.HalterCommandsTakeEffect : Prop :=
  ∀ (t : Instant) (r : RingRef) (e : Entry) (d : List Byte) (seq : Nat) (c : Cmd) (s : State),
    let a := accepted seq t s
    let u := efld e 16 1 - 0x30
    (efld e 16 1 = 0x30 ∨ efld e 16 1 = 0x31) → (halterTenant (foreseen a) u).isSome →
    (Accepts 0x0701 t r e seq c s → s.mayRequest r.fn = true → unusedZero e [(16, 1), (24, 12)] = true → efld e 24 8 % 64 = 0 → efld e 32 4 = 704 →
      halterConfigOk (fit 704 d) = true →
      exec (.halterConfig t r e (some d)) s = .next (settle (finish seq .deferred 0 { readBuffer r.fn e a with
        deferred := a.deferred ++ [.halterConfig u (fit 704 d)] }))) ∧
    (Accepts 0x0702 t r e seq c s → unusedZero e [(16, 2)] = true → efld e 17 1 ≤ 1 →
      (efld e 17 1 = 1 → ((foreseen a).halter u).config.isSome) →
      exec (.halterEnable t r e) s = .next (settle (finish seq .deferred 0 { a with
        deferred := a.deferred ++ [.halterEnable u (decide (efld e 17 1 = 1))] })))

/-- ROUTE_LOAD, EPOCH_SWITCH and PLINK_CONTROL take their effect (R142, R438, R441, R467): a sound image, read at acceptance,
replaces the version that is not in force while no switch is pending; a switch to that version waits for the next paused tick or
opening boundary; a DISABLED port trains, any port is disabled, and an UP port goes down. -/
def Obligations.FabricCommandsTakeEffect : Prop :=
  ∀ (t : Instant) (r : RingRef) (e : Entry) (d : List Byte) (seq : Nat) (c : Cmd) (s : State),
    let a := accepted seq t s
    let v := efld e 16 1
    let act := efld e 17 1
    (Accepts 0x0801 t r e seq c s → s.mayRequest r.fn = true → unusedZero e [(16, 1), (24, 12)] = true → v ≤ 1 → efld e 24 8 % 64 = 0 →
      efld e 32 4 = 192 → v ≠ s.fabric.epoch → s.fabric.switch = none → routesOk s.boot.config.chip (fit 192 d) = true →
      exec (.routeLoad t r e (some d)) s = .next (settle (finish seq .ok 0 { readBuffer r.fn e a with
        fabric := { a.fabric with versions := a.fabric.versions.set v (parseRoutes (fit 192 d)) } }))) ∧
    (Accepts 0x0802 t r e seq c s → unusedZero e [(16, 1)] = true → v ≤ 1 →
      s.tick.state = .running ∨ s.tick.state = .paused → v ≠ s.fabric.epoch → s.fabric.switch = none →
      exec (.epochSwitch t r e) s = .next (settle (finish seq .deferred 0 { a with
        fabric := { a.fabric with switch := some v } }))) ∧
    (Accepts 0x0803 t r e seq c s → unusedZero e [(16, 2)] = true → v ≤ 3 →
      (act = 0 → (s.plink v).state = .disabled →
        exec (.plinkControl t r e) s = .next (settle (finish seq .ok 0 (startTraining v a)))) ∧
      (act = 1 → exec (.plinkControl t r e) s = .next (settle (finish seq .ok 0 (disablePort v a)))) ∧
      (act = 2 → (s.plink v).state = .up →
        exec (.plinkControl t r e) s = .next (settle (finish seq .ok 0 (goDown v .commanded a)))))

/-! ### Commands of groups 0x0A, 0x0B and 0x0C -/

/-- RESULT_RING_CREATE and RESULT_RING_DELETE take their effect (R530, R531, R550): a free ring is created empty, and a ring
that no armed graph names goes with what it holds. -/
def Obligations.ResultRingCommandsTakeEffect : Prop :=
  ∀ (t : Instant) (r : RingRef) (e : Entry) (seq : Nat) (c : Cmd) (s : State),
    let a := accepted seq t s
    let n := efld e 16 1
    let m := efld e 17 1
    (Accepts 0x0A01 t r e seq c s → unusedZero e [(16, 28)] = true → n ≤ 3 → m ≤ 63 → efld e 18 1 ≤ 8 → efld e 19 1 ≤ 31 →
      1 ≤ efld e 20 2 → efld e 20 2 ≤ 256 → efld e 22 2 ≤ 1000 → efld e 24 8 % 4096 = 0 → efld e 32 8 % 4096 = 0 →
      1 ≤ efld e 40 4 → efld e 40 4 ≤ 1048576 → s.resultRing n m = none →
      exec (.resultRingCreate t r e) s = .next (settle (finish seq .ok 0 { a with egress := { a.egress with
        rings := tset a.egress.rings (64 * n + m)
          { descLog := efld e 18 1, vector := efld e 19 1, resCount := efld e 20 2, resTimeUs := efld e 22 2,
            descBase := BitVec.ofNat 64 (efld e 24 8), pageBase := BitVec.ofNat 64 (efld e 32 8),
            pageCount := efld e 40 4, tail := 0, head := 0, pagePtr := 0, live := [], written := 0, lost := 0,
            frozen := false, queue := [], unsignalled := 0, oldest := none } } }))) ∧
    (Accepts 0x0A02 t r e seq c s → unusedZero e [(16, 2)] = true → n ≤ 3 → m ≤ 63 → (s.resultRing n m).isSome →
      ringNamed a n m = false →
      exec (.resultRingDelete t r e) s =
        .next (settle (finish seq .ok 0 (dropResultRings n (fun k => decide (k = m)) a))))

/-- TALLY_CONFIG, TALLY_CONTROL and TELEMETRY_READ take their effect (R142, R179, R609 to R611): a sound configuration, a START of
a configured trace and a STOP of a running one wait for the next opening, and a STOP cancels a pending START; telemetry writes
the leading bytes of its block. -/
def Obligations.ObservationCommandsTakeEffect : Prop :=
  ∀ (t : Instant) (r : RingRef) (e : Entry) (d : List Byte) (k : Nat) (seq : Nat) (c : Cmd) (s : State),
    let a := accepted seq t s
    let x := efld e 16 1
    (Accepts 0x0B01 t r e seq c s → s.mayRequest r.fn = true → unusedZero e [(24, 12)] = true → efld e 24 8 % 64 = 0 → efld e 32 4 = 320 →
      tallyOk a (fit 320 d) = true →
      exec (.tallyConfig t r e (some d)) s = .next (settle (finish seq .deferred 0 { readBuffer r.fn e a with
        deferred := a.deferred ++ [.tallyConfig (parseTally (fit 320 d))] }))) ∧
    (Accepts 0x0B02 t r e seq c s → unusedZero e [(16, 1)] = true →
      (x = 1 → (foreseen a).tally.config.isSome → (foreseen a).tally.state ≠ .running →
        exec (.tallyControl t r e) s = .next (settle (finish seq .deferred 0 { a with
          deferred := a.deferred ++ [.tallyStart] }))) ∧
      (x = 0 → (foreseen a).tally.state = .running →
        (startPending a = true → exec (.tallyControl t r e) s = .next (settle (finish seq .ok 0 { a with
          deferred := dropLast (fun y => match y with | .tallyStart => true | _ => false) a.deferred }))) ∧
        (startPending a = false → exec (.tallyControl t r e) s = .next (settle (finish seq .deferred 0 { a with
          deferred := a.deferred ++ [.tallyStop] }))))) ∧
    (Accepts 0x0B03 t r e seq c s → unusedZero e [(16, 2), (24, 12)] = true → telemetryIndices x = some k →
      efld e 17 1 < k → efld e 24 8 % 64 = 0 → efld e 32 4 ≠ 0 → efld e 32 4 ≤ 65536 →
      ∃ u, u = tracePort a ∧ exec (.telemetryRead t r e true) s = .next (settle (finish seq .ok 0
        (hostWrite r.fn (BitVec.ofNat 64 (efld e 24 8))
          ((telemetryBlock u x (efld e 17 1)).take (efld e 32 4)) u))))

/-- DEBUG_PEEK returns one or two debug words, and DEBUG_POKE of a unit that is not busy stores (old AND NOT MASK) OR (VALUE
AND MASK) where the unit has the word, and nothing elsewhere (R133 to R136, R181). What a unit holds before any poke is a
free value, of the unit, the offset and the version of Acrega (assumption logs 7 and 82). -/
def Obligations.DebugCommandsTakeEffect : Prop :=
  ∀ (t : Instant) (r : RingRef) (e : Entry) (seq : Nat) (c : Cmd) (s : State),
    let a := accepted seq t s
    let u := efld e 16 1
    let off := efld e 20 4
    let v := s.fw.version.toNat
    let word := fun k =>
      if Config.debugSpace v u k then (tget s.debug (2 ^ 40 * u + k)).getD (Config.debugWord v u k) else 0
    let mask := BitVec.ofNat 32 (efld e 28 4)
    unitCode u = true → off % 4 = 0 →
    (Accepts 0x0C01 t r e seq c s → unusedZero e [(16, 1), (20, 5)] = true → efld e 24 1 = 1 ∨ efld e 24 1 = 2 →
      exec (.debugPeek t r e) s = .next (settle (finish seq .ok (resultBytes
        [(20, (word off).toNat), (24, if efld e 24 1 = 2 then (word (off + 4)).toNat else 0)]) a))) ∧
    (Accepts 0x0C02 t r e seq c s → unusedZero e [(16, 1), (20, 12)] = true → pokeBusy a u = false →
      exec (.debugPoke t r e) s = .next (settle (finish seq .ok 0 (if Config.debugSpace v u off then
        { a with
          debug := tset a.debug (2 ^ 40 * u + off) ((word off &&& ~~~mask) ||| (BitVec.ofNat 32 (efld e 24 4) &&& mask)) }
        else a))))

/-! ### Host transactions -/

/-- SQ and CQ doorbells, with the data link up (R93 to R95): a tail write is valid if the tail is below the depth and does not
fall behind the tail before it, counted from the head; a head write if it releases no more than is written and not released. A
valid write takes effect, an invalid one only puts its ring into ERROR with BAD_TAIL or BAD_HEAD, a write that covers a doorbell
in part puts it into ERROR with BAD_DOORBELL, and a write for a ring that does not exist (of 1 to 255 one that no RING_CREATE
made, and ring 0 while ENABLE is 0) only posts the RING event NO_RING. -/
def Obligations.DoorbellsTakeEffect : Prop :=
  ∀ (t : Instant) (r : RingRef) (v : BitVec 32) (g : Ring) (s : State), s.alive = true → s.boot.endpointReady = true →
      s.linkUp = true →
    let h := advance t s
    let i := v.toNat % 4096
    let sqDepth := 2 ^ (g.sqLog + 4)
    let cqDepth := 2 ^ (g.cqLog + 4)
    let tailOk := i < sqDepth ∧ (g.sqTail + sqDepth - g.sqHead) % sqDepth ≤ (i + sqDepth - g.sqHead) % sqDepth
    let headOk := i < cqDepth ∧ (i + cqDepth - g.cqHead) % cqDepth ≤ (g.cqTail + cqDepth - g.cqHead) % cqDepth
    let moved := h.modRing r.fn r.ring fun g => { g with cqHead := i }
    let absent := (r.ring.val ≠ 0 ∧ s.ring r.fn r.ring = none) ∨ (r.ring.val = 0 ∧ (s.fn r.fn).enable = false)
    (absent →
      exec (.sqTailDoorbell t r v true) s = .next (postTenant r.fn 9 5 (BitVec.ofNat 64 r.ring) h) ∧
      exec (.cqHeadDoorbell t r v true) s = .next (postTenant r.fn 9 5 (BitVec.ofNat 64 r.ring) h) ∧
      exec (.sqTailDoorbell t r v false) s = .next (postTenant r.fn 9 5 (BitVec.ofNat 64 r.ring) h) ∧
      exec (.cqHeadDoorbell t r v false) s = .next (postTenant r.fn 9 5 (BitVec.ofNat 64 r.ring) h)) ∧
    (¬absent → s.ring r.fn r.ring = some g →
      (tailOk → i = g.sqTail → exec (.sqTailDoorbell t r v true) s = .next h) ∧
      (tailOk → i ≠ g.sqTail → exec (.sqTailDoorbell t r v true) s = .next (h.modRing r.fn r.ring fun g => { g with
        sqTail := i, tails := g.tails ++ [{ tail := i, time := h.now }] })) ∧
      (¬tailOk → exec (.sqTailDoorbell t r v true) s = .next (ringError r.fn r.ring .badTail h)) ∧
      (headOk → exec (.cqHeadDoorbell t r v true) s =
        .next (if r.ring.val = 0 then flushEvents r.fn 66 moved else moved)) ∧
      (¬headOk → exec (.cqHeadDoorbell t r v true) s = .next (ringError r.fn r.ring .badHead h)) ∧
      exec (.sqTailDoorbell t r v false) s = .next (ringError r.fn r.ring .badDoorbell h) ∧
      exec (.cqHeadDoorbell t r v false) s = .next (ringError r.fn r.ring .badDoorbell h))

/-- RESULT_HEAD_DOORBELL (R532): a valid head, which releases no more descriptors than have been written, releases them with
their pages, and an invalid write, or one for a ring that does not exist, changes nothing. That a transaction of the host shows
the data link up is the model's reading (assumption log 17). -/
def Obligations.ResultHeadDoorbellTakesEffect : Prop :=
  ∀ (t : Instant) (f : Fin 4) (m : Fin 64) (v : BitVec 32) (g : ResultRing) (s : State), s.alive = true →
    s.boot.endpointReady = true →
    let h : State := { advance t s with linkUp := true }
    let i := v.toNat % 4096
    let d := 2 ^ (g.descLog + 4)
    let n := (i + d - g.head) % d
    (s.resultRing f m = none → exec (.resultHeadDoorbell t f m v) s = .next h) ∧
    (s.resultRing f m = some g → i < d → n + unsentDescriptors s f m ≤ g.live.length →
      exec (.resultHeadDoorbell t f m v) s =
        .next (h.modResultRing f m fun g => { g with head := i, live := g.live.drop n })) ∧
    (s.resultRing f m = some g → ¬(i < d ∧ n + unsentDescriptors s f m ≤ g.live.length) →
      exec (.resultHeadDoorbell t f m v) s = .next h)

/-- A read of DEVICE_TIME_LO latches the high half of device time into DEVICE_TIME_HI and the current TICKNO into TICKNO_LATCH
at its instant (that of a window which opens at it, R24), and returns the low half (R138); a 64-bit read is that read and one of
DEVICE_TIME_HI. A memory write to BAR2 is discarded and increments BAR2_WRITES_DROPPED (R82). -/
def Obligations.TimeReadLatchesAndBar2WriteIsDropped : Prop :=
  ∀ (t : Instant) (f : Fin 4) (offset : BitVec 29) (d : List Byte) (s : State), s.alive = true →
    s.boot.endpointReady = true → s.linkUp = true →
    let h := advance t s
    let u := h.modFn f fun x => { x with timeHi := BitVec.ofNat 32 (h.now / 2 ^ 32), ticknoLatch := h.ticknoNow }
    exec (.deviceTimeLoRead t { fn := f, len := 4 }) s = .next { u with
      out := u.out ++ [{ time := h.now, out := .reply f (le 4 (h.now % 2 ^ 32)) false }] } ∧
    (s.shape → exec (.deviceTimeLoRead t { fn := f, len := 8 }) s = .next { u with
      out := u.out ++ [{ time := h.now, out := .reply f (le 4 (h.now % 2 ^ 32) ++ le 4 (h.now / 2 ^ 32 % 2 ^ 32)) false }] }) ∧
    exec (.bar2Write t f offset d) s = .next (h.modFn f fun x => { x with bar2Dropped := x.bar2Dropped + 1 })

/-- Registers (R98 to R100, R125 to R127, R137): a 1 clears its bit of INT_CAUSE; a 1 clears its bit of ALERT_STATUS
unless the condition persists; setting ENABLE sets ring 0 up, or reports BAD_SIZE, and clearing it closes ring 0;
unmasking a vector sends its pending message; an access that is no aligned 32-bit write is discarded, but for a bad
doorbell write to every ring with a doorbell that it covers in part. That a transaction of the host shows the data link up is
the model's reading (assumption log 17). So is that ENABLE set while ring 0 still closes waits for it (assumption log 76). -/
def Obligations.RegisterWritesTakeEffect : Prop :=
  ∀ (t : Instant) (f : Fin 4) (mask : BitVec 32) (off : BitVec 20) (len m : Nat) (g : Ring) (k : Fin 32) (s : State),
    s.alive = true → s.boot.endpointReady = true →
    let h : State := { advance t s with linkUp := true }
    let vec := (s.fn f).msix.getD k .reset
    let open_ := h.modFn f fun x => { x with msix := x.msix.modify k fun m => { m with masked := false, pending := false } }
    exec (.intCauseClear t f mask) s =
      .next (h.modFn f fun x => { x with intCause := x.intCause &&& ~~~mask.setWidth 6 }) ∧
    exec (.alertStatusClear t f mask) s =
      .next (setAlerts (s.alertStatus &&& ~~~(mask.setWidth 6 &&& ~~~alertPersists h)) s.alertMask h) ∧
    ((s.fn f).enable = true → exec (.adminEnable t f) s = .next h ∧
      exec (.adminDisable t f) s = .next (settle ((h.modFn f fun x => { x with enable := false }).modRing f 0 fun g =>
        { g with closing := true, sqTail := g.sqHead, tails := [] }))) ∧
    ((s.fn f).enable = false → exec (.adminDisable t f) s = .next h ∧
      (s.ring f 0 = some g → s.shape → exec (.adminEnable t f) s = .next (h.modFn f fun x => { x with enable := true })) ∧
      ∃ u, exec (.adminEnable t f) s = .next u ∧ u.inner = (h.modFn f fun x => { x with enable := true }).inner ∧
        (s.ring f 0 = none → s.shape → (s.fn f).adminSqLog ≤ 8 → (s.fn f).adminCqLog ≤ 8 →
          (u.fn f).ready = decide (s.fw.state = .ready) ∧ (u.fn f).error = false ∧
          (s.fw.state ≠ .ready → u.ring f 0 = some (adminRing (s.fn f)))) ∧
        (s.ring f 0 = none → s.shape → 8 < (s.fn f).adminSqLog ∨ 8 < (s.fn f).adminCqLog →
          (u.fn f).error = true ∧ (u.fn f).cause = .badSize)) ∧
    exec (.msixUnmask t f k) s = .next (if vec.pending then sendVector f k open_ else open_) ∧
    (off.toNat % 4 = 0 → exec (.registerWrite t f off mask 4) s = .next (writeBar0 f off.toNat mask h)) ∧
    (¬(len = 4 ∧ off.toNat % 4 = 0) → exec (.registerWrite t f off mask len) s =
      .next ((partRings off.toNat len).foldl (fun u r => partDoorbell f r u) h)) ∧
    (1 ≤ len → (m ∈ partRings off.toNat len ↔ ∃ d, d % 4 = 0 ∧ 0x10000 ≤ d ∧ d < 0x10800 ∧ m = (d - 0x10000) / 8 ∧
      off.toNat < d + 4 ∧ d < off.toNat + len ∧ ¬(off.toNat ≤ d ∧ d + 4 ≤ off.toNat + len)))

/-- Function Level Reset, Bus Master Enable and the data link (R74, R77, R78, R127, R139, R549): an FLR returns the
function's registers to their reset values, deletes its rings and result rings, and mutes its accepted commands, while a
RING_RESET or RING_DELETE of such a ring still completes; while Bus Master Enable is clear the function issues nothing, and
setting it sends what waited; a link that goes down discards what is queued, freezes every result ring and raises
ALERT_STATUS.PCIE_DOWN. The function's weight and waiting events are the model's choice (assumption log 33), and so are its
configuration registers, which the row that sets Bus Master Enable carries (assumption log 78). So is that a transaction of
the host shows the data link up (assumption log 17). -/
def Obligations.FunctionAndLinkEventsTakeEffect : Prop :=
  ∀ (t : Instant) (f : Fin 4) (dc : BitVec 16) (s : State), s.alive = true →
    let h : State := { advance t s with linkUp := true }
    (s.boot.endpointReady = true →
      exec (.functionLevelReset t f) s = .next (settle (dropResultRings f (fun _ => true) { h with
        fns := h.fns.modify f fun x => { Func.reset with
          cfg := x.cfg.afterFlr, weight := x.weight, backlog := x.backlog, dropped := x.dropped
          stops := x.stops ++ x.rings.filterMap fun p => p.2.stop.map fun st => (p.1, st.by_) }
        cmds := tmap (tfilter h.cmds fun _ c => decide (c.fn ≠ f) || c.isAccepted) fun _ c =>
          if c.fn = f then { c with muted := true, noDma := true } else c })) ∧
      exec (.busMasterEnableClear t f) s = .next (h.modFn f fun x => { x with busMaster := false }) ∧
      exec (.busMasterEnableSet t { fn := f, deviceControl := dc }) s = .next (settle (release f (h.modFn f fun x =>
        { x with busMaster := true, cfg := { x.cfg with deviceControl := dc } })))) ∧
    exec (.pcieLinkDown t) s = .next (setAlerts (s.alertStatus ||| 32) s.alertMask { advance t s with
      linkUp := false
      egress := { s.egress with queue := [], rings := tmap s.egress.rings fun _ g => { g with frozen := true } } })

/-- A BAR2 read in a Standby state returns zeros and has no other effect (R595). A read of a row outside the
function's contract returns zeros and counts once in BAR2_READS_OUTSIDE; a read of one row inside it, not detected and
found without a soft error, whose stall has nothing else to grant in this cycle, returns its bytes, in class HOST (R79, R80, R227,
R262). The Loft's own bytes stay. That a transaction of the host shows the data link up is the model's reading (assumption log
17). -/
def Obligations.Bar2ReadTakesEffect : Prop :=
  ∀ (t : Instant) (f : Fin 4) (offset : BitVec 29) (n : Nat) (flaws : List (Nat × Flips)) (s : State), s.alive = true →
    s.boot.endpointReady = true →
    let h : State := { advance t s with linkUp := true }
    let row := offset.toNat / 512
    let reply : List Byte → State → State := fun d u =>
      { u with out := u.out ++ [{ time := u.now, out := .reply f d false }] }
    let completes : List Byte → State → Prop := fun d v => ∃ u, exec (.bar2Read t f offset n flaws) s = .next u ∧
      { u with loft := s.loft } = reply d v ∧ u.loft.mem = s.loft.mem ∧ u.loft.regions = s.loft.regions
    (s.inStandby = true → exec (.bar2Read t f offset n flaws) s = .next (reply (List.replicate n 0) h)) ∧
    (s.inStandby = false → 1 ≤ n → offset.toNat % 512 + n ≤ 512 →
      (bar2Reaches s f row = false →
        completes (List.replicate n 0) (h.modFn f fun x => { x with bar2Outside := x.bar2Outside + 1 })) ∧
      (bar2Reaches s f row = true → rowBad s row = false → (∀ p ∈ flaws, p.1 ≠ row) → tget s.loft.refills row = none →
        cycleFree h (stallOf row) = true → ready h (stallOf row) = [] →
        completes (slice (storedRow s row) (offset.toNat % 512) n) h))

/-- Fetching and moderation (R78, R84, R90, R97, R109 to R114, R116, R124): a grant at least 250 ns after the last one, with
fewer than 64 commands outstanding, reads the entry at the head of the ring the arbiter picks, which reserves a CQ slot; an
entry read waits for acceptance, and a failed read puts the ring into ERROR and frees its CQ slot, which on ring 0 a waiting
event may take; the oldest unsignalled entry that has waited CQ_TIME sends the vector. -/
def Obligations.FetchingTakesEffect : Prop :=
  ∀ (t : Instant) (r : RingRef) (e : Entry) (f k : Nat) (arb : Arb) (seq o : Nat) (c : Cmd) (g : Ring) (s : State),
    s.alive = true →
    let h := advance t s
    let head := (g.sqHead + 1) % 2 ^ (g.sqLog + 4)
    (s.fw.state = .ready → outstanding h < 64 → (∀ x, s.arb.lastGrant = some x → x + 250 ≤ h.now) →
      nextGrant h = some (f, k, arb) → s.ring f k = some g →
      exec (.fetchGrant t) s = .next (State.modRing { h with
        arb := { arb with lastGrant := some h.now }
        fetchSeq := s.fetchSeq + 1
        cmds := tset s.cmds s.fetchSeq
          { fn := Fin.ofNat 4 f, ring := k, sqHead := head, doorbell := g.doorbellOf, entry := 0, phase := .reading,
            muted := false, noDma := false }
        out := s.out ++ [{ time := h.now, out := .sqRead f k (g.sqBase + BitVec.ofNat 64 (64 * g.sqHead)) }] } f k
          fun g => { g with
            sqHead := head, reserved := g.reserved + 1,
            tails := match g.tails with | x :: l => if x.tail = head then l else x :: l | [] => [] })) ∧
    (readingCmd s r.fn r.ring = some (seq, c) →
      exec (.sqEntryFetched t r (some e)) s =
        .next (settle { h with cmds := tmod s.cmds seq fun c => { c with entry := e, phase := .waiting } }) ∧
      ∃ u, u = ringError r.fn r.ring .fetchFailed (State.modRing { h with cmds := tdel s.cmds seq } r.fn r.ring
          fun g => { g with reserved := g.reserved - 1 }) ∧
        exec (.sqEntryFetched t r none) s = .next (settle (if r.ring.val = 0 then flushEvents r.fn 66 u else u))) ∧
    (s.ring r.fn r.ring = some g → g.oldest = some o → o + 1000 * g.cqTimeUs ≤ h.now →
      exec (.cqModerationTimer t r) s =
        .next (sendVector r.fn g.vector (h.modRing r.fn r.ring fun g => { g with unsignalled := 0, oldest := none })))

/-- Firmware rows (R129 to R132, R571, R573, R576): a restart that is due begins once no movement runs and no completion is
held; one that ends within 200 ms ends with BUSY completions, admin rings that become READY, waiting events and the RESTARTED
event, and one that does not has failed; a watchdog expiry or a control memory error restarts Acrega, or fails it at the fourth
within 60 s. -/
def Obligations.FirmwareRowsTakeEffect : Prop :=
  ∀ (t : Instant) (o : Instant) (s : State), s.alive = true →
    let h := advance t s
    let recent := s.fw.unrequested.filter fun i => decide (h.now ≤ i + 60000000000)
    let hit : State := { h with fw := { s.fw with unrequested := h.now :: recent, crashed := true } }
    (s.fw.restartDue = true → s.fw.state = .ready → canRestart s = true →
      exec (.fwRestartBegin t) s = .next (beginRestart h)) ∧
    (s.fw.state = .restarting → s.fw.restartSince = some o → o + 200000000 < h.now →
      exec (.fwRestartEnd t) s = .next (raiseAlert 1 (setFw .failed h))) ∧
    (s.fw.state = .restarting → (∀ x, s.fw.restartSince = some x → h.now ≤ x + 200000000) →
      let ready := settle (busyAll (setFw .ready { h with fw := { h.fw with crashed := false, restartSince := none } }))
      let told := [0, 1, 2, 3].foldl (fun u f => flushEvents f 66 u) ([0, 1, 2, 3].foldl (fun u f => adminReady f u) ready)
      exec (.fwRestartEnd t) s = .next (postAll clsFirmware 1 (BitVec.ofNat 64 told.fw.restarts) told)) ∧
    (s.fw.state = .restarting → s.fw.restartSince = some o → o + 200000000 ≤ h.now →
      exec (.fwRestartTimeout t) s = .next (raiseAlert 1 (setFw .failed h))) ∧
    (s.fw.state = .ready → s.fw.crashed = false →
      exec (.acregaWatchdogExpiry t) s = exec (.controlMemoryError t) s ∧
      exec (.acregaWatchdogExpiry t) s = .next (if 3 ≤ recent.length then raiseAlert 1 (setFw .failed hit)
        else if canRestart s then beginRestart hit else { hit with fw := { hit.fw with restartDue := true } }))


/-! ### Rows of the clock -/

/-- The rows of the tick sources INTERNAL and TICK_IN, each in every case (R29 to R34, R37, R38, R57, R65 to R67, R679). The
internal timer gives a tick at its due instant. An edge before the acceptance band is ignored with the fault EARLY, one in the
band is a tick, and one after it is left to the band's end; at the end of a band without an edge a tick is synthesised, and
after 16 of those the device is LOST; of a start and of a reacquisition, the second of two edges P apart is the tick; of a
switch to TICK_IN, edges qualify the source and then give its first tick, or the end of its first band does. 16 × P without a
tick after TICK_START, or without qualification of a new source, is the fault NO_QUALIFY. What a tick leaves where no switch
is in progress: in RUNNING, with no PAUSE or HALT pending, it opens a window of P less the guard band and TICKNO increments;
in PAUSED, with no RESUME pending, it opens none; STC increments, pending parameters are in force, and the timer of a source
that has one is due P later. -/
def Obligations.TickSourcesTakeEffect : Prop :=
  ∀ (t : Instant) (upset : BitVec 2) (a : Instant) (w : Switch) (s : State), s.alive = true →
    let h := advance t s
    let prm := s.tick.newParams.getD s.tick.prm
    let period := 1000 * s.tick.prm.p
    let guard := 1000 * guardUs .tickIn s.tick.prm.p
    let due := s.tick.last.getD 0 + period
    let band := if s.tick.holdover then due else due + guard
    let follows : TickSource → Prop := fun src =>
      s.tick.source = src ∧ (s.tick.state = .running ∨ s.tick.state = .paused) ∧
        (s.tick.switch.all fun w => decide (w.tk = none)) = true
    let elsewhere := (s.tick.switch.all fun w => decide (w.source ≠ .tickIn)) = true
    let pair := (s.tick.edges.any fun e => spaced period guard e h.now) = true
    let noted := h.modTick fun k => { k with edges := h.now :: recentEdges period guard h.now k.edges }
    let common : Instant → State → Prop := fun x u =>
      u.tick.last = some x ∧ u.tick.prm = prm ∧ u.tick.stc = s.tick.stc + 1 ∧
        u.tick.due = (if s.tick.source = .tickIn then none else some (x + 1000 * prm.p))
    let ticked : Instant → State → Prop := fun x u => s.tick.switch = none →
      (s.tick.state = .running → s.tick.pause = none → s.tick.haltPending = false → common x u ∧ u.tick.state = .running ∧
        u.tick.tickno = s.tick.tickno + 1 ∧ u.tick.lastOpen = x ∧ ∃ v, u.tick.window = some v ∧ v.t0 = x ∧
          v.te = x + 1000 * (prm.p - guardUs s.tick.source prm.p) ∧ v.phase = .opened) ∧
      (s.tick.state = .paused → s.tick.resume = none → common x u ∧ u.tick.state = .paused ∧
        u.tick.tickno = s.tick.tickno ∧ u.tick.window = none)
    (follows .internal → s.tick.due = some a → a ≤ h.now →
      let u := tickAt a false none [] upset h
      exec (.internalTick t upset) s = .next u ∧ ticked a u) ∧
    (s.tick.due = none ∨ s.tick.due = some a ∧ h.now < a → exec (.internalTick t upset) s = .next h) ∧
    (follows .tickIn → elsewhere → s.tick.startedAt = none →
      (h.now < due - guard → exec (.tickInEdge t upset) s =
        .next (tickFault .early (h.modTick fun k => { k with edgesIgnored := k.edgesIgnored + 1 }))) ∧
      (due - guard ≤ h.now → h.now ≤ band →
        let u := tickAt h.now false none (if s.tick.holdover then [tickHoldoverExit] else []) upset
          (h.modTick fun k => { k with holdover := false, synth := 0 })
        exec (.tickInEdge t upset) s = .next u ∧ ticked h.now u) ∧
      (due - guard ≤ h.now → band < h.now → exec (.tickInEdge t upset) s = .next h) ∧
      (band ≤ h.now → s.tick.synth < 16 →
        let u := synthesise band false upset h
        exec (.tickInBandExpiry t upset) s = .next u ∧ ticked band u) ∧
      (band ≤ h.now → 16 ≤ s.tick.synth → exec (.tickInBandExpiry t upset) s = .next (enterLost h) ∧
        (enterLost h).tick.state = .lost ∧ (enterLost h).tick.window = none) ∧
      (h.now < band → exec (.tickInBandExpiry t upset) s = .next h)) ∧
    (follows .tickIn → elsewhere → s.tick.startedAt = some a →
      (pair → let u := tickAt h.now false none [] upset h
        exec (.tickInEdge t upset) s = .next u ∧ ticked h.now u) ∧
      (¬pair → exec (.tickInEdge t upset) s = .next noted) ∧ exec (.tickInBandExpiry t upset) s = .next h) ∧
    (s.tick.source = .tickIn → s.tick.state = .lost → s.tick.switch = none →
      (pair → exec (.tickInEdge t upset) s = .next (reacquire h.now none upset h)) ∧
      (¬pair → exec (.tickInEdge t upset) s = .next noted) ∧ exec (.tickInBandExpiry t upset) s = .next h) ∧
    (s.tick.source ≠ .tickIn → elsewhere →
      exec (.tickInEdge t upset) s = .next h ∧ exec (.tickInBandExpiry t upset) s = .next h) ∧
    (s.tick.switch = some w → w.source = .tickIn →
      (w.tk = none → exec (.tickInEdge t upset) s = .next (followSwitch w h.now h)) ∧
      (w.tk = some a →
        let first := newBand h (w.anchor.getD a) a
        (first.1 ≤ h.now → a ≤ h.now → h.now ≤ first.2 →
          exec (.tickInEdge t upset) s = .next (tickAt h.now true none [] upset h)) ∧
        (h.now < first.1 ∨ h.now < a ∨ first.2 < h.now → exec (.tickInEdge t upset) s = .next h) ∧
        (first.2 ≤ h.now → exec (.tickInBandExpiry t upset) s = .next (synthesise first.2 true upset h)) ∧
        (h.now < first.2 → exec (.tickInBandExpiry t upset) s = .next h))) ∧
    (s.tick.startedAt = some a →
      (a + 16 * period ≤ h.now →
        let u := enterStopped (tickFault .noQualify h)
        exec (.tickQualifyTimeout t) s = .next u ∧ u.tick.state = .stopped ∧ u.tick.switch = none ∧ u.tick.startedAt = none) ∧
      (h.now < a + 16 * period → exec (.tickQualifyTimeout t) s = .next h)) ∧
    (s.tick.startedAt = none → s.tick.switch = some w →
      (w.qualified = none → w.accepted + 16 * switchPeriod h ≤ h.now →
        let u := tickFault .noQualify (h.modTick fun k => { k with switch := none })
        exec (.tickQualifyTimeout t) s = .next u ∧ u.tick.switch = none ∧ u.tick.source = s.tick.source ∧
          u.tick.state = s.tick.state) ∧
      (w.qualified ≠ none ∨ h.now < w.accepted + 16 * switchPeriod h → exec (.tickQualifyTimeout t) s = .next h)) ∧
    (s.tick.startedAt = none → s.tick.switch = none → exec (.tickQualifyTimeout t) s = .next h)

/-- The tick source PLINK (R485 to R488), with no switch in progress: a block arriving on the port within 200 ns of the latest
tick or of the tick to come, after its delay is taken off, confirms it, and any other is ignored with the fault EARLY; the
follower's timer gives the tick at its due instant; a tick no block confirms in time is a synthesised one. -/
def Obligations.FollowerRowsTakeEffect : Prop :=
  ∀ (t : Instant) (port : Fin 4) (stc : BitVec 32) (depth : Fin 16) (hold : Bool) (upset : BitVec 2) (a : Instant) (s : State),
    s.alive = true →
    let h := advance t s
    let seen := h.modLink port fun l => { l with lastStc := stc }
    let c := h.now - (seen.plink port).delay
    let follows := s.tick.source = .plink ∧ (s.tick.state = .running ∨ s.tick.state = .paused) ∧ s.tick.switch = none ∧
      s.tick.startedAt = none
    let deeper := seen.modTick fun k => { k with depth := min (depth.val + 1) 15 }
    ((s.plink port).state ≠ .up → exec (.plinkTickBlock t port stc depth hold upset) s = .next h) ∧
    ((s.plink port).state = .up → follows → s.tick.port = port.val →
      (s.tick.last.any (near c) = true → exec (.plinkTickBlock t port stc depth hold upset) s =
        .next (countLink port (fun k => { k with confirms := k.confirms + 1 }) (confirmTick stc deeper))) ∧
      (s.tick.last.any (near c) = false → s.tick.due.any (near c) = true →
        exec (.plinkTickBlock t port stc depth hold upset) s =
          .next (countLink port (fun k => { k with confirms := k.confirms + 1 })
            (deeper.modTick fun k => { k with early := some (c, stc) }))) ∧
      (s.tick.last.any (near c) = false → s.tick.due.any (near c) = false →
        exec (.plinkTickBlock t port stc depth hold upset) s =
          .next (tickFault .early (countLink port (fun k => { k with ticksIgnored := k.ticksIgnored + 1 }) seen)))) ∧
    (follows → s.tick.due = some a → a ≤ h.now →
      exec (.followerTick t upset) s = .next (followerTick a false upset h)) ∧
    (s.tick.confirmBy = some a → a ≤ h.now → exec (.followerConfirmExpiry t) s =
      .next (postTicks (if s.tick.holdover then [] else [TickFault.missing.code, tickHoldoverEnter])
        (h.modTick fun k => { k with confirmBy := none, holdover := true, synth := k.synth + 1 })))

/-- The steps of DRAIN in their order, each row in every case (R41 to R44, R49, R458, R545, R583). Once the instant of its step
has come, a row takes it after the steps before it that the window has not taken yet, and the window has come to the phase of
that step, its boundaries as they were; before that instant, after that step, and where no window is open, only time passes. -/
def Obligations.DrainStepsTakeEffect : Prop :=
  ∀ (t : Instant) (failing : List Nat) (tests : BitVec 2) (drift : Bool) (w : Window) (s : State), s.alive = true →
    let h := advance t s
    let reached : Phase → State → Prop := fun p u => u.tick.window = some { w with phase := p }
    (s.tick.window = some w →
      (w.phase = .opened → w.td ≤ h.now →
        exec (.drainStart t) s = .next (stopDispatch h) ∧ reached .drain (stopDispatch h)) ∧
      (w.phase = .drain → w.tg ≤ h.now → exec (.guillotine t) s = .next (guillotineStep h)) ∧
      (w.phase.rank < 2 → w.tg ≤ h.now →
        let u := guillotineStep (drainTo 1 h)
        exec (.guillotine t) s = .next u ∧ reached .guillotined u) ∧
      (w.phase = .guillotined → w.tf ≤ h.now → exec (.fabricQuiesceEnd t) s = .next (quiesceStep h)) ∧
      (w.phase.rank < 3 → w.tf ≤ h.now →
        let u := quiesceStep (drainTo 2 h)
        exec (.fabricQuiesceEnd t) s = .next u ∧ reached .quiesced u) ∧
      (w.phase = .quiesced → w.tf ≤ h.now → exec (.egressFlushEnd t) s = .next (flushStep h)) ∧
      (w.phase.rank < 4 → w.tf ≤ h.now →
        let u := flushStep (drainTo 3 h)
        exec (.egressFlushEnd t) s = .next u ∧ reached .flushed u) ∧
      (w.phase = .flushed → w.tm ≤ h.now →
        exec (.maintenanceSlot t failing tests drift) s = .next (maintenanceStep failing tests drift h)) ∧
      (w.phase.rank < 5 → w.tm ≤ h.now →
        let u := maintenanceStep failing tests drift (drainTo 4 h)
        exec (.maintenanceSlot t failing tests drift) s = .next u ∧ reached .maintained u) ∧
      (w.phase ≠ .opened ∨ h.now < w.td → exec (.drainStart t) s = .next h) ∧
      (2 ≤ w.phase.rank ∨ h.now < w.tg → exec (.guillotine t) s = .next h) ∧
      (3 ≤ w.phase.rank ∨ h.now < w.tf → exec (.fabricQuiesceEnd t) s = .next h) ∧
      (4 ≤ w.phase.rank ∨ h.now < w.tf → exec (.egressFlushEnd t) s = .next h) ∧
      (w.phase = .maintained ∨ h.now < w.tm → exec (.maintenanceSlot t failing tests drift) s = .next h)) ∧
    (s.tick.window = none → ∀ i ∈ [Instr.drainStart t, .guillotine t, .fabricQuiesceEnd t, .egressFlushEnd t,
      .maintenanceSlot t failing tests drift], exec i s = .next h)

/-! ### Rows of the Drover -/

/-- Nodes (R44 to R46, R200, R202, R206, R214, R215, R227, R254, R371, R389, R397, R555, R560, R563): a ready node that no other
outranks is dispatched and its units start; a node whose work takes time does it and ends, with the cause PARITY if its parity
failed, once no row it reads is under refill, its taps and its packets have gone and the stalls grant its accesses, and a
GATE_COPY node ends when every packet is acknowledged; the end of a lease entry stops what runs under it; a wait whose bound
runs out ends by timeout; an NE program that overruns is an immediate fault; a replay goes on once no row it waits for is under
refill; a Drover error is corrected and counted, or a double error. That a node's work is done at its end is the model's reading
(assumption log 12). -/
def Obligations.NodeRowsTakeEffect : Prop :=
  ∀ (t : Instant) (g : GraphRef) (n : Nat) (parity : Bool) (tenant : Fin 4) (entry : Fin 16) (set : Nat) (gr : Graph)
    (inst : Inst) (since : Instant) (l : Lease) (w : Window) (r : ReplayRun) (s : State), s.alive = true →
    let h := advance t s
    let k := refKey g
    let kind := (s.node k n).kind
    let streamed := streamStep k n h
    let granted := passStalls .node (65536 * k + n) (nodeRows streamed.1 k n) streamed.1
    let worked := workNode k n (observeNode k n granted.1)
    (s.graph k = some gr → nodeReady h k (pairHead gr n) = true → outranked h k (pairHead gr n) = false →
      exec (.nodeDispatch t g n) s =
        .next ((pairOf gr (pairHead gr n)).foldl (fun u j => startUnits k j u) (dispatch k (pairHead gr n) h))) ∧
    (s.nodeRunning k n = true → nodeBusy s k n = false → kind = .engine ∨ kind = .ne ∨ kind = .resultOut →
      (waitsRefill h k n = true ∨ tapsDone k n h = false → exec (.nodeEnd t g n parity) s = .next h) ∧
      (waitsRefill h k n = false → tapsDone k n h = true →
        (streamed.2 = false → exec (.nodeEnd t g n parity) s = .next streamed.1) ∧
        (streamed.2 = true → granted.2 = false → exec (.nodeEnd t g n parity) s = .next granted.1) ∧
        (streamed.2 = true → granted.2 = true → worked.nodeRunning k n = false →
          exec (.nodeEnd t g n parity) s = .next worked) ∧
        (streamed.2 = true → granted.2 = true → worked.nodeRunning k n = true → exec (.nodeEnd t g n parity) s =
          .next (dropPackets k n (nodeDone k n (if parity then markNode k n 5 detailNone none worked else worked)))))) ∧
    (s.inst k = some inst → s.nodeRunning k n = true → nodeBusy s k n = false → kind = .gateCopy →
      exec (.nodeEnd t g n parity) s = .next (if gateDone (inst.run n) then nodeDone k n h else h)) ∧
    ((s.contract tenant).leases[entry.val]? = some l → s.tick.window = some w → l.unit ≠ 0xFF →
      w.t0 + 1000 * l.stop ≤ h.now → exec (.leaseEnd t tenant entry) s =
        .next ((runningNodes h).foldl (fun u p =>
          if tenantOf p.1 = tenant.val ∧ (u.node p.1 p.2).tags.contains entry.val = true then leaseStop p.1 p.2 entry u
          else u) h)) ∧
    (s.inst k = some inst → (inst.run n).phase = .running since → kind = .tetherWait →
      since + nodeBound h (s.node k n) ≤ h.now → (s.tether (bf (inst.run n).body 64 2)).met = false →
      exec (.tetherWaitTimeout t g n) s = .next (waitTimeout k n (inst.run n).body h)) ∧
    (kind = .ne → s.nodeRunning k n = true →
      (overrunRecord k n h = none → exec (.neOverrun t g n) s = .next (immediateFault k n 0x0F detailNone h)) ∧
      ∀ x d, overrunRecord k n h = some (x, d) → exec (.neOverrun t g n) s =
        .next { store x d (immediateFault k n 0x0F detailNone h) with
          draws := (immediateFault k n 0x0F detailNone h).draws + 5 }) ∧
    (s.inst k = some inst → inst.replays[set]? = some r → r.waiting = true → r.rows.any (thas s.loft.refills) = false →
      exec (.replayResume t g set) s = .next (h.modInst k fun x =>
        { x with replays := lmod x.replays set fun r => { r with waiting := false, rows := [] } })) ∧
    exec (.droverCheck t true) s = .next (droverDouble h) ∧
    exec (.droverCheck t false) s = .next (h.modDrover fun d => { d with corrected := d.corrected + 1 })

/-! ### Rows of the cameras -/

/-- Packets (R266, R268 to R270, R272, R276, R279, R294; Table 7.9): a port that does not listen hears nothing; a header out of
synchronisation or beyond correction is counted, and the second damages the frames of its port; a sound or corrected header
with a virtual channel up to 15 has its effect: a frame start opens frames, a long packet of an accepted data type is a line
of every frame its contexts hold, embedded data goes to the frames of its channel, a generic short packet is counted as
unsupported, a frame end ends frames, those that opened nothing too. -/
def Obligations.CameraPacketsTakeEffect : Prop :=
  ∀ (t : Instant) (port : Fin 8) (vc : Fin 32) (number : BitVec 16) (dt : BitVec 6) (data : List Byte) (crcOk : Bool)
    (hdr : HeaderCheck) (u : State) (s : State), s.alive = true →
    let h := advance t s
    let rows : HeaderCheck → List Instr := fun hdr =>
      [.csiFrameStart t port vc number hdr, .csiLongPacket t port vc dt data hdr crcOk,
       .csiEmbeddedData t port vc data hdr crcOk, .csiShortPacket t port vc dt hdr, .csiFrameEnd t port vc hdr]
    let listens := (s.port port).listens h.now = true
    let v := checkPayload port crcOk u
    let mine := fun k => match (v.ctx k).binding with | some b => decide (b.dtype = dt.toNat) | none => false
    (¬listens → ∀ i ∈ rows hdr, exec i s = .next h) ∧
    (listens →
      (∀ i ∈ rows .unsynchronised, exec i s = .next (portError port (fun c => { c with phySync := c.phySync + 1 }) h)) ∧
      (∀ i ∈ rows .uncorrectable, exec i s =
        .next (damagePort port (portError port (fun c => { c with hdrBad := c.hdrBad + 1 }) h)))) ∧
    (listens → (hdr = .sound ∧ u = h) ∨
        (hdr = .corrected ∧ u = portError port (fun c => { c with hdrCorrected := c.hdrCorrected + 1 }) h) →
      (15 < vc.val → ∀ i ∈ rows hdr, exec i s =
        .next (portError port (fun c => { c with unmatched := c.unmatched + 1 }) u)) ∧
      (vc.val ≤ 15 →
        exec (.csiFrameStart t port vc number hdr) s = .next (frameStart port vc number hdr u) ∧
        exec (.csiLongPacket t port vc dt data hdr crcOk) s = .next (if dtAccepted dt.toNat then
            toFrames port ((boundTo v port vc).filter mine) (fun k w => takeLine k data crcOk w)
              (countCorrected hdr ((boundTo v port vc).filter mine) v)
          else portError port (fun c => { c with unsupported := c.unsupported + 1 }) v) ∧
        exec (.csiEmbeddedData t port vc data hdr crcOk) s = .next (toFrames port (boundTo u port vc)
          (fun k w => takeEmbedded k data (modFrame k (fun f => { f with damaged := f.damaged || !crcOk }) w))
          (countCorrected hdr (boundTo u port vc) v)) ∧
        exec (.csiShortPacket t port vc dt hdr) s = .next (if 0x08 ≤ dt.toNat ∧ dt.toNat ≤ 0x0F
          then portError port (fun c => { c with unsupported := c.unsupported + 1 }) u
          else countCorrected hdr (boundTo u port vc) u) ∧
        exec (.csiFrameEnd t port vc hdr) s = .next (endDiscards (boundTo u port vc)
          (toFrames port (boundTo u port vc) (fun k w => frameEnd k w) (countCorrected hdr (boundTo u port vc) u)))))

/-- Lanes, camera ports, FSYNC and sensor transfers (R266, R278, R295, R298, R303, R306 to R308): the record of a frame that has
ended and drained, with no row out in the fabric, is written before t_g; a LANE_INPUT node whose bound runs out ends LATE and
cuts its frame, or ends ABSENT and is counted; a port listens once its quiet time is over; an FSYNC output takes the level the
schedule gives it; a transfer that an opening has given its instant starts at it, goes on record by record, and ends in failure
with its cause and the offset of the record that failed. -/
def Obligations.CameraTimersTakeEffect : Prop :=
  ∀ (t : Instant) (lane : Fin 8) (context : Fin 4) (g : GraphRef) (n : Nat) (port out i2c : Fin 8) (f : Frame) (w : Window)
    (inst : Inst) (since o q : Instant) (x : Transfer) (l : List Transfer) (reads : List XferRead) (which : Nat) (d : List Byte)
    (s : State), s.alive = true →
    let h := advance t s
    let k := refKey g
    let b := (inst.run n).body
    let c := 4 * bf b 64 1 + bf b 65 1
    let end_ := o + xferLen x.buf o
    let got := if fld x.buf o 1 = 2 then
      reads ++ [{ record := o, place := o + 4 + fld x.buf (o + 1) 1, data := fit (fld x.buf (o + 2) 2) d }] else reads
    let fails : Nat → Nat → State := fun cause at_ =>
      postTenant x.tenant clsCamera 5 (detail [(0, i2c.val), (16, x.cmdId.toNat), (32, cause), (40, at_)]) (xferEnd i2c false h)
    ((s.ctx (4 * lane.val + context.val)).frame = some f → s.tick.window = some w → f.ended.isSome = true →
      f.drained h.now = true → rowsOut s (4 * lane.val + context.val) = [] → h.now < w.tg →
      exec (.frameRecordWrite t lane context) s = .next (writeRecord (4 * lane.val + context.val) h)) ∧
    (s.inst k = some inst → (inst.run n).phase = .running since → (s.node k n).kind = .laneInput →
      since + nodeBound h (s.node k n) ≤ h.now →
      ((s.ctx c).opened = true → exec (.laneInputTimeout t g n) s = .next (endLaneInput k n .late (cutFrame c 1 h))) ∧
      ((s.ctx c).opened = false → exec (.laneInputTimeout t g n) s =
        .next (endLaneInput k n .absent (h.modLane (c / 4) fun l => { l with absent := l.absent + 1 })))) ∧
    ((s.port port).quietUntil = some q → q ≤ h.now →
      ∃ u, exec (.portQuietEnd t port) s = .next u ∧ { u with ports := s.ports } = h ∧
        (port.val < s.ports.length → u.port port = { s.port port with quietUntil := none })) ∧
    exec (.fsyncEdge t out) s = .next (driveFsync out (fsyncLevel h (s.fsyncOut out)) h) ∧
    ((s.i2cCtl i2c).queue = x :: l → (s.i2cCtl i2c).current = none → x.startAt = some q → q ≤ h.now →
      exec (.sensorXferStart t i2c) s = .next (xferNext i2c x 0 [] (h.modI2c i2c fun c => { c with queue := l }))) ∧
    ((s.i2cCtl i2c).current = some (x, o, reads) →
      exec (.i2cTransactionEnd t i2c (.done d)) s = .next (xferNext i2c x end_ got h) ∧
      exec (.i2cTransactionEnd t i2c .addressNak) s = .next (fails 0 o) ∧
      exec (.i2cTransactionEnd t i2c .dataNak) s = .next (fails 1 o) ∧
      exec (.i2cTransactionEnd t i2c .busStuck) s = .next (fails 3 o) ∧
      (s.shape → fld x.buf end_ 1 = 0 → ∀ b, got[which]? = some b →
        exec (.i2cTransactionEnd t i2c (.writeBackFailed d which)) s = .next (fails 4 b.record)) ∧
      exec (.i2cStretchTimeout t i2c) s = .next (fails 2 o))

/-! ### Rows of the Loft and of external memory -/

/-- The Loft (R224, R227 to R229, R248, R253 to R256, R585, R678): a cycle of a stall grants one access, and a stall that has
granted one in this cycle grants no other; a refill takes a cycle of its stall, writes its row and is posted, takes a spare
where its read-back fails, and fails its region where the backing copy is poisoned; a map-out writes the row to its spare, or
tries the next; scrub reads the next row in its turn; the gate service of a gateway serves its oldest request or refuses it. -/
def Obligations.LoftRowsTakeEffect : Prop :=
  ∀ (t : Instant) (stall : Fin 64) (flips : Flips) (ok : Bool) (row : Nat) (found : List SectorCheck) (f : Refill) (g : Region)
    (spare : Nat) (gateway : Fin 4) (k : Nat) (p : Flight) (s : State), s.alive = true →
    let h := advance t s
    let q := readSectors (g.backing + 512 * (row - g.first)) 4 8 found h
    let count : State → State := fun u => u.modLoft fun l => { l with counts := { l.counts with readBack := l.counts.readBack + 1 } }
    let gate := tget s.loft.gates p.pkt.gate
    let spent := recoveryAccess row h
    (stallGrant s stall = none → exec (.loftRowAccess t stall flips) s = .next h) ∧
    (∀ a, stallGrant s stall = some a →
      (cycleFree h stall = true →
        exec (.loftRowAccess t stall flips) s = .next (rowAccess a flips (loseCycle stall a h))) ∧
      (cycleFree h stall = false → exec (.loftRowAccess t stall flips) s = .next h)) ∧
    (tget s.loft.refills row = some f → f.mapping = none →
      (refillRegion s row f = none → exec (.refillEnd t row found ok) s = .next (dropRefill row h)) ∧
      (refillRegion s row f = some g →
        (q.2.2 = true → exec (.refillEnd t row found ok) s = .next (failRegion row f.region true (dropRefill row q.1))) ∧
        (q.2.2 = false → exec (.refillEnd t row found true) s = .next (postLoft row 2 (detail [(0, row), (20, f.region)])
          (dropRefill row (putRow row q.2.1 (recoveryAccess row q.1))))) ∧
        (q.2.2 = false → exec (.refillEnd t row found false) s =
          .next (tryMapOut row f.region (count (recoveryAccess row q.1)))))) ∧
    (tget s.loft.refills row = some f → f.mapping = some spare →
      (refillRegion s row f = none → exec (.mapOutEnd t row ok) s = .next (dropRefill row h)) ∧
      (refillRegion s row f = some g →
        exec (.mapOutEnd t row true) s = .next (postLoft row 3 (detail [(0, row), (20, spare)])
          (dropRefill row (putRow row (s.dram.mem.read (g.backing + 512 * (row - g.first)) 512) (mapRow row spare spent)))) ∧
        exec (.mapOutEnd t row false) s = .next (tryMapOut row f.region (spent.modLoft fun l =>
          { l with deadSpares := l.deadSpares ++ [64 * stallOf row + spare],
                   counts := { l.counts with readBack := l.counts.readBack + 1 } })))) ∧
    (s.boot.selfTested = true → s.inStandby = false → s.loft.refills = [] → s.loft.waiting = [] → s.loft.tries = [] →
      cycleFree h (stallOf s.loft.scrubNext) = true → s.tick.window = none →
      exec (.loftScrubRead t []) s = .next (detectRows .scrub [s.loft.scrubNext] (State.modPower
        ((spendCycle (stallOf s.loft.scrubNext) h).modLoft fun l => { l with
          scrubNext := if s.loft.scrubNext + 1 = loftRows then 0 else s.loft.scrubNext + 1, scrubDone := l.scrubDone + 1 })
        fun p => { p with
          loftScrub := p.loftScrub + 1, loftPromoted := p.loftPromoted + 0,
          passes := p.passes + b2n (decide (s.loft.scrubNext + 1 = loftRows)) }))) ∧
    (firstAt s (.endpoint (gatewayRouter gateway) 7) (fun p => p.isRequest && decide (p.mode = 1)) = some (k, p) →
      (gateRefusal h gate p.pkt = none → exec (.gateRequest t gateway) s =
        .next (serveRows k p (gatewayRouter gateway) 7 .gate ((gate.map (·.first)).getD 0 + p.pkt.rowOffset) h)) ∧
      ∀ why, gateRefusal h gate p.pkt = some why →
        let told := postTo (gate.map (·.tenant)) clsMemory 7 (detail [(0, p.pkt.gate), (8, why), (12, chipOf p.pkt.src)])
          (h.modLoft fun l => { l with counts := { l.counts with gateRefusals := l.counts.gateRefusals + 1 } })
        exec (.gateRequest t gateway) s = .next (nackFor (gatewayRouter gateway) 7 (why + 1) told.chip p.pkt.gate p.pkt
          (removePacket k told)))

/-- External memory (R241, R511, R516, R517, R519, R520, R523, R526, R527; Table 14.1): a sector read, with poison marking the
node that reads; a full write of a sector; a partial write, which faults its node where the sector is poisoned; neither
changes a check area or the backing range of a region; a refresh; a retraining step every 10 ms while no window opens; the
end of full training, with its event. -/
def Obligations.DramRowsTakeEffect : Prop :=
  ∀ (t : Instant) (x : Nat) (found : SectorCheck) (l : List SectorCheck) (n : NodeRef) (reader : DramReader) (d : List Byte)
    (ch : Fin 4) (drift : Bool) (since : Instant) (s : State), s.alive = true →
    let h := advance t s
    let r := readSector x found (readerCode reader) false h
    let w := partialWrite x d found h
    (dramServes s x 64 = true → readerActive s x reader = true →
      ((∀ m, r.2 = none → reader ≠ .node m) → exec (.dramSectorRead t x found reader) s = .next r.1) ∧
      (r.2 = none → reader = .node n → exec (.dramSectorRead t x found reader) s =
        .next (markNode (refKey n.graph) n.node 0x04 (detailSector x) none r.1))) ∧
    (dramServes s x 64 = true → hitsCheck s x 64 = false → hitsBacking s x 64 = false →
      exec (.dramFullWrite t x d) s = .next (writeSector x d h)) ∧
    (dramServes s x d.length = true → hitsCheck s x d.length = false → hitsBacking s x d.length = false →
      exec (.dramPartialWrite t x d found none) s = .next w.1 ∧
      (w.2 = false → exec (.dramPartialWrite t x d found (some n)) s = .next w.1) ∧
      (w.2 = true → exec (.dramPartialWrite t x d found (some n)) s =
        .next (immediateFault (refKey n.graph) n.node 0x08 (detailSector x) w.1))) ∧
    (hitsCheck s x 64 = true ∨ hitsBacking s x 64 = true → exec (.dramFullWrite t x d) s = .next h) ∧
    (hitsCheck s x d.length = true ∨ hitsBacking s x d.length = true →
      exec (.dramPartialWrite t x d found none) s = .next h ∧ exec (.dramPartialWrite t x d found (some n)) s = .next h) ∧
    (s.boot.dramTrained = true → s.inStandby = false →
      exec (.dramRefresh t ch) s = .next (h.modDram fun m => { m with channels := lmod m.channels ch.val fun c =>
        { c with counts := { c.counts with refreshes := c.counts.refreshes + 1 } } }) ∧
      (noWindows s = true → s.tick.window = none → s.dram.retrainAt + 10000000 ≤ h.now →
        exec (.idleRetrainTimer t drift) s = .next (retrainStep drift h))) ∧
    (s.tick.window = none → s.fabric.packets = [] → s.dram.scrubNext + 1 < eccRows s →
      dramServes s (eccRowAddr s s.dram.scrubNext) 512 = true →
      exec (.dramScrubRead t l) s = .next (scrubSectors (eccRowAddr s s.dram.scrubNext) 8 l (State.modPower
        (h.modDram fun m => { m with scrubNext := s.dram.scrubNext + 1, scrubDone := m.scrubDone + 1 })
        fun p => { p with dramScrub := p.dramScrub + 1, dramPromoted := p.dramPromoted + 0 }))) ∧
    ((s.dram.channels.getD ch.val .reset).training = some since → exec (.dramFullTrainingEnd t ch) s =
      .next (postAll clsMemory 0x106 (detail [(0, ch.val), (16, (h.now - since) / 1000 % 65536)])
        (h.modDram fun m => { m with channels := lmod m.channels ch.val fun c =>
          { c with training := none, counts := { c.counts with trainings := c.counts.trainings + 1 } } })))

/-- A full write of a DRAM sector stores its 64 bytes at the sector's address and leaves every other byte of external memory and
the whole Loft as they were; afterwards the sector is not poisoned, and no other sector's poison has changed (R519). -/
def Obligations.DramWriteStoresItsSector : Prop :=
  ∀ (t : Instant) (x : Nat) (d : List Byte) (s u : State), s.alive = true → s.memoryOk → dramServes s x 64 = true →
    hitsCheck s x 64 = false → hitsBacking s x 64 = false → d.length = 64 → exec (.dramFullWrite t x d) s = .next u →
    (∀ k, k < 64 → u.dram.mem.get (sectorAddr (sectorOf x) + k) = d.getD k 0) ∧
    (∀ a, (a < sectorAddr (sectorOf x) ∨ sectorAddr (sectorOf x) + 64 ≤ a) → u.dram.mem.get a = s.dram.mem.get a) ∧
    u.loft = s.loft ∧
    ∀ k, k ∈ u.dram.poison ↔ k ∈ s.dram.poison ∧ k ≠ sectorOf x

/-! ### Rows of the fabric and of the P-links -/

/-- The fabric (R427, R429, R431, R432, R444, R448, R450 to R453, R458, R459): what waits at a port enters its router if there
is room, and stalls there where there is none; a node, a GATE_COPY node or a lane injects while requests may go; the only
packet that wants an output and can advance is granted it; a port takes its oldest request or message, and discards a request
while none may go; an answer reaches its request, and one that fits none, came to its port late or carries another key is
counted; an expired request with no answer in time ends, and its tag comes free 10 ms later while no window opens. -/
def Obligations.FabricRowsTakeEffect : Prop :=
  ∀ (t : Instant) (router : Fin 16) (port : Fin 8) (out : Fin 12) (tag : Fin 64) (found : List SectorCheck) (n : NodeRef)
    (write : Bool) (addr rows row : Nat) (lane : Fin 8) (context : Fin 4) (chip : Fin 16) (payload : List Byte)
    (o : Outgoing) (k : Nat) (f : Flight) (q : Request) (since : Instant) (s : State), s.alive = true →
    let h := advance t s
    let key := reqKey router port tag
    let p : Packet := { o.pkt with h0 := ({ o.pkt.head with epoch := s.fabric.epoch } : H0).word }
    let drop : (FabricCounts → FabricCounts) → State → State := countFabric
    let want := fun f : Flight => outputOf h router f.pkt
    ((s.fabric.outgoing.find? fun o => decide (o.router = router.val) && decide (o.port = port.val)) = some o →
      s.tick.window = none →
      (roomFor h router (port.val + 4) p = true →
        exec (.fabricInject t router port .waiting) s = .next (countInjected p (putPacket
          (.buffer router (port.val + 4) p.vc) none p
          (stallSource router port 0 none (h.modFabric fun f => { f with outgoing := f.outgoing.erase o }))))) ∧
      (roomFor h router (port.val + 4) p = false →
        exec (.fabricInject t router port .waiting) s = .next (stallSource router port 0 (some .room) h))) ∧
    (mayInject h 1 = true →
      exec (.fabricInject t router port (.node n write addr rows)) s = .next (injectNode router port n write addr rows h) ∧
      exec (.fabricInject t router port (.gateCopy n)) s = .next (injectGateCopy router port n h) ∧
      exec (.fabricInject t router port (.laneRow lane context row)) s = .next (injectLane router port lane context row h)) ∧
    (mayInject h 1 = false → ∀ w ∈ [Injection.node n write addr rows, .gateCopy n, .laneRow lane context row],
      exec (.fabricInject t router port w) s = .next h) ∧
    (mayInject h 0 = true →
      exec (.fabricInject t router port (.firmware chip payload)) s = .next (injectFirmware router port chip payload h)) ∧
    ((headsOf h router).filter (fun c => (want c.2).isNone) = [] →
      (headsOf h router).filter (fun c => decide (want c.2 = some out.val)) = [(k, f)] → canAdvance h router out f = true →
      exec (.fabricForward t router out) s = .next (advancePacket router out k f (h.modFabric fun x =>
        { x with lastInput := tset x.lastInput (16 * router.val + out.val) (inputOf f),
                 controlRun := tset x.controlRun (16 * router.val + out.val) 0 }))) ∧
    (firstAt s (.endpoint router port)
        (fun p => !p.isResponse && !(p.isRequest && decide (p.mode = 1)) && decide (p.op ≠ 0x04)) = some (k, f) →
      (f.pkt.isRequest = false → exec (.fabricDeliver t router port found) s = .next (removePacket k h)) ∧
      (f.pkt.isRequest = true → mayInject h f.pkt.key = false → exec (.fabricDeliver t router port found) s =
        .next (drop (fun c => { c with quiesced := c.quiesced + 1 }) (removePacket k h))) ∧
      (f.pkt.isRequest = true → mayInject h f.pkt.key = true → port.val < 4 →
        exec (.fabricDeliver t router port found) s = .next (deliverStall k f router port h)) ∧
      (f.pkt.isRequest = true → mayInject h f.pkt.key = true → (∃ c < 4, dramPort c = (router.val, port.val)) →
        exec (.fabricDeliver t router port found) s = .next (deliverDram k f router port found h))) ∧
    (firstAt s (.endpoint router port) Packet.isResponse = some (k, f) →
      let key := reqKey router port f.pkt.tag
      let taken := removePacket k h
      (tget s.fabric.reqs key = none → exec (.fabricResponse t router port) s =
        .next (drop (fun c => { c with discarded := c.discarded + 1 }) taken)) ∧
      (tget s.fabric.reqs key = some q → q.pkt.key ≠ f.pkt.key → exec (.fabricResponse t router port) s =
        .next (drop (fun c => { c with keyRefusedRx := c.keyRefusedRx + 1 }) taken)) ∧
      (tget s.fabric.reqs key = some q → q.pkt.key = f.pkt.key → q.expiry < f.since →
        exec (.fabricResponse t router port) s = .next (drop (fun c => { c with discarded := c.discarded + 1 }) taken)) ∧
      (tget s.fabric.reqs key = some q → q.pkt.key = f.pkt.key → f.since ≤ q.expiry →
        exec (.fabricResponse t router port) s = .next (takeResponse router port key q f.pkt taken))) ∧
    (tget s.fabric.reqs key = some q →
      (q.expiry ≤ h.now → inTime h router port tag q = false → exec (.requestExpiry t router port tag) s =
        .next (endRequest key .expired (countFabric (fun c => { c with expired := c.expired + 1 }) h))) ∧
      (h.now < q.expiry ∨ inTime h router port tag q = true → exec (.requestExpiry t router port tag) s = .next h)) ∧
    (tget s.fabric.tagHold key = some since → s.tick.window = none → since + 10000000 ≤ h.now →
      exec (.tagHoldbackEnd t router port tag) s = .next (h.modFabric fun f => { f with tagHold := tdel f.tagHold key }))

/-- States of a P-link port (R465, R466, R468 to R470, R480; Table 13.1): training ends UP or in a failed step that repeats after
100 ms; a port that is DOWN trains again after 1 µs; a port in UP goes DOWN when FEC lock is lost, when no valid LINK_CTL has
come for 50 µs, or when the partner sends LINK_DOWN or TRAIN; recalibration steps are joined or begun; codewords are
counted. -/
def Obligations.LinkStatesTakeEffect : Prop :=
  ∀ (t : Instant) (port : Fin 4) (chip : Fin 16) (delay : Nat) (step : Fin 4) (sym : Fin 5) (r : Instant) (s : State),
    s.alive = true →
    let h := advance t s
    let l := s.plink port
    let failed := countLink port (fun c => { c with trainFails := c.trainFails + 1 }) h
    let retry : State → State := fun u => u.modLink port fun l => { l with failedOnce := true, retryAt := some (u.now + 100000000) }
    (l.state = .training → l.retryAt = none →
      exec (.plinkTrainingEnd t port (.up chip delay)) s = .next (linkUp port chip delay h) ∧
      (l.failedOnce = true → exec (.plinkTrainingEnd t port (.failed step)) s = .next (retry failed)) ∧
      (l.failedOnce = false → exec (.plinkTrainingEnd t port (.failed step)) s =
        .next (retry (postAll clsLink 0x103 (detail [(0, port.val), (2, step.val)]) failed)))) ∧
    (l.state = .training → l.retryAt = some r → r ≤ h.now → exec (.trainRetryTimer t port) s = .next (startTraining port h)) ∧
    (l.state = .down → l.since + 1000 ≤ h.now → exec (.downHoldEnd t port) s = .next (startTraining port h)) ∧
    exec (.fecLockLost t port) s = .next (goDown port .fecLost h) ∧
    (l.state = .up → l.lastRx + 50000 ≤ h.now → exec (.noAckTimeout t port) s = .next (goDown port .noAck h)) ∧
    (l.state ≠ .disabled →
      exec (.partnerBlockReceived t port 0x78) s = .next (goDown port .partner h) ∧
      exec (.partnerBlockReceived t port 0x66) s = .next (goDown port .partner h) ∧
      (∀ b : BitVec 8, b ≠ 0x78 → b ≠ 0x66 → b.toNat ∉ [0x1E, 0x33, 0x4B, 0x55, 0x87] →
        exec (.partnerBlockReceived t port b) s =
          .next (countLink port (fun c => { c with badBlocks := c.badBlocks + 1 }) h)) ∧
      exec (.fecCodeword t port (some sym)) s =
        .next (countLink port (fun c => { c with fecCorrected := c.fecCorrected + sym.val }) h) ∧
      exec (.fecCodeword t port none) s = .next (countLink port (fun c => { c with fecLost := c.fecLost + 1 }) h)) ∧
    (l.state = .up → recalibrating h port = false → exec (.recalBlockReceived t port) s =
      .next (recalStep port (countLink port (fun c => { c with recalJoined := c.recalJoined + 1 }) h))) ∧
    (noWindows s = true → exec (.idleRecalTimer t) s = .next ([0, 1, 2, 3].foldl (fun u p =>
      if u.chip < (u.plink p).neighbour ∧ ((u.plink p).recal.all fun r => decide (r + 10000000 ≤ u.now)) then recalStep p u
      else u) h))

/-- What a P-link port receives (R472 to R479, R499 to R501, R504, R505; Table 13.2): a damaged frame is counted; the frame
expected next is delivered and numbered; one ahead of it asks for a replay, at most every 1 µs; an older one is acknowledged
again; LINK_CTL returns credits and carries acknowledgement, NAK and FLUSH; 4 µs without progress replays, and 1 µs without
one sends LINK_CTL; an ABORT ends its instance or is counted; firmware messages reach the fabric manager; a pushed package
that passes every check starts Acrega, and another is dropped. -/
def Obligations.LinkFramesTakeEffect : Prop :=
  ∀ (t : Instant) (port : Fin 4) (seq : BitVec 12) (h0 h1 : BitVec 64) (rest : List Byte) (fields : BitVec 56) (k : Nat)
    (f : Flight) (g : Nat) (stc : BitVec 32) (chip : Fin 16) (cp : Fin 4) (r : Reroute) (image : List Byte) (s : State),
    s.alive = true → (s.plink port).state = .up →
    let h := advance t s
    let l := s.plink port
    let p : Packet := { h0 := h0, h1 := h1, rest := rest }
    let d := (seq.toNat + 4096 - l.rxExpected) % 4096
    let got := ingress port p (tallyIngress port h0 h1 (p.isData || decide (p.op = 0x01)) p.key (h.modLink port fun l =>
      { l with rxExpected := (l.rxExpected + 1) % 4096, sinceCtl := l.sinceCtl + 1,
               counts := { l.counts with framesDelivered := l.counts.framesDelivered + 1 } }))
    let n := fields.toNat
    let credited := h.modLink port fun l =>
      { l with lastRx := h.now, rxExpected := if bit n 46 then 0 else l.rxExpected,
               credits := (List.range 4).map fun v => min 129 (l.credits.getD v 0 + bits n (21 + 8 * v) (14 + 8 * v)) }
    let acked := if bit n 13 then takeAck port (bits n 11 0) credited else credited
    let w := f.pkt.h1
    let flood := floodAbort f.pkt.key (hbits w 7 0) (hbits w 15 8) (hbits w 23 16) (BitVec.ofNat 32 (hbits w 63 32))
      (some (port.val, f.pkt)) (spoilGateRows f.pkt.key (removePacket k h))
    exec (.linkFrameReceived t port seq h0 h1 rest false) s =
      .next (countLink port (fun c => { c with badFrames := c.badFrames + 1 }) h) ∧
    (d = 0 → exec (.linkFrameReceived t port seq h0 h1 rest true) s =
      .next (if 64 ≤ (got.plink port).sinceCtl then sendCtl port false false got else got)) ∧
    (0 < d → d ≤ 2047 → l.lastNak.all (fun n => decide (n + 1000 ≤ h.now)) = true →
      exec (.linkFrameReceived t port seq h0 h1 rest true) s =
        .next (sendCtl port true false (h.modLink port fun l => { l with lastNak := some h.now }))) ∧
    (2047 < d → exec (.linkFrameReceived t port seq h0 h1 rest true) s = .next (sendCtl port false false h)) ∧
    exec (.linkCtlReceived t port fields) s = .next (if bit n 12 then takeNak port (bits n 11 0) acked else acked) ∧
    (l.replay ≠ [] → l.progressAt + 4000 ≤ h.now → exec (.replayTimer t port) s = .next (replayAttempt port h)) ∧
    (l.lastTx + 1000 ≤ h.now → exec (.ackTimer t port) s = .next (sendCtl port false false h)) ∧
    (firstAt s (.endpoint (gatewayRouter port) 7) (fun p => decide (p.op = 0x04)) = some (k, f) →
      (flood.2 = false → exec (.abortReceived t port) s = .next flood.1) ∧
      (flood.2 = true → abortTarget flood.1 f.pkt.key (hbits w 7 0) (BitVec.ofNat 32 (hbits w 63 32)) = none →
        exec (.abortReceived t port) s = .next (countLink port (fun c => { c with abortsIdle := c.abortsIdle + 1 }) flood.1)) ∧
      (flood.2 = true → abortTarget flood.1 f.pkt.key (hbits w 7 0) (BitVec.ofNat 32 (hbits w 63 32)) = some g →
        exec (.abortReceived t port) s = .next (postAborted g (hbits w 15 8) (hbits w 23 16) true
          (BitVec.ofNat 32 (hbits w 63 32)) (abortInst g flood.1)))) ∧
    (s.fw.state = .ready →
      exec (.fwMsgReceived t port (.linkLost chip cp)) s = .next (beginReroute chip cp h) ∧
      exec (.fwMsgReceived t port .pushEnded) s = .next (postAll clsLink 0x107 (BitVec.ofNat 64 port.val) h) ∧
      exec (.fwMsgReceived t port .pushRejected) s = .next (postAll clsLink 0x108 (BitVec.ofNat 64 port.val) h) ∧
      (s.reroute = some r → r.master = true → chip.val ∉ r.confirmed → exec (.fwMsgReceived t port (.confirm chip)) s =
        .next { h with reroute := some { r with confirmed := chip.val :: r.confirmed } }) ∧
      (s.reroute = some r → r.master = false → exec (.fwMsgReceived t port (.switchAt stc)) s =
        .next { h with reroute := some { r with switchStc := some stc } }) ∧
      (routesOk s.chip (fit 192 image) = true → exec (.fwMsgReceived t port (.newTable image)) s =
        .next { h.modFabric (fun f => { f with versions := f.versions.set (1 - s.fabric.epoch) (parseRoutes (fit 192 image)) })
          with reroute := some { port := port, version := 1 - s.fabric.epoch, switchStc := none, confirmed := [],
                                 misses := 0, master := false } })) ∧
    (s.boot.romRunning = true → s.boot.waitPlink = true →
      exec (.bootPush t port image) s = .next (if packageOk h image then startAcrega image none h else h))

/-! ### Rows of the Halters, of egress, of heat and power, of Tally -/

/-- Halter units (R371, R405 to R411, R413, R416 to R418): the next tile that a tapped node produces is evaluated by an enabled
unit, and one the unit does not take is only counted, before the watchdogs are looked at; a row that names another tile than
the next names no arrival (the model's choice, assumption log 85); an acknowledgement that has stayed
high for 1 µs leaves STOP where the unit awaits one, and is ignored otherwise; a frame not done by its deadline, and a gap
between frames or tiles, enter STOP unless a tile of the same nanosecond still comes, which wins; so does a pin mismatch; the
heartbeat changes both pins every 50 µs. -/
def Obligations.HalterRowsTakeEffect : Prop :=
  ∀ (t : Instant) (u : Fin 2) (tile : List Byte) (n : NodeRef) (edge due tx ty : Nat) (pair : Fin 4) (w : Window) (s : State),
    s.alive = true →
    let h := advance t s
    let x := s.halter u
    let k := fld tile 8 1
    let p := x.pairs.getD k .reset
    let sent := h.modRun (refKey n.graph) n.node fun r => { r with tapped := r.tapped + 1 }
    let owned := sent.modHalter u fun x => { x with pairs := lmod x.pairs k fun p =>
      { p with owner := some (refKey n.graph, n.node) } }
    let counted := h.modHalter u fun x => { x with counts := { x.counts with acks := x.counts.acks + 1 } }
    let takes := x.state ≠ .disabled ∧ bit (hcfg x 5 1) n.graph.tenant = true ∧
      (watched (x.config.getD [])).contains k = true ∧ p.owner.any (· ≠ (refKey n.graph, n.node)) = false
    (tapsHalter s u n = true → nextTap (refKey n.graph) n.node h = some tile →
      fld tile 8 1 = pair.val → fld tile 0 2 = tx → fld tile 2 2 = ty →
      (takes → exec (.halterTile t u n pair tx ty) s = .next (watchdogs u
        (takeTile u k (fld tile 0 2) (fld tile 2 2) (fld tile 12 2) (bit (fld tile 9 1) 1)
          (tileBreaks owned p (fld tile 4 4) (fld tile 2 2) (fld tile 0 2)) (packetDisparity tile) (packetConfidence tile)
          owned))) ∧
      (¬takes → exec (.halterTile t u n pair tx ty) s = .next (watchdogs u
        (sent.modHalter u fun x => { x with counts := { x.counts with ignored := x.counts.ignored + 1 } })))) ∧
    (tapsHalter s u n = false ∨ nextTap (refKey n.graph) n.node h = none ∨
      (∃ next, nextTap (refKey n.graph) n.node h = some next ∧
        ¬(fld next 8 1 = pair.val ∧ fld next 0 2 = tx ∧ fld next 2 2 = ty)) →
      exec (.halterTile t u n pair tx ty) s = .next (watchdogs u h)) ∧
    (edge + 1000 ≤ h.now →
      ((∃ a, x.awaitAck = some a ∧ a ≤ edge) → exec (.halterAckQualified t u edge) s = .next (leaveStop u true counted)) ∧
      ((∀ a, x.awaitAck = some a → edge < a) → exec (.halterAckQualified t u edge) s =
        .next (postHalter u 7 []
          (counted.modHalter u fun x => { x with counts := { x.counts with acksIgnored := x.counts.acksIgnored + 1 } })))) ∧
    (s.tick.window = some w → x.frameDone = false → min (w.t0 + 1000 * hcfg x 8 4) w.tg ≤ h.now → tileComing h u = false →
      exec (.halterDeadline t u) s = .next (enterStop u .deadline none h)) ∧
    (x.gapFrom + 1000 * hcfg x 12 4 ≤ h.now → tileComing h u = false →
      exec (.halterGap t u) s = .next (enterStop u .gap none h)) ∧
    (tileComing h u = true → exec (.halterDeadline t u) s = .next h ∧ exec (.halterGap t u) s = .next h ∧
      exec (.halterTileGap t u pair) s = .next h) ∧
    ((x.pairs.getD pair.val .reset).lastTile = some due → due + 1000 * hcfg x 16 4 ≤ h.now → tileComing h u = false →
      exec (.halterTileGap t u pair) s = .next (enterStop u .tileGap none
        (h.modHalter u fun x => { x with pairs := lmod x.pairs pair.val fun p => { p with lastTile := none } }))) ∧
    exec (.halterPinMismatch t u) s = .next (enterStop u .pin none h) ∧
    (x.edgeDue = some due → due ≤ h.now → exec (.halterHeartbeatEdge t u) s =
      .next ((drivePins u (!x.pinA) (!x.pinB) x.pinSlow h).modHalter u fun x => { x with edgeDue := some (due + 50000) }))

/-- Results (R227, R228, R539 to R543, R546, R551, R570): the tenant whose turn it is gets one page while fewer than 8 pages
wait in the endpoint, once its 8 rows have passed the arbitration of their stalls in class NODE, and what credits allow is sent;
the front result of a ring with no page left gets its descriptor; a descriptor that has waited RES_TIME is signalled. -/
def Obligations.EgressRowsTakeEffect : Prop :=
  ∀ (t : Instant) (flaws : List (Nat × Flips)) (credits : Bool) (n m row : Nat) (f : Fin 4) (ring : Fin 64) (g : ResultRing) (r : Result)
    (l : List Result) (o : Instant) (s : State), s.alive = true →
    let h := advance t s
    (egressGrant s = none → exec (.egressPageGrant t flaws credits) s = .next (sendQueued credits h)) ∧
    (egressGrant s = some (n, m) → queuedPages s < 8 → grantRow s n m = some row →
      let p := passStalls .node (2 ^ 48) [(row, 8)] h
      (p.2 = true → exec (.egressPageGrant t flaws credits) s =
        .next (sendQueued credits (grantPage n m flaws (p.1.modEgress fun e => { e with lastTenant := n })))) ∧
      (p.2 = false → exec (.egressPageGrant t flaws credits) s = .next (sendQueued credits p.1))) ∧
    (egressGrant s = some (n, m) → 8 ≤ queuedPages s →
      exec (.egressPageGrant t flaws credits) s = .next (sendQueued credits h)) ∧
    (s.resultRing f ring = some g → g.queue = r :: l → g.frozen = false → r.pages = [] → r.started = true ∨ g.slotFree = true →
      exec (.egressDescriptor t f ring credits) s = .next (sendQueued credits (queueDescriptor f ring h))) ∧
    (s.resultRing f ring = some g → g.oldest = some o → o + 1000 * g.resTimeUs ≤ h.now →
      exec (.resultModerationTimer t f ring) s = .next (sendVector f g.vector
        (h.modResultRing f ring fun g => { g with unsignalled := 0, oldest := none })))

/-- Heat, power states and Tally (R591, R594, R596 to R598, R601, R612, R616, R617, R619): a sample of the sensors is taken
while the always-on supply is good; the level is evaluated 1 ms after the last evaluation while no window opens; at 125 °C
THERMTRIP_N falls, the Halter pins go to their stop levels and the links idle, once; a change of power state ends with its
effects and its completion, unless Acrega is away, which the end then awaits; Tally sends up to 8 rows in a WR packet to its
ring, as many as the row allows (assumption log 85), or waits with them where its port cannot take the packet, or is FULL; an
overflow episode ends once 4 KiB are free. -/
def Obligations.HeatPowerAndTallyRowsTakeEffect : Prop :=
  ∀ (t : Instant) (readings : List Int) (j : PowerJob) (c : TallyConfig) (lost : Nat) (last : Fin 8) (s : State),
    let h := advance t s
    let sample := (List.range 8).map fun k => readings.getD k 0
    let v := tracePort h
    let k := v.tally
    let off := if c.stopWhenFull then k.ringPos else k.ringPos % c.ringSize
    let rows := min (min ((k.fifo.length - k.ringTaken) / 512) (last.val + 1)) ((c.ringSize - off) / 512)
    let sent := sendRing (c.ringBase + off) ((k.fifo.drop k.ringTaken).take (512 * rows)) v
    (s.pins.pwrgdAon = true → exec (.thermalSample t readings) s = .next (h.modPower fun p =>
      { p with sensors := sample, highest := max p.highest (hottestOf sample).1,
               hottest := some (match p.hottest with | some x => hotter x (hottestOf sample) | none => hottestOf sample) })) ∧
    (s.pins.pwrgdAon = false → exec (.thermalSample t readings) s = .next h ∧ exec (.thermtrip t) s = .next h) ∧
    (s.pins.pwrgdAon = true → s.pins.thermtrip = false → exec (.thermtrip t) s = .next (idleLinks
      (drivePins 1 false false true (drivePins 0 false false true
        (emit (.pin .thermtripN false) { h with pins := { s.pins with thermtrip := true } }))))) ∧
    (s.pins.thermtrip = true → exec (.thermtrip t) s = .next h) ∧
    (s.alive = true → noWindows s = true → s.power.evaluated + 1000000 ≤ h.now →
      exec (.thermalEvaluation t) s = .next (evaluateHeat h)) ∧
    (s.alive = true → (s.fw.crashed = true ∨ s.fw.state ≠ .ready) → exec (.powerStateChangeEnd t) s = .next h) ∧
    (s.alive = true → s.power.job = some j → s.fw.crashed = false → s.fw.state = .ready →
      let free := h.modPower fun x => { x with job := none }
      let done := fun u : State => settle (finish j.cmd .ok 0 (setPower j.target u))
      (j.target = .standbyRetain → exec (.powerStateChangeEnd t) s = .next (done (standbyOff free))) ∧
      (j.target = .standby → exec (.powerStateChangeEnd t) s = .next (done (loseLoft (standbyOff free)))) ∧
      (j.target = .active ∨ j.target = .decaf → exec (.powerStateChangeEnd t) s = .next (done (trainAll free)))) ∧
    (s.alive = true → s.tally.config = some c → c.ring = true → k.state ≠ .full → 512 ≤ k.fifo.length - k.ringTaken →
      ringTime v = true → v.inStandby = false → k.lastWrite = none →
      (rows = 0 → exec (.tallyRingWrite t last) s = .next (v.modTally fun t => ({ t with state := .full } : Tally).free)) ∧
      (0 < rows → sent.2 = true → exec (.tallyRingWrite t last) s = .next (sent.1.modTally fun t =>
          ({ t with ringTaken := t.ringTaken + 512 * rows, ringPos := t.ringPos + 512 * rows,
                    lastWrite := some v.now } : Tally).free)) ∧
      (0 < rows → sent.2 = false → exec (.tallyRingWrite t last) s = .next sent.1)) ∧
    (s.alive = true → v.tally.episode = some lost → v.tally.fifo.length + 4096 ≤ tallyFifo →
      exec (.tallyOverflowResume t) s = .next (tallySync (tallyBytes (0x50 :: le 4 (min lost 0xFFFFFFFF))
        (v.modTally fun t => { t with episode := none }))))

/-! ### Reset, boot and the ends of long commands -/

/-- Resets and the pins that cause them (R601, R623, R625 to R627, R630, R631, R635, R652, R673; Table 19.3): the power-good
inputs take their levels, and one that is low holds the device in reset; PERST_N low holds it; PERST_N high with every
power-good input high samples the straps and starts the boot ROM at device time 0; the warm reset runs once DEVICE_RESET has
asked for it; a JTAG instruction is loaded. -/
def Obligations.ResetRowsTakeEffect : Prop :=
  ∀ (t : Instant) (aon core io v18 width : Bool) (sel : BitVec 2) (i : JtagInstr) (s : State),
    let h := advance t s
    let levels := { h with pins := { s.pins with pwrgdAon := aon, pwrgdCore := core, pwrgdIo := io, vddIo18 := v18 } }
    exec (.powerGoodChange t aon core io v18 false) s = .next (slowBack s.pins.vddIo18
      (releaseTrip (if aon && core && io then levels else holdReset levels))) ∧
    exec (.perstNAssert t) s = .next (if s.pins.perstN then holdReset h else h) ∧
    (s.pins.pwrgdAon = true → s.pins.pwrgdCore = true → s.pins.pwrgdIo = true → s.pins.perstN = false →
      exec (.perstNRelease t sel width false) s = .next (startRom { h with
        now := 0, pins := { s.pins with perstN := true, bootSel := sel, pcieWidth := width } })) ∧
    (s.pins.perstN = true → exec (.perstNRelease t sel width false) s = .next h) ∧
    (s.alive = true → s.fw.resetDue = true → exec (.warmReset t sel) s = .next (warmReset sel h)) ∧
    (s.alive = true → s.fw.resetDue = false → exec (.warmReset t sel) s = .next h) ∧
    exec (.jtagInstruction t i) s = .next { h with pins := { s.pins with
      jtag := i, jtagData := if i = .idcode then some (idcode s.part.grade) else none } }

/-- Boot (R39, R40, R505, R635 to R641, R643, R644): the self-test gives failing rows their spares; training succeeds, or
firmware has FAILED; a candidate that passes every check starts Acrega, and one that does not hands on to the next; the
endpoint is ready; Acrega is READY once everything has ended, or FAILED where the fuses do not take. -/
def Obligations.BootRowsTakeEffect : Prop :=
  ∀ (t : Instant) (spares rows : List Nat) (gib qf qe : Nat) (fuseOk : Bool) (k : Fin 2) (d : List Byte) (s : State),
    s.alive = true →
    let h := advance t s
    let tested := { h with loft := { s.loft with deadSpares := spares }, boot := { s.boot with selfTested := true } }
    let trained := fun ok : Bool => trainAll { h with boot := { s.boot with
      dramTrained := ok, dramFailed := !ok, installedGib := gib } }
    let tried := takeSubsystem d { h with boot := { s.boot with slots := s.boot.slots.set k.val (some d) } }
    let good := slotHeaderOk d && slotCrcOk d && packageOk tried (slotPackage d)
    exec (.pcieEndpointReady t) s = .next { h with boot := { s.boot with endpointReady := true } } ∧
    (s.fw.state = .booting →
      (s.boot.selfTested = false → exec (.loftSelfTestEnd t spares rows) s =
        .next (undefineRows 0 loftRows (rows.foldl (fun u row => selfTestRow row u) tested))) ∧
      (s.boot.dramTrained = false → s.boot.dramFailed = false →
        exec (.dramTrainingEnd t true gib) s = .next (checkDram (trained true)) ∧
        exec (.dramTrainingEnd t false gib) s = .next (setFw .failed (trained false))) ∧
      (s.boot.romRunning = true →
        exec (.bootCandidateRead t .host d) s = .next (tryHost d h) ∧
        (s.boot.candidates.contains k.val = true →
            newerSlot { h with boot := { s.boot with slots := s.boot.slots.set k.val (some d) } } k.val = false →
          exec (.bootCandidateRead t (.flash k) d) s =
            .next (if good then startAcrega (slotPackage d) (some k.val) tried else rejectSlot k.val tried))) ∧
      (s.boot.started = true → s.boot.selfTested = true → s.boot.dramTrained = true →
        let blown := (blowFuses fuseOk h).1
        ((blowFuses fuseOk h).2 = true → exec (.acregaReady t qf qe fuseOk) s = .next (becomeReady
          (if quiesceOk qf qe then blown.modTick fun t => { t with qf := qf, qe := qe } else blown))) ∧
        ((blowFuses fuseOk h).2 = false → exec (.acregaReady t qf qe fuseOk) s = .next (setFw .failed blown))))

/-- A movement ends with its data or its failure once nothing it needs is under refill or in training, its host buffer can be
read and its rows have passed the arbitration of their stalls in class HOST (R78, R145, R150, R227, R239, R240); a flash write
ends with the slot number and the slot written, or FLASH_ERROR and the slot as it was (R646). -/
def Obligations.LongCommandsEnd : Prop :=
  ∀ (t : Instant) (id : Nat) (data : Option (List Byte)) (flaws : List (Nat × Flips)) (sectors : List (Nat × SectorCheck))
    (m : Move) (j : FlashJob) (s : State), s.alive = true →
    let h := advance t s
    let slots := s.boot.slots.set j.slot (some (slotHeader j.seq j.package ++ j.package.drop 64))
    (tget s.moves id = some m → moveWaits s id m = false →
      let p := passStalls .host (2 ^ 24 + id) (moveRows s m) h
      (p.2 = true →
        exec (.dataMovementEnd t id data flaws sectors) s = .next (settle (endMove id m data flaws sectors p.1))) ∧
      (p.2 = false → exec (.dataMovementEnd t id data flaws sectors) s = .next p.1)) ∧
    (tget s.moves id = some m → moveWaits s id m = true → exec (.dataMovementEnd t id data flaws sectors) s = .next h) ∧
    (s.fw.state = .ready → s.flash = some j →
      exec (.flashWriteEnd t true) s = .next (settle (finish j.cmd .ok (resultBytes [(20, j.slot)]) { h with
        flash := none, boot := { s.boot with slots := slots } })) ∧
      exec (.flashWriteEnd t false) s = .next (settle (finish j.cmd .flashError 0 { h with flash := none })))

/-! ### The block as a whole -/

/-- A step takes the command at the front of the queue and runs it on the state with the rest of the queue; on an empty queue
the block idles, which is the model's choice (assumption log 3). -/
def Obligations.StepTakesTheFrontCommand : Prop :=
  (∀ (c : Instr) (s : State), step { s with pending := c :: s.pending } = exec c s) ∧
  ∀ s : State, s.pending = [] → step s = .next s

/-- Right after reset the memories are canonical, the device has its units, the Halter pins say DISABLED, and tenants share
nothing (R166, R413). -/
def Obligations.ResetIsSound : Prop := State.reset.Sound

/-- From every sound state, every step that answers a next state answers a sound one: memories stay in their canonical form, no
unit is lost, the pins of each Halter unit say its state (R413, R414), after THERMTRIP both are low (R601), and no two contracts
of different tenants, in force or pending, share a row, a byte, a tether, the key or time on a unit (R163). -/
def Obligations.EveryStepKeepsSoundness : Prop := ∀ s u : State, s.Sound → step s = .next u → u.Sound

/-- From every sound state, a step leaves the grade, the serial number and the key hash of the fuses as they were, never lowers
the rollback count (R639), takes nothing but the front command from the queue, and, unless the command is a reset of the whole
device, never turns device time back. -/
def Obligations.FusesStandAndTimeRuns : Prop :=
  ∀ (c : Instr) (s u : State), s.Sound → exec c s = .next u →
    u.pending = s.pending ∧ u.part.grade = s.part.grade ∧ u.part.serial = s.part.serial ∧
    u.part.keyHash = s.part.keyHash ∧ s.part.rollback ≤ u.part.rollback ∧
    (match c with
      | .powerGoodChange .. | .perstNAssert .. | .perstNRelease .. | .warmReset .. => True
      | _ => s.now ≤ u.now)

/-- An Acrega command whose turn has not come, or that waits for another on the same object, lets time pass and changes nothing
else, whichever of the 52 commands it is (R104 to R106). That such a row is no error is the model's choice (assumption log
10). -/
def Obligations.CommandsWaitTheirTurn : Prop :=
  ∀ (i : Instr) (op : Nat) (t : Instant) (r : RingRef) (e : Entry) (s : State), acregaOf i = some (op, t, r, e) →
    (waitsFor i s = true ∨ takeFront op r e (advance t s) = none) → exec i s = .next (advance t s)

/-- Each of the 52 Acrega commands whose acceptance instant is later than its doorbell's instant plus TIMEOUT_US, where that is
nonzero, only increments TIMEOUTS and completes with TIMED_OUT (R116, R117). -/
def Obligations.LateCommandsTimeOut : Prop :=
  ∀ (i : Instr) (op : Nat) (t : Instant) (r : RingRef) (e : Entry) (seq : Nat) (c : Cmd) (s : State),
    acregaOf i = some (op, t, r, e) → waitsFor i s = false → takeFront op r e (advance t s) = some (seq, c) →
    efld e 8 4 ≠ 0 → c.doorbell + 1000 * efld e 8 4 < (accepted seq t s).now →
    exec i s = .next (settle (finish seq .timedOut 0
      ((accepted seq t s).modFn c.fn fun x => { x with timeouts := x.timeouts + 1 })))

/-- In a Standby state each of the 42 commands that are not accepted there has no effect: it completes with BAD_STATE, or with
BAD_PARAM where it fails such a check too (R143, R595). -/
def Obligations.StandbyTurnsCommandsAway : Prop :=
  ∀ (i : Instr) (op : Nat) (t : Instant) (r : RingRef) (e : Entry) (seq : Nat) (c : Cmd) (s : State),
    acregaOf i = some (op, t, r, e) → waitsFor i s = false → takeFront op r e (advance t s) = some (seq, c) →
    timedOut (accepted seq t s) c = false → s.inStandby = true → op ∉ standbyOpcodes →
    ∃ st, (st = Status.badState ∨ st = .badParam) ∧ exec i s = .next (settle (finish seq st 0 (accepted seq t s)))

/-- A command whose checks fail has no effect but its completion, with the lowest code of those that fail, whatever its checks
and its effect are (R86, R143). -/
def Obligations.LowestFailingCodeCompletes : Prop :=
  ∀ (op : Nat) (t : Instant) (r : RingRef) (e : Entry) (seq : Nat) (c : Cmd) (checks : State → List (Bool × Status))
    (body : Nat → State → State) (st : Status) (s : State), takeFront op r e (advance t s) = some (seq, c) →
    timedOut (accepted seq t s) c = false →
    let all := (badHeader e, Status.badParam) :: (s.inStandby && !standbyOpcodes.contains op, .badState) ::
      checks (accepted seq t s)
    (true, st) ∈ all → (∀ x, (true, x) ∈ all → st.code ≤ x.code) →
    command op t r e checks body s = .next (settle (finish seq st 0 (accepted seq t s)))

/-- A completion (R88 to R90, R103, R108; Table 3.4): the command leaves the device; the next thing it sends is the CQ entry, at
the CQ tail, with CMD_ID, the ring, the SQ head, the status, the device time and TICKNO of its acceptance, its result where
it succeeded, and the phase of this lap. Everything else in the device but the queues to the host stays as it was. -/
def Obligations.CompletionsFillTheirEntries : Prop :=
  ∀ (seq : Nat) (st : Status) (result : BitVec 64) (c : Cmd) (a : Instant) (n : BitVec 32) (g : Machine.Ring) (s : State),
    tget s.cmds seq = some c → c.phase = .accepted a n → c.muted = false → s.ring c.fn c.ring = some g → g.stop = none →
    s.mayRequest c.fn = true →
    let u := finish seq st result s
    u.cmds = tdel s.cmds seq ∧ u.inner = s.inner ∧
    ∃ (entry : BitVec 256) (rest : List Emit),
      u.out = s.out ++ { time := s.now, out := .cqEntry c.fn c.ring (g.cqBase + BitVec.ofNat 64 (32 * g.cqTail)) entry } ::
        rest ∧
      entry.extractLsb' 0 16 = BitVec.ofNat 16 (efld c.entry 4 2) ∧
      entry.extractLsb' 16 16 = BitVec.ofNat 16 c.ring ∧
      entry.extractLsb' 32 16 = BitVec.ofNat 16 c.sqHead ∧
      entry.extractLsb' 48 16 = BitVec.ofNat 16 st.code ∧
      entry.extractLsb' 64 64 = BitVec.ofNat 64 a ∧
      entry.extractLsb' 128 32 = n ∧
      entry.extractLsb' 160 64 = (if st = .ok ∨ st = .deferred then result else 0) ∧
      entry.extractLsb' 224 32 = BitVec.ofNat 32 (2 ^ 16 * b2n g.phase)

/-- The commands that only ask, whatever comes of them (accepted or waiting, in time or late, checked or refused), change
nothing of the device but what goes to the host; TELEMETRY_READ also lets the trace port catch up with device time. -/
def Obligations.QueriesChangeNothing : Prop :=
  ∀ (t : Instant) (r : RingRef) (e : Entry) (ok : Bool) (s u : State),
    (∀ i ∈ [Instr.identify t r e, .partitionGet t r e ok, .tickStatus t r e ok, .graphStatus t r e, .tetherRead t r e,
      .debugPeek t r e], exec i s = .next u → u.inner = s.inner) ∧
    (exec (.telemetryRead t r e ok) s = .next u → { u.inner with tally := s.tally } = s.inner)

/-- The fabric after any reset of the whole device: right after State.reset, and after PERST_N falls, a power-good input falls, or
a warm reset runs, the epoch is 0 and both versions hold the reset table (R439). -/
def Obligations.FabricAfterReset : Prop :=
  ∀ (t : Instant) (aon core io v18 : Bool) (sel : BitVec 2) (s u : State),
    u = State.reset ∨ (s.pins.perstN = true ∧ exec (.perstNAssert t) s = .next u) ∨
      ((aon && core && io) = false ∧ exec (.powerGoodChange t aon core io v18 false) s = .next u) ∨
      (s.alive = true ∧ s.fw.resetDue = true ∧ exec (.warmReset t sel) s = .next u) →
    u.fabric.epoch = 0 ∧ u.fabric.versions.length = 2 ∧
    ∀ v ∈ u.fabric.versions, v.timeoutUs = 200 ∧ v.keys = 0 ∧ v.links.length = 4 ∧ (∀ l ∈ v.links, l.enabled = false) ∧
      v.route.length = 16 ∧ ∀ c, c < 16 → v.route.getD c 0 = if c = u.chip then 0 else 0xFF

/-- While TEST_EN is high the manual says nothing of the device: the two rows that sample it stop (R654). -/
def Obligations.TestEnableStops : Prop :=
  ∀ (t : Instant) (aon core io v18 width : Bool) (sel : BitVec 2) (s : State),
    exec (.powerGoodChange t aon core io v18 true) s = .fault .testEnabled ∧
    exec (.perstNRelease t sel width true) s = .fault .testEnabled
end

