-- ==== Sys2Proof/Laws/Command.lean ====
section
/-!
SUPPORT. What an Acrega command does, said once: it waits, it is turned away, or it takes its effect.
-/
namespace Sys2Proof.Machine

/-- Checks that all pass have no failing code. -/
theorem firstFailing_pass {cs : List (Bool × Status)} (h : ∀ x ∈ cs, x.1 = false) : firstFailing cs = none := by
  have hn : cs.filter (·.1) = [] := List.filter_eq_nil_iff.2 fun x hx => by simp [h x hx]
  simp [firstFailing, hn, minBy]

/-- The least of a list: a member that none falls below. -/
theorem minBy_spec {α : Type} (f : α → Nat) : ∀ {l : List α}, l ≠ [] →
    ∃ y, minBy f l = some y ∧ y ∈ l ∧ ∀ z ∈ l, f y ≤ f z := by
  intro l
  induction l with
  | nil => exact fun h => absurd rfl h
  | cons x l ih =>
    intro _
    by_cases hl : l = []
    · subst hl
      exact ⟨x, rfl, by simp, by simp⟩
    · obtain ⟨y, h1, h2, h3⟩ := ih hl
      simp only [minBy, h1]
      split
      · rename_i h
        refine ⟨y, rfl, List.mem_cons_of_mem _ h2, fun z hz => ?_⟩
        rcases List.mem_cons.1 hz with rfl | hz
        · exact Nat.le_of_lt h
        · exact h3 z hz
      · rename_i h
        refine ⟨x, rfl, List.mem_cons_self, fun z hz => ?_⟩
        rcases List.mem_cons.1 hz with rfl | hz
        · exact Nat.le_refl _
        · exact Nat.le_trans (Nat.le_of_not_lt h) (h3 z hz)

/-- Two statuses have two codes. -/
theorem status_code_inj {a b : Status} (h : a.code = b.code) : a = b := by
  revert h
  cases a <;> cases b <;> decide

/-- A failing check whose code none of the failing ones falls below is the one reported. -/
theorem firstFailing_min {cs : List (Bool × Status)} {st : Status} (h : (true, st) ∈ cs)
    (hm : ∀ x, (true, x) ∈ cs → st.code ≤ x.code) : firstFailing cs = some st := by
  have hf : (true, st) ∈ cs.filter (·.1) := List.mem_filter.2 ⟨h, rfl⟩
  obtain ⟨⟨b, z⟩, h1, h2, h3⟩ := minBy_spec (fun p : Bool × Status => p.2.code) (List.ne_nil_of_mem hf)
  obtain ⟨hz, hb⟩ := List.mem_filter.1 h2
  have hb : b = true := hb
  subst hb
  unfold firstFailing
  rw [h1]
  exact congrArg some (status_code_inj (Nat.le_antisymm (h3 _ hf) (hm z hz)))

theorem takeFront_some {op : Nat} {r : RingRef} {e : Entry} {s : State} {seq : Nat} {c : Cmd}
    (h : takeFront op r e s = some (seq, c)) :
    frontCmd s.cmds r.fn r.ring = some (seq, c) ∧ opcode e = op ∧ c.entry = e ∧ acceptable s seq c = true ∧
      s.tickDue (acceptInstant s) = false := by
  unfold takeFront at h
  split at h
  · rename_i q d hf
    split at h
    · rename_i hc
      cases h
      exact ⟨hf, hc⟩
    · cases h
  · cases h

/-- A command that no check turns away takes its effect. -/
theorem command_runs {op : Nat} {t : Instant} {r : RingRef} {e : Entry} {seq : Nat} {c : Cmd} {s : State}
    {cs : State → List (Bool × Status)} {body : Nat → State → State} (h : Accepts op t r e seq c s)
    (hc : ∀ x ∈ cs (accepted seq t s), x.1 = false) :
    command op t r e cs body s = .next (settle (body seq (accepted seq t s))) := by
  obtain ⟨-, ho, he, -⟩ := takeFront_some h.front
  have hs : ((accepted seq t s).inStandby && !standbyOpcodes.contains (opcode e)) = false := by
    rw [ho]
    rcases h.awake with hw | hw
    · have : (accepted seq t s).inStandby = false := hw
      simp [this]
    · simp [hw]
  have hn : firstFailing ((badHeader c.entry, Status.badParam) ::
      ((accepted seq t s).inStandby && !standbyOpcodes.contains (opcode c.entry), .badState) ::
      cs (accepted seq t s)) = none := by
    refine firstFailing_pass fun x hx => ?_
    rw [he] at hx
    rcases List.mem_cons.1 hx with rfl | hx
    · exact h.header
    · rcases List.mem_cons.1 hx with rfl | hx
      · exact hs
      · exact hc x hx
  have hm : markAccepted seq (advance t s) = accepted seq t s := rfl
  simp only [command, h.front, runAccepted, hm, h.inTime, Bool.false_eq_true, if_false, checked, hn]

/-- A command accepted from a ring belongs to its function. -/
theorem takeFront_fn {op : Nat} {r : RingRef} {e : Entry} {s : State} {seq : Nat} {c : Cmd}
    (h : takeFront op r e s = some (seq, c)) : c.fn = r.fn := by
  have hp := List.find?_some (takeFront_some h).1
  simp only [Bool.and_eq_true, decide_eq_true_eq] at hp
  exact Fin.ext hp.1.1

/-- A command that is accepted is taken up. -/
theorem Accepts.takenUp {op : Nat} {t : Instant} {r : RingRef} {e : Entry} {seq : Nat} {c : Cmd} {s : State}
    (h : Accepts op t r e seq c s) : takenUp (accepted seq t s) c = true := by
  obtain ⟨-, ho, he, -⟩ := takeFront_some h.front
  have hs : ((accepted seq t s).inStandby && !standbyOpcodes.contains (opcode c.entry)) = false := by
    rw [he, ho]
    rcases h.awake with hw | hw
    · have : (accepted seq t s).inStandby = false := hw
      simp [this]
    · simp [hw]
  unfold Machine.takenUp
  rw [hs, h.inTime]
  rfl

/-- A command that reads its host buffer, whose function may make requests and which no check turns away, takes its effect
after the read. -/
theorem bufCommandAfter_runs {first : State → State} {op : Nat} {t : Instant} {r : RingRef} {e : Entry} {seq : Nat} {c : Cmd}
    {s : State} {cs bs : State → List (Bool × Status)} {body : Nat → State → State} (h : Accepts op t r e seq c s)
    (hr : s.mayRequest r.fn = true) (hm : (first (accepted seq t s)).mayRequest r.fn = true)
    (hu : Machine.takenUp (first (accepted seq t s)) c = Machine.takenUp (accepted seq t s) c)
    (hc : ∀ x ∈ cs (first (accepted seq t s)), x.1 = false)
    (hb : ∀ x ∈ cs (readBuffer r.fn e (first (accepted seq t s))) ++ bs (readBuffer r.fn e (first (accepted seq t s))),
      x.1 = false) :
    bufCommandAfter first op t r e cs bs body s =
      .next (settle (body seq (readBuffer r.fn e (first (accepted seq t s))))) := by
  obtain ⟨-, ho, he, -⟩ := takeFront_some h.front
  have hf := takeFront_fn h.front
  have hk := h.takenUp
  have hready : bufferReady (advance t s) r.fn = true := by
    have : (advance t s).mayRequest r.fn = true := hr
    simp [bufferReady, this]
  have hany : (cs (first (accepted seq t s))).any (fun p => p.1 && decide (p.2 = .badParam)) = false := by
    rw [List.any_eq_false]
    intro x hx
    simp [hc x hx]
  have hreq : requestBuffer c (cs (first (accepted seq t s))) (first (accepted seq t s)) =
      readBuffer r.fn e (first (accepted seq t s)) := by
    simp [requestBuffer, hf, he, hm, hu, hk, h.header, hany]
  have htake : Machine.takenUp (readBuffer r.fn e (first (accepted seq t s))) c = true := hu.trans hk
  simp only [Machine.takenUp, Bool.and_eq_true, Bool.not_eq_true'] at htake
  have hrun : ∀ v, v = readBuffer r.fn e (first (accepted seq t s)) →
      runAccepted seq c (fun s => cs s ++ bs s) body v = body seq v := by
    intro v hv
    have hn : firstFailing ((badHeader c.entry, Status.badParam) ::
        (v.inStandby && !standbyOpcodes.contains (opcode c.entry), .badState) :: (cs v ++ bs v)) = none := by
      refine firstFailing_pass fun x hx => ?_
      rw [hv] at hx
      rcases List.mem_cons.1 hx with rfl | hx
      · exact he ▸ h.header
      · rcases List.mem_cons.1 hx with rfl | hx
        · exact htake.2
        · exact hb x hx
    have ht : timedOut v c = false := hv ▸ htake.1
    simp only [runAccepted, ht, Bool.false_eq_true, if_false, checked, hn]
  unfold bufCommandAfter
  have hacc : markAccepted seq (advance t s) = accepted seq t s := rfl
  simp only [h.front, hready, if_true, hacc, hk, hreq]
  rw [hrun _ rfl]

/-- A graph command that no check turns away takes its effect. -/
theorem graphCommand_runs {op : Nat} {t : Instant} {r : RingRef} {e : Entry} {seq : Nat} {c : Cmd} {s : State}
    {cs : State → List (Bool × Status)} {body : Nat → State → State} (h : Accepts op t r e seq c s)
    (hb : graphBusy s e = false) (ht : efld e 16 1 ≤ 3) (hg : efld e 17 1 ≤ 63)
    (hc : ∀ x ∈ cs (accepted seq t s), x.1 = false) :
    graphCommand op t r e cs body s = .next (settle (body seq (accepted seq t s))) := by
  unfold graphCommand
  rw [if_neg (by simp [hb])]
  refine command_runs h fun x hx => ?_
  rcases List.mem_append.1 hx with hx | hx
  · simp only [List.mem_cons, List.not_mem_nil, or_false] at hx
    rcases hx with rfl | rfl
    · simpa [badTenant, badIf] using ht
    · simpa [badIf] using hg
  · exact hc x hx

/-- A command whose turn has not come only lets time pass. -/
theorem command_waits {op : Nat} {t : Instant} {r : RingRef} {e : Entry} {s : State}
    {cs : State → List (Bool × Status)} {body : Nat → State → State} (h : takeFront op r e (advance t s) = none) :
    command op t r e cs body s = .next (advance t s) := by
  simp only [command, h]

/-- An event of a device whose clocks run has its effect. -/
theorem event_runs {t : Instant} {f : State → State} {s : State} (h : s.alive = true) :
    event t f s = .next (f (advance t s)) :=
  if_pos h

/-- An event of a device whose clocks do not run only lets time pass. -/
theorem event_idles {t : Instant} {f : State → State} {s : State} (h : s.alive = false) :
    event t f s = .next (advance t s) :=
  if_neg (by rw [show (advance t s).alive = s.alive from rfl, h]; exact Bool.false_ne_true)

/-- A host transaction that reaches the endpoint has its effect. -/
theorem hostRow_runs {t : Instant} {f : State → State} {s : State} (h : s.alive = true)
    (he : s.boot.endpointReady = true) : hostRow t f s = .next (f { advance t s with linkUp := true }) := by
  unfold hostRow
  rw [event_runs h, if_pos (show (advance t s).boot.endpointReady = true from he)]

/-- Deferred effects do not change the tick machine. -/
theorem foreseen_tick (s : State) : (foreseen s).tick = s.tick := by
  have : ∀ (l : List Effect) (u : State), (l.foldl foreseeOne u).tick = u.tick := by
    intro l
    induction l with
    | nil => intro u; rfl
    | cons x l ih => intro u; rw [List.foldl_cons, ih]; cases x <;> rfl
  exact this _ _

/-- The value of a key that has just been set. -/
@[simp] theorem tget_tset {α : Type} (m : Table α) (k : Nat) (x : α) : tget (tset m k x) k = some x := by
  induction m with
  | nil => simp [tset, tget]
  | cons p m ih =>
    unfold tset
    split
    · simp [tget]
    · split
      · simp [tget]
      · rename_i h1 h2
        simp [tget, h2, ih]

end Sys2Proof.Machine
end

