-- ==== Sys2Proof/Laws/Inner.lean ====
section
/-!
SUPPORT. What goes to the host (completions, events, vectors, writes) and the life of rings leave the rest of the state alone.
-/
namespace Sys2Proof.Machine

theorem modFn_inner {s : State} {f : Nat} {g : Func → Func} (hg : ∀ x, (g x).inner = x.inner) :
    (s.modFn f g).inner = s.inner := by
  have : (s.fns.modify f g).map Func.inner = s.fns.map Func.inner := by
    apply List.ext_getElem?
    intro i
    simp only [List.getElem?_map, List.getElem?_modify]
    cases s.fns[i]? with
    | none => rfl
    | some x => simp only [Option.map_some]; split <;> simp [hg]
  simp only [State.inner, State.modFn, lmod, this]

@[simp] theorem emit_inner (o : Output) (s : State) : (emit o s).inner = s.inner := rfl

@[simp] theorem modRing_inner (s : State) (f r : Nat) (g : Ring → Ring) : (s.modRing f r g).inner = s.inner :=
  modFn_inner fun _ => rfl

@[simp] theorem hostWriteEp_inner (f : Nat) (a : BitVec 64) (d : List Byte) (p : Bool) (s : State) :
    (hostWriteEp f a d p s).inner = s.inner := by
  unfold hostWriteEp
  split
  · rfl
  · exact modFn_inner fun _ => rfl

@[simp] theorem hostWrite_inner (f : Nat) (a : BitVec 64) (d : List Byte) (s : State) :
    (hostWrite f a d s).inner = s.inner := hostWriteEp_inner f a d false s

@[simp] theorem sendVector_inner (f v : Nat) (s : State) : (sendVector f v s).inner = s.inner := by
  unfold sendVector
  split
  · exact modFn_inner fun _ => rfl
  · split
    · rfl
    · exact modFn_inner fun _ => rfl

@[simp] theorem setCause_inner (f : Nat) (m : BitVec 6) (s : State) : (setCause f m s).inner = s.inner :=
  modFn_inner fun _ => rfl

@[simp] theorem writeCq_inner (f r : Nat) (e : Bool → BitVec 256) (s : State) : (writeCq f r e s).inner = s.inner := by
  unfold writeCq
  split
  · rfl
  · simp

@[simp] theorem signalCq_inner (f r : Nat) (s : State) : (signalCq f r s).inner = s.inner := by
  unfold signalCq
  split
  · rfl
  · split <;> simp

@[simp] theorem writeCompletion_inner (f r : Nat) (c : Completion) (s : State) :
    (writeCompletion f r c s).inner = s.inner := by
  simp [writeCompletion]

@[simp] theorem complete_inner (f r q : Nat) (c : Completion) (s : State) : (complete f r q c s).inner = s.inner := by
  unfold complete
  split
  · simp
  · exact modFn_inner fun _ => rfl

@[simp] theorem writeEvent_inner (f : Nat) (e : Event) (s : State) : (writeEvent f e s).inner = s.inner := by
  simp [writeEvent]

@[simp] theorem flushEvents_inner (f n : Nat) (s : State) : (flushEvents f n s).inner = s.inner := by
  induction n generalizing s with
  | zero => rfl
  | succ n ih =>
    unfold flushEvents
    split
    · split
      · rw [ih, writeEvent_inner]
        exact modFn_inner fun _ => rfl
      · split
        · rfl
        · rw [ih, writeEvent_inner]
          exact modFn_inner fun _ => rfl
    · rfl

@[simp] theorem postOn_inner (f : Nat) (e : Event) (s : State) : (postOn f e s).inner = s.inner := by
  unfold postOn
  dsimp only
  split
  · refine Eq.trans (modFn_inner ?_) (flushEvents_inner f 66 s)
    exact fun _ => rfl
  · rw [flushEvents_inner]
    refine Eq.trans (modFn_inner ?_) (flushEvents_inner f 66 s)
    exact fun _ => rfl

@[simp] theorem postTenant_inner (n a b : Nat) (d : BitVec 64) (s : State) : (postTenant n a b d s).inner = s.inner :=
  postOn_inner _ _ _

theorem foldl_inner {α : Type} {f : State → α → State} (hf : ∀ s x, (f s x).inner = s.inner) (l : List α) (s : State) :
    (l.foldl f s).inner = s.inner := by
  induction l generalizing s with
  | nil => rfl
  | cons x l ih => rw [List.foldl_cons, ih, hf]

@[simp] theorem postAll_inner (a b : Nat) (d : BitVec 64) (s : State) : (postAll a b d s).inner = s.inner := by
  unfold postAll
  exact foldl_inner (fun s f => by split <;> simp) _ _

@[simp] theorem postTo_inner (n : Option Nat) (a b : Nat) (d : BitVec 64) (s : State) :
    (postTo n a b d s).inner = s.inner := by
  cases n <;> simp [postTo]

@[simp] theorem postRing_inner (f r : Nat) (c : RingCause) (s : State) : (postRing f r c s).inner = s.inner :=
  postTenant_inner _ _ _ _ _

@[simp] theorem ringError_inner (f r : Nat) (c : RingCause) (s : State) : (ringError f r c s).inner = s.inner := by
  unfold ringError
  dsimp only
  have admin (u : State) : (u.modFn f fun x => { x with error := true, cause := c }).inner = u.inner := modFn_inner fun _ => rfl
  repeat' split
  all_goals simp [admin]

@[simp] theorem finish_inner (q : Nat) (st : Status) (x : BitVec 64) (s : State) : (finish q st x s).inner = s.inner := by
  unfold finish
  split
  · rfl
  · dsimp only
    rw [apply_ite State.inner, complete_inner]
    exact ite_self _

@[simp] theorem markAccepted_inner (q : Nat) (s : State) : (markAccepted q s).inner = s.inner := rfl

@[simp] theorem advance_inner (t : Instant) (s : State) : (advance t s).inner = s.inner := rfl

@[simp] theorem timeOut_inner (q f : Nat) (s : State) : (timeOut q f s).inner = s.inner := by
  unfold timeOut
  rw [finish_inner]
  exact modFn_inner fun _ => rfl

@[simp] theorem dropRing_inner (f r : Nat) (s : State) : (dropRing f r s).inner = s.inner := by
  unfold dropRing
  refine Eq.trans (modFn_inner ?_) rfl
  exact fun _ => rfl

@[simp] theorem stopRing_inner (f r : Nat) (d : Bool) (s : State) : (stopRing f r d s).inner = s.inner := by
  unfold stopRing
  split
  · refine Eq.trans (modFn_inner ?_) (dropRing_inner ..)
    exact fun _ => rfl
  · simp

@[simp] theorem adminReady_inner (f : Nat) (s : State) : (adminReady f s).inner = s.inner := by
  unfold adminReady
  split
  · rw [flushEvents_inner]
    exact modFn_inner fun _ => rfl
  · rfl

@[simp] theorem setupAdmin_inner (f : Nat) (s : State) : (setupAdmin f s).inner = s.inner := by
  unfold setupAdmin
  dsimp only
  split
  · rw [sendVector_inner, setCause_inner]
    exact modFn_inner fun _ => rfl
  · rw [adminReady_inner]
    exact modFn_inner fun _ => rfl

@[simp] theorem closeAdmin_inner (f : Nat) (s : State) : (closeAdmin f s).inner = s.inner := by
  have gone : (s.modFn f fun x => { x with ready := false, rings := tdel x.rings 0 }).inner = s.inner :=
    modFn_inner fun _ => rfl
  unfold closeAdmin
  dsimp only
  split
  · exact (setupAdmin_inner f _).trans gone
  · exact gone

@[simp] theorem sweep_inner (n : Nat) (s : State) : (sweep n s).inner = s.inner := by
  induction n generalizing s with
  | zero => rfl
  | succ n ih =>
    unfold sweep
    split
    · rw [ih, finish_inner, stopRing_inner]
    · split
      · rw [ih, finish_inner]
        exact modFn_inner fun _ => rfl
      · split
        · rw [ih, closeAdmin_inner]
        · split
          · dsimp only
            rw [ih]
            split <;> simp
          · rfl

/-- What follows a completion changes only the host's side (R86, R100, R157). -/
@[simp] theorem settle_inner (s : State) : (settle s).inner = s.inner := sweep_inner 200 s

end Sys2Proof.Machine
end

