-- ==== Sys2Proof/Laws/Completion.lean ====
section
/-!
SUPPORT. The CQ entry a completion writes: its bytes as one number, its fields, and what writing it leaves alone.
-/
namespace Sys2Proof.Machine

/-- The number of two byte lists one after the other. -/
theorem leNat_append (a b : List Byte) : leNat (a ++ b) = leNat a + 256 ^ a.length * leNat b := by
  induction a with
  | nil => simp [leNat]
  | cons x a ih => simp only [List.cons_append, leNat, ih, List.length_cons, pow_succ]; ring

/-- `le n` writes n bytes. -/
theorem le_length (n v : Nat) : (le n v).length = n := by
  induction n generalizing v with
  | zero => rfl
  | succ n ih => simp [le, ih]

/-- Reading back what `le` wrote. -/
theorem leNat_le (n v : Nat) : leNat (le n v) = v % 256 ^ n := by
  induction n generalizing v with
  | zero => simp [le, leNat, Nat.mod_one]
  | succ n ih =>
    simp only [le, leNat, ih, BitVec.toNat_ofNat]
    rw [show 256 ^ (n + 1) = 256 * 256 ^ n by ring, Nat.mod_mul]

/-- A CQ entry as one number (Table 3.6). -/
theorem Completion.entry_num (c : Completion) (p : Bool) : c.entry p = BitVec.ofNat 256
    (c.cmdId.toNat % 2 ^ 16 + 2 ^ 16 * (c.ring % 2 ^ 16) + 2 ^ 32 * (c.sqHead % 2 ^ 16) +
      2 ^ 48 * (c.status.code % 2 ^ 16) + 2 ^ 64 * (c.time % 2 ^ 64) + 2 ^ 128 * (c.tickno.toNat % 2 ^ 32) +
      2 ^ 160 * (c.result.toNat % 2 ^ 64) + 2 ^ 240 * b2n p) := by
  unfold Completion.entry
  simp only [leNat_append, leNat_le, le_length, List.length_append]
  congr 1
  have : b2n p % 256 ^ 2 = b2n p := by cases p <;> decide
  rw [this]
  norm_num

/-- A field of a number's bits. -/
theorem extract_ofNat (v a n : Nat) :
    (BitVec.ofNat 256 v).extractLsb' a n = BitVec.ofNat n ((v % 2 ^ 256) / 2 ^ a) := by
  apply BitVec.eq_of_toNat_eq
  simp [BitVec.extractLsb'_toNat, Nat.shiftRight_eq_div_pow]

/-- A message to a vector leaves the commands and adds outputs at most. -/
theorem sendVector_out (f v : Nat) (s : State) :
    (sendVector f v s).cmds = s.cmds ∧ ∃ r, (sendVector f v s).out = s.out ++ r := by
  unfold sendVector
  split
  · exact ⟨rfl, [], by simp [State.modFn]⟩
  · split
    · exact ⟨rfl, _, rfl⟩
    · exact ⟨rfl, [], by simp [State.modFn]⟩

/-- So does the moderation of a completion queue. -/
theorem signalCq_out (f v : Nat) (s : State) :
    (signalCq f v s).cmds = s.cmds ∧ ∃ r, (signalCq f v s).out = s.out ++ r := by
  unfold signalCq
  split
  · exact ⟨rfl, [], by simp⟩
  · split
    · exact sendVector_out ..
    · exact ⟨rfl, [], by simp [State.modRing, State.modFn]⟩

/-- Writing a completion writes its entry at the CQ tail, with the ring's phase, and leaves the commands. -/
theorem writeCompletion_spec (f r : Nat) (k : Completion) (g : Machine.Ring) (s : State) (hr : s.ring f r = some g) :
    (writeCompletion f r k s).cmds = s.cmds ∧
      ∃ rest, (writeCompletion f r k s).out = s.out ++
        { time := s.now, out := .cqEntry f r (g.cqBase + BitVec.ofNat 64 (32 * g.cqTail)) (k.entry g.phase) } :: rest := by
  unfold writeCompletion writeCq
  rw [hr]
  dsimp only
  generalize hx : setCause f _ _ = x
  obtain ⟨h1, q, h2⟩ := signalCq_out f r x
  have hc : x.cmds = s.cmds := by rw [← hx]; rfl
  have ho : x.out = s.out ++
      [{ time := s.now, out := .cqEntry f r (g.cqBase + BitVec.ofNat 64 (32 * g.cqTail)) (k.entry g.phase) }] := by
    rw [← hx]; rfl
  exact ⟨h1.trans hc, q, by rw [h2, ho, List.append_assoc]; rfl⟩

end Sys2Proof.Machine
end

