-- ==== Sys2Proof/Laws/Crc.lean ====
section
/-!
SUPPORT. The CRC-32 of a long list, in a form whose evaluation never builds a deep term.
-/
namespace Sys2Proof.Machine

/-- A number below 2^n read bit by bit before it is used. -/
def forced {α : Type} (k : Nat → α) : Nat → Nat → Nat → α
  | 0, _, acc => k acc
  | n + 1, x, acc => if x.testBit n then forced k n x (2 * acc + 1) else forced k n x (2 * acc)

theorem mod_pow_succ (x n : Nat) : x % 2 ^ (n + 1) = x % 2 ^ n + 2 ^ n * (x.testBit n).toNat := by
  rw [pow_succ, Nat.mod_mul, Nat.testBit_eq_decide_div_mod_eq]
  rcases Nat.mod_two_eq_zero_or_one (x / 2 ^ n) with h | h <;> simp [h]

theorem forced_eq {α : Type} (k : Nat → α) (n x acc : Nat) : forced k n x acc = k (acc * 2 ^ n + x % 2 ^ n) := by
  induction n generalizing acc with
  | zero => simp [forced, Nat.mod_one]
  | succ n ih =>
    rw [forced, mod_pow_succ, pow_succ]
    split
    · rename_i h
      rw [ih, h]
      congr 1
      simp
      ring
    · rename_i h
      rw [ih, Bool.eq_false_iff.2 h]
      congr 1
      simp
      ring

/-- The register after a list, read between bytes. -/
def crcForced : List Byte → BitVec 32 → BitVec 32
  | [], c => c
  | b :: l, c => forced (fun n => crcForced l (BitVec.ofNat 32 n)) 32 (crcByte c b).toNat 0

theorem crcForced_eq (l : List Byte) (c : BitVec 32) : crcForced l c = l.foldl crcByte c := by
  induction l generalizing c with
  | nil => rfl
  | cons b l ih =>
    rw [crcForced, forced_eq, ih, Nat.mod_eq_of_lt (crcByte c b).isLt]
    simp

/-- The CRC-32 by way of the forced register. -/
theorem crc32_forced (l : List Byte) : crc32 l = (crcForced l 0xFFFFFFFF#32 ^^^ 0xFFFFFFFF#32).toNat := by
  rw [crcForced_eq, crc32]

end Sys2Proof.Machine
end

