-- ==== Sys2Proof/Laws/Memory.lean ====
section
/-!
SUPPORT. Memories: every operation keeps the canonical form; a write gives the bytes written and leaves every other
address alone.
-/
namespace Sys2Proof.Machine

/-! ### Cells -/

theorem cellsAbove_cons (x : Nat) (c : Host.Cell) (l : List Host.Cell) :
    cellsAbove x (c :: l) = (decide (x < c.1) && cellsAbove x l) := rfl

theorem cellsAbove_of_le {x y : Nat} {l : List Host.Cell} (h : x ≤ y) (hl : cellsAbove y l = true) :
    cellsAbove x l = true := by
  induction l with
  | nil => rfl
  | cons c l ih =>
    simp only [cellsAbove_cons, Bool.and_eq_true, decide_eq_true_eq] at hl ⊢
    exact ⟨by omega, ih hl.2⟩

theorem cellPut_above {y x : Nat} {v : Byte} (h : y < x) :
    ∀ {l : List Host.Cell}, cellsAbove y l = true → cellsAbove y (cellPut l x v) = true
  | [], _ => by unfold cellPut; split <;> simp [cellsAbove, h]
  | (a, b) :: l, hl => by
    simp only [cellsAbove_cons, Bool.and_eq_true, decide_eq_true_eq] at hl
    unfold cellPut
    split
    · split <;> simp [cellsAbove_cons, hl, h]
    · split
      · split
        · exact hl.2
        · simp [cellsAbove_cons, hl, h]
      · simp [cellsAbove_cons, hl.1, cellPut_above h hl.2]

/-- Writing one byte keeps the canonical form. -/
theorem cellPut_wf (x : Nat) (v : Byte) : ∀ {l : List Host.Cell}, cellsWf l = true → cellsWf (cellPut l x v) = true
  | [], _ => by unfold cellPut; split <;> simp_all [cellsWf, cellsAbove]
  | (a, b) :: l, h => by
    simp only [cellsWf, Bool.and_eq_true, decide_eq_true_eq] at h
    unfold cellPut
    split
    · split
      · simp [cellsWf, h]
      · rename_i hx hv
        simp [cellsWf, cellsAbove_cons, h, hv, hx, cellsAbove_of_le (Nat.le_of_lt hx) h.1.2]
    · split
      · split
        · exact h.2
        · rename_i hx ha hv
          subst ha
          simp [cellsWf, h, hv]
      · rename_i hx ha
        simp [cellsWf, h.1.1, cellPut_wf x v h.2, cellPut_above (v := v) (show a < x by omega) h.1.2]

theorem cellAt_above {x : Nat} : ∀ {l : List Host.Cell}, cellsAbove x l = true → cellAt l x = unlisted
  | [], _ => rfl
  | (a, b) :: l, h => by
    simp only [cellsAbove_cons, Bool.and_eq_true, decide_eq_true_eq] at h
    unfold cellAt
    rw [if_neg (by omega), if_pos h.1]

/-- A byte written reads back. -/
theorem cellAt_cellPut_same (x : Nat) (v : Byte) :
    ∀ {l : List Host.Cell}, cellsWf l = true → cellAt (cellPut l x v) x = v
  | [], _ => by unfold cellPut; split <;> simp_all [cellAt]
  | (a, b) :: l, h => by
    simp only [cellsWf, Bool.and_eq_true, decide_eq_true_eq] at h
    unfold cellPut
    split
    · rename_i hx
      split
      · rename_i hv
        rw [hv]
        exact cellAt_above (by simp [cellsAbove_cons, hx, cellsAbove_of_le (Nat.le_of_lt hx) h.1.2])
      · simp [cellAt]
    · split
      · rename_i ha
        subst ha
        split
        · rename_i hv
          rw [hv]
          exact cellAt_above h.1.2
        · simp [cellAt]
      · rename_i hx ha
        unfold cellAt
        rw [if_neg ha, if_neg (by omega)]
        exact cellAt_cellPut_same x v h.2

/-- A write leaves every other address alone. -/
theorem cellAt_cellPut_other {x y : Nat} (v : Byte) (hxy : y ≠ x) :
    ∀ {l : List Host.Cell}, cellsWf l = true → cellAt (cellPut l x v) y = cellAt l y
  | [], _ => by
    unfold cellPut
    split
    · rfl
    · simp only [cellAt]
      rw [if_neg (fun e => hxy e.symm)]
      split <;> rfl
  | (a, b) :: l, h => by
    simp only [cellsWf, Bool.and_eq_true, decide_eq_true_eq] at h
    unfold cellPut
    split
    · rename_i hx
      split
      · rfl
      · conv_lhs => unfold cellAt
        rw [if_neg (fun e => hxy e.symm)]
        split
        · rename_i hyx
          exact (cellAt_above (by
            simp only [cellsAbove_cons, Bool.and_eq_true, decide_eq_true_eq]
            exact ⟨by omega, cellsAbove_of_le (by omega) h.1.2⟩)).symm
        · rfl
    · split
      · rename_i ha
        subst ha
        split
        · conv_rhs => unfold cellAt
          rw [if_neg (fun e => hxy e.symm)]
          split
          · rename_i hya
            exact cellAt_above (cellsAbove_of_le (Nat.le_of_lt hya) h.1.2)
          · rfl
        · simp [cellAt, Ne.symm hxy]
      · conv_lhs => unfold cellAt
        conv_rhs => unfold cellAt
        rw [cellAt_cellPut_other v hxy h.2]

theorem cellsPut_wf (d : List Byte) : ∀ {l : List Host.Cell} {x : Nat}, cellsWf l = true →
    cellsWf (cellsPut l x d) = true := by
  induction d with
  | nil => intro l x h; exact h
  | cons b d ih => intro l x h; exact ih (cellPut_wf x b h)

/-- Bytes written leave every address outside them alone. -/
theorem cellAt_cellsPut_outside (d : List Byte) : ∀ {l : List Host.Cell} {x y : Nat}, cellsWf l = true →
    (y < x ∨ x + d.length ≤ y) → cellAt (cellsPut l x d) y = cellAt l y := by
  induction d with
  | nil => intro l x y _ _; rfl
  | cons b d ih =>
    intro l x y h hy
    simp only [List.length_cons] at hy
    unfold cellsPut
    rw [ih (cellPut_wf x b h) (by omega), cellAt_cellPut_other b (by omega) h]

/-- Bytes written read back. -/
theorem cellAt_cellsPut_inside (d : List Byte) : ∀ {l : List Host.Cell} {x k : Nat}, cellsWf l = true →
    k < d.length → cellAt (cellsPut l x d) (x + k) = d.getD k 0 := by
  induction d with
  | nil => intro l x k _ hk; simp at hk
  | cons b d ih =>
    intro l x k h hk
    unfold cellsPut
    cases k with
    | zero =>
      rw [cellAt_cellsPut_outside d (cellPut_wf x b h) (by omega), Nat.add_zero, cellAt_cellPut_same x b h]
      rfl
    | succ k =>
      have := ih (l := cellPut l x b) (x := x + 1) (k := k) (cellPut_wf x b h) (by simpa using hk)
      rw [show x + (k + 1) = x + 1 + k by omega, this]
      rfl

theorem cellsAbove_filter {x : Nat} (p : Host.Cell → Bool) {l : List Host.Cell} (h : cellsAbove x l = true) :
    cellsAbove x (l.filter p) = true := by
  unfold cellsAbove at h ⊢
  rw [List.all_eq_true] at h ⊢
  exact fun c hc => h c (List.mem_of_mem_filter hc)

theorem cellsWf_filter (p : Host.Cell → Bool) : ∀ {l : List Host.Cell}, cellsWf l = true →
    cellsWf (l.filter p) = true
  | [], _ => rfl
  | (a, b) :: l, h => by
    simp only [cellsWf, Bool.and_eq_true, decide_eq_true_eq] at h
    rw [List.filter_cons]
    split
    · simp [cellsWf, h.1.1, cellsAbove_filter p h.1.2, cellsWf_filter p h.2]
    · exact cellsWf_filter p h.2

/-! ### Memories -/

theorem Mem.write_wf {m : Mem} (x : Nat) (d : List Byte) (h : m.wf = true) : (m.write x d).wf = true := cellsPut_wf d h

theorem Mem.undefine_wf {m : Mem} (b n k : Nat) (h : m.wf = true) : (m.undefine b n k).wf = true := cellsWf_filter _ h

theorem Mem.zero_wf {m : Mem} (b n : Nat) (h : m.wf = true) : (m.zero b n).wf = true := cellsWf_filter _ h

/-- Whether an undefined range covers an address. -/
def covers (y : Nat) (u : Undef) : Bool := decide (u.base ≤ y) && decide (y < u.base + u.len)

theorem undefAt_eq (m : Mem) (y : Nat) : undefAt m y = m.undef.find? (covers y) := rfl

theorem carve_cons (b n : Nat) (u : Undef) (us : List Undef) : carve b n (u :: us) = carve b n [u] ++ carve b n us := by
  simp [carve]

theorem carve_find_inside {b n y : Nat} (h : b ≤ y ∧ y < b + n) (us : List Undef) :
    (carve b n us).find? (covers y) = none := by
  rw [List.find?_eq_none]
  intro v hv
  simp only [carve, List.mem_flatMap, List.mem_filter, List.mem_cons, List.not_mem_nil, or_false] at hv
  obtain ⟨u, -, hv, -⟩ := hv
  rcases hv with rfl | rfl <;> simp only [covers, Bool.and_eq_true, decide_eq_true_eq] <;> omega

theorem carve_one_outside {b n y : Nat} (h : y < b ∨ b + n ≤ y) (u : Undef) :
    ((carve b n [u]).find? (covers y)).map Undef.stamp = if covers y u then some u.stamp else none := by
  by_cases hc : covers y u = true
  · rw [if_pos hc]
    simp only [covers, Bool.and_eq_true, decide_eq_true_eq] at hc
    rcases h with h | h
    · have h1 : 0 < min u.len (b - u.base) := by omega
      have h2 : u.base ≤ y ∧ (y < u.base + u.len ∧ y < u.base + (b - u.base)) := by omega
      simp [carve, List.filter_cons, covers, show 0 < u.len by omega, show u.base < b by omega, h2,
        show y < u.base + min u.len (b - u.base) by omega]
    · have hm : max u.base (b + n) ≤ y := by omega
      simp only [carve, List.flatMap_cons, List.flatMap_nil, List.append_nil]
      generalize max u.base (b + n) = m at hm
      have h3 : 0 < u.base + u.len - m := by omega
      have h4 : y < m + (u.base + u.len - m) := by omega
      have h2 : ¬ (y < u.base + min u.len (b - u.base)) := by omega
      generalize min u.len (b - u.base) = k at h2
      generalize u.base + u.len - m = l at h3 h4
      by_cases h1 : 0 < k <;> simp [covers, h1, h2, h3, h4, hm]
  · rw [if_neg hc, Option.map_eq_none_iff, List.find?_eq_none]
    intro v hv
    simp only [carve, List.flatMap_cons, List.flatMap_nil, List.append_nil, List.mem_filter, List.mem_cons,
      List.not_mem_nil, or_false] at hv
    simp only [covers, Bool.and_eq_true, decide_eq_true_eq] at hc ⊢
    rcases hv.1 with rfl | rfl <;> simp only <;> omega

theorem carve_find_outside {b n y : Nat} (h : y < b ∨ b + n ≤ y) (us : List Undef) :
    ((carve b n us).find? (covers y)).map Undef.stamp = (us.find? (covers y)).map Undef.stamp := by
  induction us with
  | nil => rfl
  | cons u us ih =>
    rw [carve_cons, List.find?_append, List.find?_cons, Option.map_or, carve_one_outside h u, ih]
    cases covers y u <;> simp

/-- What a read of one byte depends on. -/
theorem Mem.get_eq (m : Mem) (y : Nat) :
    m.get y = match (m.undef.find? (covers y)).map Undef.stamp with
      | some k => Config.freeByte k y
      | none => cellAt m.cells y := by
  unfold Mem.get
  rw [undefAt_eq]
  cases m.undef.find? (covers y) <;> rfl

/-- Every byte outside the bytes written reads as before. -/
theorem Mem.get_write_outside {m : Mem} {x y : Nat} (d : List Byte) (h : m.wf = true)
    (hy : y < x ∨ x + d.length ≤ y) : (m.write x d).get y = m.get y := by
  rw [Mem.get_eq, Mem.get_eq, show (m.write x d).undef = carve x d.length m.undef from rfl, carve_find_outside hy,
    show (m.write x d).cells = cellsPut m.cells x d from rfl, cellAt_cellsPut_outside d h hy]

/-- The bytes written read back. -/
theorem Mem.get_write_inside {m : Mem} {x k : Nat} (d : List Byte) (h : m.wf = true) (hk : k < d.length) :
    (m.write x d).get (x + k) = d.getD k 0 := by
  rw [Mem.get_eq, show (m.write x d).undef = carve x d.length m.undef from rfl, carve_find_inside (by omega),
    show (m.write x d).cells = cellsPut m.cells x d from rfl]
  exact cellAt_cellsPut_inside d h hk

theorem Mem.empty_wf : Mem.wf { cells := [], undef := [] } = true := rfl

end Sys2Proof.Machine
end

