-- ==== Sys2Proof/Laws/Dram.lean ====
section
/-!
SUPPORT. What counting, reporting and writing of DRAM sectors changes in external memory.
-/
namespace Sys2Proof.Machine

theorem modChannel_mem (k : Nat) (g : Channel → Channel) (s : State) :
    (s.modDram fun d => { d with channels := lmod d.channels k g }).dram.mem = s.dram.mem ∧
    (s.modDram fun d => { d with channels := lmod d.channels k g }).dram.poison = s.dram.poison ∧
    (s.modDram fun d => { d with channels := lmod d.channels k g }).dram.listed = s.dram.listed ∧
    (s.modDram fun d => { d with channels := lmod d.channels k g }).loft = s.loft := ⟨rfl, rfl, rfl, rfl⟩

theorem countDram_eq (x : Nat) (f : DramCounts → DramCounts) (s : State) : countDram x f s =
    s.modDram fun d => { d with channels := lmod d.channels (channelOf x) fun c => { c with counts := f c.counts } } := rfl

/-- Counting changes neither memory nor poison. -/
theorem countDram_mem (x : Nat) (f : DramCounts → DramCounts) (s : State) :
    (countDram x f s).dram.mem = s.dram.mem ∧ (countDram x f s).dram.poison = s.dram.poison ∧
    (countDram x f s).dram.listed = s.dram.listed ∧ (countDram x f s).loft = s.loft := by
  rw [countDram_eq]
  exact modChannel_mem (channelOf x) _ s

/-- A DRAM event changes nothing but what waits for the host. -/
@[simp] theorem postDram_inner (x c : Nat) (d : BitVec 64) (s : State) : (postDram x c d s).inner = s.inner := by
  simp [postDram]

theorem postDram_mem (x c : Nat) (d : BitVec 64) (s : State) :
    (postDram x c d s).dram = s.dram ∧ (postDram x c d s).loft = s.loft := by
  have h := postDram_inner x c d s
  exact ⟨show (State.inner _).dram = (State.inner _).dram from congrArg State.dram h,
    show (State.inner _).loft = (State.inner _).loft from congrArg State.loft h⟩

/-- What clearing the poison of a sector leaves. -/
theorem clearedPoison_mem (x : Nat) (b c : Prop) [Decidable b] [Decidable c] (z : BitVec 64) (v w : State)
    (hm : w.dram.mem = v.dram.mem) (hp : w.dram.poison = v.dram.poison) (hl : w.loft = v.loft) :
    (if b then (if c then postDram x 0x104 z w else w) else v).dram.mem = v.dram.mem ∧
    (if b then (if c then postDram x 0x104 z w else w) else v).dram.poison = v.dram.poison ∧
    (if b then (if c then postDram x 0x104 z w else w) else v).loft = v.loft := by
  obtain ⟨p1, p2⟩ := postDram_mem x 0x104 z w
  split
  · split
    · exact ⟨(congrArg Dram.mem p1).trans hm, (congrArg Dram.poison p1).trans hp, p2.trans hl⟩
    · exact ⟨hm, hp, hl⟩
  · exact ⟨rfl, rfl, rfl⟩

/-- Counters of a channel. -/
def countChannel (ch : Nat) (f : DramCounts → DramCounts) (s : State) : State :=
  s.modDram fun d => { d with channels := lmod d.channels ch fun c => { c with counts := f c.counts } }

/-- A full write of sector k, at address x of channel ch. -/
def writeSectorAt (ch k x : Nat) (d : List Byte) (s : State) : State :=
  let s := countChannel ch (fun c => { c with written := c.written + 1 }) s
  let was := s.dram.poison.contains k
  let listed := s.dram.listed.contains k
  let s := s.modDram fun m =>
    { m with mem := m.mem.write (sectorAddr k) (fit 64 d), poison := m.poison.filter (· ≠ k),
             listed := m.listed.filter (· ≠ k) }
  if was then
    let s := countChannel ch (fun c => { c with cleared := c.cleared + 1 }) s
    if listed then postDram x 0x104 (BitVec.ofNat 64 (sectorAddr k)) s else s
  else s

theorem writeSector_at (x : Nat) (d : List Byte) (s : State) :
    writeSector x d s = writeSectorAt (channelOf x) (sectorOf x) x d s := rfl

theorem writeSectorAt_mem (ch k x : Nat) (d : List Byte) (s : State) :
    (writeSectorAt ch k x d s).dram.mem = s.dram.mem.write (sectorAddr k) (fit 64 d) ∧
    (writeSectorAt ch k x d s).dram.poison = s.dram.poison.filter (· ≠ k) ∧ (writeSectorAt ch k x d s).loft = s.loft :=
  clearedPoison_mem x _ _ _ _ _ rfl rfl rfl

/-- Everything a full write of one sector does to the memories. -/
theorem writeSector_mem (x : Nat) (d : List Byte) (s : State) :
    (writeSector x d s).dram.mem = s.dram.mem.write (sectorAddr (sectorOf x)) (fit 64 d) ∧
    (writeSector x d s).dram.poison = s.dram.poison.filter (· ≠ sectorOf x) ∧ (writeSector x d s).loft = s.loft := by
  rw [writeSector_at]
  exact writeSectorAt_mem _ _ x d s

/-- A list of the right length is its own fit. -/
theorem fit_self {n : Nat} {d : List Byte} (h : d.length = n) : fit n d = d := by
  subst h
  simp [fit, slice]

end Sys2Proof.Machine
end

