-- ==== Sys2Proof/Laws/Sound.lean ====
section
/-!
SUPPORT. One soundness predicate that every operation keeps: memories canonical, Halter pins as the state says, contracts
apart, time not before an instant, fuses as they were.
-/
namespace Sys2Proof.Machine

/-- How many of each unit a state holds. -/
def State.counts (s : State) : List Nat :=
  [s.fns.length, s.contracts.length, s.ports.length, s.ctxs.length, s.lanes.length, s.fsync.length, s.i2c.length,
   s.halters.length, s.links.length, s.drover.tethers.length, s.drover.faults.length, s.dram.channels.length]

theorem shape_of_counts {s t : State} (h : t.counts = s.counts) (hs : s.shape) : t.shape := by
  simp only [State.counts, List.cons.injEq, and_true] at h
  simp only [State.shape] at hs ⊢
  simp only [h, hs, and_self]

/-- What every operation keeps, from fuses `p` and an instant `a` on; `Q` is what is said of contracts and deferred
effects. -/
structure Good (p : Part) (a : Instant) (w : List Instr)
    (Q : List Contract → List Effect → Prop) (s : State) : Prop where
  loftMem : s.loft.mem.wf = true
  dramMem : s.dram.mem.wf = true
  pins : s.pinsOk
  apart : Q s.contracts s.deferred
  time : a ≤ s.now
  grade : s.part.grade = p.grade
  serial : s.part.serial = p.serial
  keyHash : s.part.keyHash = p.keyHash
  rollback : p.rollback ≤ s.part.rollback
  shape : s.shape
  queue : s.pending = w

/-- A change of other parts of the state. -/
theorem Good.upd {p : Part} {a : Instant} {w : List Instr} {Q : List Contract → List Effect → Prop} {s t : State} (h : Good p a w Q s) (h0 : t.part = s.part)
    (h1 : t.loft.mem = s.loft.mem)
    (h2 : t.dram.mem = s.dram.mem) (h3 : t.halters = s.halters) (h4 : t.contracts = s.contracts)
    (h5 : t.deferred = s.deferred) (h6 : t.now = s.now) (h7 : t.pins.thermtrip = s.pins.thermtrip)
    (h8 : t.pending = s.pending) (h9 : s.shape → t.shape) : Good p a w Q t :=
  ⟨h1 ▸ h.loftMem, h2 ▸ h.dramMem, by have := h.pins; unfold State.pinsOk at *; rwa [h3, h7],
   by rw [h4, h5]; exact h.apart, h6 ▸ h.time, h0 ▸ h.grade, h0 ▸ h.serial, h0 ▸ h.keyHash,
   h0 ▸ h.rollback, h9 h.shape, h8.trans h.queue⟩


/-- A state written out whose parts that matter are those of a good state. -/
theorem Good.parts {p : Part} {a : Instant} {w : List Instr} {Q : List Contract → List Effect → Prop} {s : State}
    {f_now : Instant} {f_pending : List Instr} {f_out : List Emit} {f_draws : Nat} {f_part : Part} {f_pins :
    Pins} {f_boot : Boot} {f_fw : Firmware} {f_linkUp : Bool} {f_fns : List Func} {f_arb : Arb} {f_cmds :
    Table Cmd} {f_fetchSeq : Nat} {f_lastAccept : Option Instant} {f_moves : Table Move} {f_flash : Option
    FlashJob} {f_alertStatus : BitVec 6} {f_alertMask : BitVec 6} {f_contracts : List Contract} {f_deferred :
    List Effect} {f_tick : Tick} {f_drover : Drover} {f_loft : Loft} {f_dram : Dram} {f_ports : List CamPort}
    {f_ctxs : List Ctx} {f_lanes : List Lane} {f_fsync : List Fsync} {f_i2c : List I2c} {f_halters : List
    Halter} {f_fabric : Fabric} {f_links : List PLink} {f_aborts : List AbortId} {f_reroute : Option Reroute}
    {f_egress : Egress} {f_power : Power} {f_tally : Tally} {f_debug : Table (BitVec 32)}
    (h : Good p a w Q s) (h0 : f_part = s.part) (h1 : f_loft.mem = s.loft.mem) (h2 : f_dram.mem = s.dram.mem)
    (h3 : f_halters = s.halters) (h4 : f_contracts = s.contracts) (h5 : f_deferred = s.deferred) (h6 : f_now = s.now)
    (h7 : f_pins.thermtrip = s.pins.thermtrip) (h8 : f_pending = s.pending)
    
    (h9 : [f_fns.length, f_contracts.length, f_ports.length, f_ctxs.length, f_lanes.length, f_fsync.length, f_i2c.length, f_halters.length, f_links.length, f_drover.tethers.length, f_drover.faults.length, f_dram.channels.length] =
      [s.fns.length, s.contracts.length, s.ports.length, s.ctxs.length, s.lanes.length, s.fsync.length, s.i2c.length, s.halters.length, s.links.length, s.drover.tethers.length, s.drover.faults.length, s.dram.channels.length]) : Good p a w Q (State.mk f_now f_pending f_out f_draws f_part f_pins f_boot f_fw f_linkUp f_fns f_arb f_cmds f_fetchSeq f_lastAccept
      f_moves f_flash f_alertStatus f_alertMask f_contracts f_deferred f_tick f_drover f_loft f_dram f_ports
      f_ctxs f_lanes f_fsync f_i2c f_halters f_fabric f_links f_aborts f_reroute f_egress f_power f_tally
      f_debug) :=
  h.upd h0 h1 h2 h3 h4 h5 h6 h7 h8 fun hs => by
    simp only [List.cons.injEq, and_true] at h9
    simp only [State.shape] at hs ⊢
    simp only [h9, hs, and_self]

theorem Good.ite {p : Part} {a : Instant} {w : List Instr} {Q : List Contract → List Effect → Prop} {c : Prop} [Decidable c] {s t : State} (hs : Good p a w Q s) (ht : Good p a w Q t) :
    Good p a w Q (if c then s else t) := by
  split
  · exact hs
  · exact ht

theorem Good.foldl {p : Part} {a : Instant} {w : List Instr} {Q : List Contract → List Effect → Prop} {α : Type} {f : State → α → State}
    (hf : ∀ s x, Good p a w Q s → Good p a w Q (f s x)) {l : List α} {s : State} (h : Good p a w Q s) : Good p a w Q (l.foldl f s) := by
  induction l generalizing s with
  | nil => exact h
  | cons x l ih => exact ih (hf s x h)

theorem advance_good {p : Part} {a : Instant} {w : List Instr} {Q : List Contract → List Effect → Prop} {t : Instant} {s : State} (h : Good p a w Q s) : Good p a w Q (advance t s) :=
  { h with time := Nat.le_trans h.time (Nat.le_max_left _ _) }

theorem event_good {p : Part} {a : Instant} {w : List Instr} {Q : List Contract → List Effect → Prop} {t : Instant} {f : State → State} {s : State}
    (hf : ∀ s, Good p a w Q s → Good p a w Q (f s)) (h : Good p a w Q s) : ∀ u, event t f s = .next u → Good p a w Q u := by
  intro u hu
  unfold event at hu
  split at hu <;> cases hu
  · exact hf _ (advance_good h)
  · exact advance_good h

theorem State_modHalter_good {p : Part} {a : Instant} {w : List Instr} {Q : List Contract → List Effect → Prop} {s : State} {u : Nat} {f : Halter → Halter}
    (h : Good p a w Q s) (hf : ∀ (b : Bool) (h : Halter), h.pinsOk b = true → (f h).pinsOk b = true) : Good p a w Q (s.modHalter u f) :=
  { h with
    shape := by simpa [State.shape, State.modHalter, lmod] using h.shape
    pins := by
      intro x hx
      have hx : x ∈ s.halters.modify u f := hx
      obtain ⟨i, hi, rfl⟩ := List.mem_iff_getElem.1 hx
      rw [List.getElem_modify]
      have hm : s.halters[i]'(by simpa using hi) ∈ s.halters := List.getElem_mem _
      split
      · exact hf _ _ (h.pins _ hm)
      · exact h.pins _ hm }

theorem State_modLoft_good {p : Part} {a : Instant} {w : List Instr} {Q : List Contract → List Effect → Prop} {s : State} {f : Loft → Loft} (h : Good p a w Q s)
    (hf : s.loft.mem.wf = true → (f s.loft).mem.wf = true) : Good p a w Q (s.modLoft f) :=
  { h with loftMem := hf h.loftMem }

theorem State_modDram_good {p : Part} {a : Instant} {w : List Instr} {Q : List Contract → List Effect → Prop} {s : State}
    {f : Dram → Dram} (h : Good p a w Q s) (hf : s.dram.mem.wf = true → (f s.dram).mem.wf = true)
    (hl : (f s.dram).channels.length = s.dram.channels.length) : Good p a w Q (s.modDram f) :=
  { h with
    dramMem := hf h.dramMem
    shape := by simpa [State.shape, State.modDram, hl] using h.shape }

theorem markAccepted_good {p : Part} {a : Instant} {w : List Instr} {Q : List Contract → List Effect → Prop} {q : Nat} {s : State} (h : Good p a w Q s) :
    Good p a w Q (markAccepted q s) :=
  { h with
    time := by
      refine Nat.le_trans h.time ?_
      show s.now ≤ acceptInstant s
      unfold acceptInstant
      split
      · exact Nat.le_max_left _ _
      · exact Nat.le_refl _ }

theorem defer_good {p : Part} {a : Instant} {w : List Instr} {e : Effect} {s : State} (h : Good p a w contractsApart s)
    (he : ∀ n c, e ≠ .partition n c) : Good p a w contractsApart (defer e s) :=
  { h with
    apart := by
      obtain ⟨h1, h2, h3⟩ := h.apart
      have old : ∀ n c, Effect.partition n c ∈ s.deferred ++ [e] → Effect.partition n c ∈ s.deferred := by
        intro n c hm
        rcases List.mem_append.1 hm with hm | hm
        · exact hm
        · exact absurd (List.mem_singleton.1 hm).symm (he n c)
      exact ⟨h1, fun n c b hm => h2 n c b (old n c hm), fun n c m d hm hd => h3 n c m d (old n c hm) (old m d hd)⟩ }

theorem next_good {p : Part} {a : Instant} {w : List Instr} {Q : List Contract → List Effect → Prop} {s : State} (h : Good p a w Q s) :
    ∀ u, (Host.Outcome.next s : Host.Outcome State Fault Refusal) = .next u → Good p a w Q u := by
  intro u hu
  cases hu
  exact h

theorem fault_good {p : Part} {a : Instant} {w : List Instr} {Q : List Contract → List Effect → Prop} {r : Fault} :
    ∀ u, (Host.Outcome.fault r : Host.Outcome State Fault Refusal) = .next u → Good p a w Q u := by
  intro u hu
  cases hu

/-- One halter changes: its new record must say its state. -/
theorem Good.atHalter {p : Part} {a : Instant} {w : List Instr} {Q : List Contract → List Effect → Prop} {s t : State} {u : Nat} {g : Halter → Halter} (h : Good p a w Q s)
    (h3 : t.halters = s.halters.modify u g)
    (hg : ∀ hu : u < s.halters.length, (s.halters[u]).pinsOk s.pins.thermtrip = true → (g s.halters[u]).pinsOk s.pins.thermtrip = true)
    (h0 : t.part = s.part) (h1 : t.loft.mem = s.loft.mem) (h2 : t.dram.mem = s.dram.mem)
    (h4 : t.contracts = s.contracts) (h5 : t.deferred = s.deferred) (h6 : t.now = s.now)
    (h7 : t.pins.thermtrip = s.pins.thermtrip)
    (h8 : t.pending = s.pending) (h9 : t.counts = s.counts) : Good p a w Q t := by
  have hp : Good p a w Q { s with halters := s.halters.modify u g } :=
    { h with
      shape := by simpa [State.shape] using h.shape
      pins := by
        intro x hx
        have hx : x ∈ s.halters.modify u g := hx
        obtain ⟨i, hi, rfl⟩ := List.mem_iff_getElem.1 hx
        rw [List.getElem_modify]
        have hm : s.halters[i]'(by simpa using hi) ∈ s.halters := List.getElem_mem _
        split
        · rename_i hu
          subst hu
          exact hg _ (h.pins _ hm)
        · exact h.pins _ hm }
  exact hp.upd h0 h1 h2 h3 h4 h5 h6 h7 h8 fun _ => shape_of_counts h9 h.shape

theorem overlap_comm (x y : Nat × Nat) : overlap x y = overlap y x := Bool.and_comm _ _

theorem leaseClash_comm (x y : Lease) : leaseClash x y = leaseClash y x := by
  unfold leaseClash
  rw [Bool.eq_iff_iff]
  simp only [Bool.and_eq_true, decide_eq_true_eq]
  constructor <;> rintro ⟨⟨⟨h1, h2⟩, h3⟩, h4⟩ <;> exact ⟨⟨⟨h1.symm, h1 ▸ h2⟩, h4⟩, h3⟩

theorem any_any_comm {α : Type} {f g : α → α → Bool} (h : ∀ x y, f x y = g y x) (l m : List α) :
    (l.any fun x => m.any fun y => f x y) = m.any fun y => l.any fun x => g y x := by
  rw [Bool.eq_iff_iff]
  simp only [List.any_eq_true]
  constructor
  · rintro ⟨x, hx, y, hy, hxy⟩
    exact ⟨y, hy, x, hx, by rw [← h]; exact hxy⟩
  · rintro ⟨y, hy, x, hx, hxy⟩
    exact ⟨x, hx, y, hy, by rw [h]; exact hxy⟩

/-- Clashing is mutual (R163). -/
theorem contractsClash_comm (x y : Contract) : contractsClash x y = contractsClash y x := by
  unfold contractsClash
  have range : ∀ u v : Nat × Nat, (overlap u v && decide (u.2 ≠ 0) && decide (v.2 ≠ 0)) =
      (overlap v u && decide (v.2 ≠ 0) && decide (u.2 ≠ 0)) := by
    intro u v
    rw [overlap_comm, Bool.and_assoc, Bool.and_assoc, Bool.and_comm (decide (u.2 ≠ 0))]
  rw [any_any_comm range x.loft, any_any_comm range x.dram, any_any_comm leaseClash_comm x.leases,
    overlap_comm (x.tetherFirst, x.tetherCount), Bool.and_assoc, Bool.and_comm (decide (x.tetherCount ≠ 0)),
    ← Bool.and_assoc]
  congr 3
  exact propext eq_comm

theorem apart_set {cs : List Contract} {ds : List Effect} {n : Nat} {c : Contract} (h : contractsApart cs ds)
    (hc : ∀ m, m < 4 → m ≠ n → contractsClash c (cs.getD m (.reset m)) = false)
    (hd : ∀ m d, Effect.partition m d ∈ ds → m ≠ n → contractsClash d c = false) :
    contractsApart (cs.set n c) ds := by
  obtain ⟨h1, h2, h3⟩ := h
  have look : ∀ m, (cs.set n c).getD m (.reset m) = if n = m ∧ n < cs.length then c else cs.getD m (.reset m) := by
    intro m
    simp only [List.getD_eq_getElem?_getD, List.getElem?_set]
    by_cases hm : n = m
    · by_cases hl : n < cs.length
      · subst hm
        simp [hl]
      · subst hm
        simp [hl]
    · simp [hm]
  refine ⟨fun x y hx hy hxy => ?_, fun m d b hm hb hmb => ?_, h3⟩
  · rw [look x, look y]
    split
    · rename_i hnx
      rw [if_neg (by omega)]
      exact hc y hy (by omega)
    · split
      · rename_i hny
        rw [contractsClash_comm]
        exact hc x hx (by omega)
      · exact h1 x y hx hy hxy
  · rw [look b]
    split
    · rename_i hnb
      exact hd m d hm (by omega)
    · exact h2 m d b hm hb hmb

theorem apart_fewer {cs : List Contract} {ds es : List Effect} (h : contractsApart cs ds)
    (hs : ∀ n c, Effect.partition n c ∈ es → Effect.partition n c ∈ ds) : contractsApart cs es :=
  ⟨h.1, fun n c b hm => h.2.1 n c b (hs n c hm), fun n c m d hm hd => h.2.2 n c m d (hs n c hm) (hs m d hd)⟩

theorem Good.imp {p : Part} {a : Instant} {w : List Instr} {Q R : List Contract → List Effect → Prop} {s : State} (h : Good p a w Q s)
    (hq : Q s.contracts s.deferred → R s.contracts s.deferred) : Good p a w R s :=
  { h with apart := hq h.apart }

theorem Good.zero {p : Part} {a : Instant} {w : List Instr} {Q : List Contract → List Effect → Prop} {s : State} (h : Good p a w Q s) :
    Good p 0 w Q s :=
  { h with time := Nat.zero_le _ }

theorem Good.fewer {p : Part} {a : Instant} {w : List Instr} {s t : State} (h : Good p a w contractsApart s)
    (hs : ∀ n c, Effect.partition n c ∈ t.deferred → Effect.partition n c ∈ s.deferred)
    (h0 : t.part = s.part) (h1 : t.loft.mem = s.loft.mem) (h2 : t.dram.mem = s.dram.mem)
    (h3 : t.halters = s.halters) (h4 : t.contracts = s.contracts) (h6 : t.now = s.now)
    (h7 : t.pins.thermtrip = s.pins.thermtrip) (h8 : t.pending = s.pending) (h9 : s.shape → t.shape) : Good p a w contractsApart t := by
  have hf : Good p a w contractsApart { s with deferred := t.deferred } :=
    { h with apart := apart_fewer h.apart hs }
  exact hf.upd h0 h1 h2 h3 h4 rfl h6 h7 h8 h9

theorem setContract_good {p : Part} {a : Instant} {w : List Instr} {n : Nat} {c : Contract} {s : State}
    (h : Good p a w contractsApart s)
    (hc : ∀ m, m < 4 → m ≠ n → contractsClash c (s.contract m) = false)
    (hd : ∀ m d, Effect.partition m d ∈ s.deferred → m ≠ n → contractsClash d c = false) :
    Good p a w contractsApart (setContract n c s) :=
  { h with
    apart := apart_set h.apart hc hd
    shape := by simpa [State.shape, setContract] using h.shape }

theorem minBy_none {α : Type} {key : α → Nat} : ∀ {l : List α}, minBy key l = none → l = []
  | [], _ => rfl
  | x :: l, h => by
    unfold minBy at h
    split at h
    · split at h <;> cases h
    · cases h

theorem firstFailing_none {cs : List (Bool × Status)} (h : firstFailing cs = none) : ∀ x ∈ cs, x.1 = false := by
  intro x hx
  have hn := minBy_none (Option.map_eq_none_iff.1 h)
  rcases hb : x.1 with _ | _
  · rfl
  · exact absurd (List.mem_filter.2 ⟨hx, hb⟩) (by rw [hn]; exact List.not_mem_nil)

theorem State_modDrover_good {p : Part} {a : Instant} {w : List Instr} {Q : List Contract → List Effect → Prop}
    {s : State} {f : Drover → Drover} (h : Good p a w Q s)
    (ht : (f s.drover).tethers.length = s.drover.tethers.length)
    (hf : (f s.drover).faults.length = s.drover.faults.length) : Good p a w Q (s.modDrover f) :=
  { h with shape := by simpa [State.shape, State.modDrover, ht, hf] using h.shape }

end Sys2Proof.Machine
end

