-- ==== Sys2Proof/Laws/KeepCore.lean ====
section
/-!
SUPPORT. Every operation keeps a good state good: the shared operations over rings, completions, events and the trace.
-/
namespace Sys2Proof.Machine

set_option maxRecDepth 2000
set_option linter.unusedSimpArgs false
set_option linter.unusedTactic false
set_option linter.unreachableTactic false

variable {fz : Part} {t0 : Instant} {ws : List Instr} {Q : List Contract → List Effect → Prop}

/-! ### Ops -/

theorem drawn_good {s : State} (h : Good fz t0 ws Q s) :
    Good fz t0 ws Q (drawn s) := by
  unfold drawn
  repeat' (with_reducible refine Good.parts ?_ rfl rfl rfl rfl rfl rfl rfl rfl rfl rfl; with_reducible assumption)

theorem State_modFn_good {s : State} {i : Nat} {f : Func → Func} (h : Good fz t0 ws Q s) :
    Good fz t0 ws Q (State.modFn s i f) := by
  unfold State.modFn
  repeat' (with_reducible refine Good.parts ?_ rfl rfl rfl rfl rfl rfl rfl rfl rfl (by simp only [lmod, List.length_modify, List.length_map, List.length_set]); with_reducible assumption)

theorem State_modRing_good {s : State} {f r : Nat} {g : Ring → Ring} (h : Good fz t0 ws Q s) :
    Good fz t0 ws Q (State.modRing s f r g) := by
  unfold State.modRing
  repeat' first
    | with_reducible assumption
    | with_reducible apply State_modFn_good

theorem State_modPort_good {s : State} {i : Nat} {f : CamPort → CamPort} (h : Good fz t0 ws Q s) :
    Good fz t0 ws Q (State.modPort s i f) := by
  unfold State.modPort
  repeat' (with_reducible refine Good.parts ?_ rfl rfl rfl rfl rfl rfl rfl rfl rfl (by simp only [lmod, List.length_modify, List.length_map, List.length_set]); with_reducible assumption)

theorem State_modCtx_good {s : State} {i : Nat} {f : Ctx → Ctx} (h : Good fz t0 ws Q s) :
    Good fz t0 ws Q (State.modCtx s i f) := by
  unfold State.modCtx
  repeat' (with_reducible refine Good.parts ?_ rfl rfl rfl rfl rfl rfl rfl rfl rfl (by simp only [lmod, List.length_modify, List.length_map, List.length_set]); with_reducible assumption)

theorem State_modLane_good {s : State} {i : Nat} {f : Lane → Lane} (h : Good fz t0 ws Q s) :
    Good fz t0 ws Q (State.modLane s i f) := by
  unfold State.modLane
  repeat' (with_reducible refine Good.parts ?_ rfl rfl rfl rfl rfl rfl rfl rfl rfl (by simp only [lmod, List.length_modify, List.length_map, List.length_set]); with_reducible assumption)

theorem State_modFsync_good {s : State} {i : Nat} {f : Fsync → Fsync} (h : Good fz t0 ws Q s) :
    Good fz t0 ws Q (State.modFsync s i f) := by
  unfold State.modFsync
  repeat' (with_reducible refine Good.parts ?_ rfl rfl rfl rfl rfl rfl rfl rfl rfl (by simp only [lmod, List.length_modify, List.length_map, List.length_set]); with_reducible assumption)

theorem State_modI2c_good {s : State} {i : Nat} {f : I2c → I2c} (h : Good fz t0 ws Q s) :
    Good fz t0 ws Q (State.modI2c s i f) := by
  unfold State.modI2c
  repeat' (with_reducible refine Good.parts ?_ rfl rfl rfl rfl rfl rfl rfl rfl rfl (by simp only [lmod, List.length_modify, List.length_map, List.length_set]); with_reducible assumption)

theorem State_modLink_good {s : State} {p : Nat} {f : PLink → PLink} (h : Good fz t0 ws Q s) :
    Good fz t0 ws Q (State.modLink s p f) := by
  unfold State.modLink
  repeat' (with_reducible refine Good.parts ?_ rfl rfl rfl rfl rfl rfl rfl rfl rfl (by simp only [lmod, List.length_modify, List.length_map, List.length_set]); with_reducible assumption)

theorem State_modTick_good {s : State} {f : Tick → Tick} (h : Good fz t0 ws Q s) :
    Good fz t0 ws Q (State.modTick s f) := by
  unfold State.modTick
  repeat' (with_reducible refine Good.parts ?_ rfl rfl rfl rfl rfl rfl rfl rfl rfl rfl; with_reducible assumption)

theorem State_modFabric_good {s : State} {f : Fabric → Fabric} (h : Good fz t0 ws Q s) :
    Good fz t0 ws Q (State.modFabric s f) := by
  unfold State.modFabric
  repeat' (with_reducible refine Good.parts ?_ rfl rfl rfl rfl rfl rfl rfl rfl rfl rfl; with_reducible assumption)

theorem State_modEgress_good {s : State} {f : Egress → Egress} (h : Good fz t0 ws Q s) :
    Good fz t0 ws Q (State.modEgress s f) := by
  unfold State.modEgress
  repeat' (with_reducible refine Good.parts ?_ rfl rfl rfl rfl rfl rfl rfl rfl rfl rfl; with_reducible assumption)

theorem State_modPower_good {s : State} {f : Power → Power} (h : Good fz t0 ws Q s) :
    Good fz t0 ws Q (State.modPower s f) := by
  unfold State.modPower
  repeat' (with_reducible refine Good.parts ?_ rfl rfl rfl rfl rfl rfl rfl rfl rfl rfl; with_reducible assumption)

theorem State_modGraph_good {s : State} {g : Nat} {f : Graph → Graph} (h : Good fz t0 ws Q s) :
    Good fz t0 ws Q (State.modGraph s g f) := by
  unfold State.modGraph
  repeat' first
    | with_reducible assumption
    | with_reducible apply State_modDrover_good
    | with_reducible rfl

theorem State_modInst_good {s : State} {g : Nat} {f : Inst → Inst} (h : Good fz t0 ws Q s) :
    Good fz t0 ws Q (State.modInst s g f) := by
  unfold State.modInst
  repeat' first
    | with_reducible assumption
    | with_reducible apply State_modDrover_good
    | with_reducible rfl

theorem State_modTether_good {s : State} {n : Nat} {f : Tether → Tether} (h : Good fz t0 ws Q s) :
    Good fz t0 ws Q (State.modTether s n f) := by
  unfold State.modTether
  repeat' first
    | with_reducible assumption
    | with_reducible apply State_modDrover_good
    | with_reducible rfl
    | (show List.length _ = List.length _; simp [lmod]; done)

theorem emit_good {o : Output} {s : State} (h : Good fz t0 ws Q s) :
    Good fz t0 ws Q (emit o s) := by
  unfold emit
  repeat' (with_reducible refine Good.parts ?_ rfl rfl rfl rfl rfl rfl rfl rfl rfl rfl; with_reducible assumption)

theorem emitWrite_good {f : Nat} {addr : BitVec 64} {data : List Byte} {poisoned : Bool} {s : State} (h : Good fz t0 ws Q s) :
    Good fz t0 ws Q (emitWrite f addr data poisoned s) := by
  unfold emitWrite
  try dsimp only
  repeat' first
    | with_reducible assumption
    | intro _
    | with_reducible apply hostWrite_good
    | with_reducible apply State_maxPayload_good
    | with_reducible apply Good.ite
    | with_reducible apply Good.foldl
    | split
    | (with_reducible refine Good.parts ?_ rfl rfl rfl rfl rfl rfl rfl rfl rfl rfl; with_reducible assumption)
    | with_reducible rfl
    | (show List.length _ = List.length _; simp [lmod]; done)

theorem emitRead_good {f : Nat} {addr : BitVec 64} {len : Nat} {s : State} (h : Good fz t0 ws Q s) :
    Good fz t0 ws Q (emitRead f addr len s) := by
  unfold emitRead
  try dsimp only
  repeat' first
    | with_reducible assumption
    | intro _
    | with_reducible apply State_maxRead_good
    | with_reducible apply Good.ite
    | with_reducible apply Good.foldl
    | split
    | (with_reducible refine Good.parts ?_ rfl rfl rfl rfl rfl rfl rfl rfl rfl rfl; with_reducible assumption)
    | with_reducible rfl
    | (show List.length _ = List.length _; simp [lmod]; done)

theorem hostWriteEp_good {f : Nat} {addr : BitVec 64} {data : List Byte} {poisoned : Bool} {s : State} (h : Good fz t0 ws Q s) :
    Good fz t0 ws Q (hostWriteEp f addr data poisoned s) := by
  unfold hostWriteEp
  try dsimp only
  repeat' first
    | with_reducible assumption
    | intro _
    | with_reducible apply State_modFn_good
    | with_reducible apply emitWrite_good
    | with_reducible apply Good.ite
    | with_reducible apply Good.foldl
    | split
    | (with_reducible refine Good.parts ?_ rfl rfl rfl rfl rfl rfl rfl rfl rfl rfl; with_reducible assumption)
    | with_reducible rfl
    | (show List.length _ = List.length _; simp [lmod]; done)

theorem hostWrite_good {f : Nat} {addr : BitVec 64} {data : List Byte} {s : State} (h : Good fz t0 ws Q s) :
    Good fz t0 ws Q (hostWrite f addr data s) := by
  unfold hostWrite
  repeat' first
    | with_reducible assumption
    | with_reducible apply hostWriteEp_good

theorem sendVector_good {f v : Nat} {s : State} (h : Good fz t0 ws Q s) :
    Good fz t0 ws Q (sendVector f v s) := by
  unfold sendVector
  repeat' first
    | with_reducible assumption
    | with_reducible apply State_modFn_good
    | with_reducible apply emit_good
    | with_reducible apply Good.ite

theorem setCause_good {f : Nat} {mask : BitVec 6} {s : State} (h : Good fz t0 ws Q s) :
    Good fz t0 ws Q (setCause f mask s) := by
  unfold setCause
  repeat' first
    | with_reducible assumption
    | with_reducible apply State_modFn_good

theorem setAlerts_good {status mask : BitVec 6} {s : State} (h : Good fz t0 ws Q s) :
    Good fz t0 ws Q (setAlerts status mask s) := by
  unfold setAlerts
  try dsimp only
  repeat' first
    | with_reducible apply emit_good
    | with_reducible apply Good.ite
    | (with_reducible refine Good.parts ?_ rfl rfl rfl rfl rfl rfl rfl rfl rfl rfl; with_reducible assumption)

theorem raiseAlert_good {bit : BitVec 6} {s : State} (h : Good fz t0 ws Q s) :
    Good fz t0 ws Q (raiseAlert bit s) := by
  unfold raiseAlert
  repeat' first
    | with_reducible assumption
    | with_reducible apply setAlerts_good

theorem writeCq_good {f r : Nat} {entry : Bool → BitVec 256} {s : State} (h : Good fz t0 ws Q s) :
    Good fz t0 ws Q (writeCq f r entry s) := by
  unfold writeCq
  try dsimp only
  repeat' first
    | with_reducible assumption
    | with_reducible apply emit_good
    | with_reducible apply State_modRing_good
    | split

theorem signalCq_good {f r : Nat} {s : State} (h : Good fz t0 ws Q s) :
    Good fz t0 ws Q (signalCq f r s) := by
  unfold signalCq
  repeat' first
    | with_reducible assumption
    | with_reducible apply sendVector_good
    | with_reducible apply State_modRing_good
    | with_reducible apply Good.ite
    | split

theorem writeCompletion_good {f r : Nat} {c : Completion} {s : State} (h : Good fz t0 ws Q s) :
    Good fz t0 ws Q (writeCompletion f r c s) := by
  unfold writeCompletion
  repeat' first
    | with_reducible assumption
    | with_reducible apply setCause_good
    | with_reducible apply writeCq_good
    | with_reducible apply State_modRing_good
    | with_reducible apply signalCq_good

theorem complete_good {f r seq : Nat} {c : Completion} {s : State} (h : Good fz t0 ws Q s) :
    Good fz t0 ws Q (complete f r seq c s) := by
  unfold complete
  try dsimp only
  repeat' first
    | with_reducible assumption
    | intro _
    | with_reducible apply State_modFn_good
    | with_reducible apply writeCompletion_good
    | with_reducible apply Good.ite
    | with_reducible apply Good.foldl
    | split
    | (with_reducible refine Good.parts ?_ rfl rfl rfl rfl rfl rfl rfl rfl rfl rfl; with_reducible assumption)
    | with_reducible rfl
    | (show List.length _ = List.length _; simp [lmod]; done)

theorem writeEvent_good {f : Nat} {e : Event} {s : State} (h : Good fz t0 ws Q s) :
    Good fz t0 ws Q (writeEvent f e s) := by
  unfold writeEvent
  repeat' first
    | with_reducible assumption
    | with_reducible apply setCause_good
    | with_reducible apply sendVector_good
    | with_reducible apply writeCq_good

theorem flushEvents_good {p : Part} {a : Instant} {w : List Instr} {Q : List Contract → List Effect → Prop} {f : Nat} : ∀ {n : Nat} {s : State}, Good p a w Q s →
    Good p a w Q (flushEvents f n s)
  | 0, _, h => h
  | n + 1, s, h => by
    unfold flushEvents
    repeat' first
      | assumption
      | with_reducible apply flushEvents_good
      | with_reducible apply writeEvent_good
      | with_reducible apply State_modFn_good
      | with_reducible apply Good.ite
      | split

theorem postOn_good {f : Nat} {e : Event} {s : State} (h : Good fz t0 ws Q s) :
    Good fz t0 ws Q (postOn f e s) := by
  unfold postOn
  repeat' first
    | with_reducible assumption
    | with_reducible apply flushEvents_good
    | with_reducible apply State_modFn_good
    | with_reducible apply Good.ite

theorem postTenant_good {tenant cls cause : Nat} {detail : BitVec 64} {s : State} (h : Good fz t0 ws Q s) :
    Good fz t0 ws Q (postTenant tenant cls cause detail s) := by
  unfold postTenant
  repeat' first
    | with_reducible assumption
    | with_reducible apply postOn_good

theorem postAll_good {cls cause : Nat} {detail : BitVec 64} {s : State} (h : Good fz t0 ws Q s) :
    Good fz t0 ws Q (postAll cls cause detail s) := by
  unfold postAll
  try dsimp only
  repeat' first
    | with_reducible assumption
    | intro _
    | with_reducible apply postOn_good
    | with_reducible apply Good.ite
    | with_reducible apply Good.foldl

theorem postTo_good {tenant : Option Nat} {cls cause : Nat} {detail : BitVec 64} {s : State} (h : Good fz t0 ws Q s) :
    Good fz t0 ws Q (postTo tenant cls cause detail s) := by
  unfold postTo
  repeat' first
    | with_reducible assumption
    | with_reducible apply postAll_good
    | with_reducible apply postTenant_good
    | split

theorem postRing_good {f r : Nat} {c : RingCause} {s : State} (h : Good fz t0 ws Q s) :
    Good fz t0 ws Q (postRing f r c s) := by
  unfold postRing
  repeat' first
    | with_reducible assumption
    | with_reducible apply postTenant_good

theorem ringError_good {f r : Nat} {c : RingCause} {s : State} (h : Good fz t0 ws Q s) :
    Good fz t0 ws Q (ringError f r c s) := by
  unfold ringError
  try dsimp only
  repeat' first
    | with_reducible assumption
    | intro _
    | with_reducible apply State_modFn_good
    | with_reducible apply State_modRing_good
    | with_reducible apply sendVector_good
    | with_reducible apply setCause_good
    | with_reducible apply postRing_good
    | with_reducible apply Good.ite
    | with_reducible apply Good.foldl
    | split
    | (with_reducible refine Good.parts ?_ rfl rfl rfl rfl rfl rfl rfl rfl rfl rfl; with_reducible assumption)
    | with_reducible rfl
    | (show List.length _ = List.length _; simp [lmod]; done)

theorem finish_good {seq : Nat} {st : Status} {result : BitVec 64} {s : State} (h : Good fz t0 ws Q s) :
    Good fz t0 ws Q (finish seq st result s) := by
  unfold finish
  try dsimp only
  repeat' first
    | with_reducible assumption
    | intro _
    | with_reducible apply complete_good
    | with_reducible apply Good.ite
    | with_reducible apply Good.foldl
    | split
    | (with_reducible refine Good.parts ?_ rfl rfl rfl rfl rfl rfl rfl rfl rfl rfl; with_reducible assumption)
    | with_reducible rfl
    | (show List.length _ = List.length _; simp [lmod]; done)

/-! ### Accept -/

theorem timeOut_good {seq f : Nat} {s : State} (h : Good fz t0 ws Q s) :
    Good fz t0 ws Q (timeOut seq f s) := by
  unfold timeOut
  repeat' first
    | with_reducible assumption
    | with_reducible apply finish_good
    | with_reducible apply State_modFn_good

theorem checked_good {seq : Nat} {cs : List (Bool × Status)} {k : State → State} {s : State} (k2 : ∀ s_, Good fz t0 ws
    Q s_ → Good fz t0 ws Q (k s_)) (h : Good fz t0 ws Q s) :
    Good fz t0 ws Q (checked seq cs k s) := by
  unfold checked
  repeat' first
    | with_reducible assumption
    | with_reducible apply k2
    | with_reducible apply finish_good
    | split

theorem dropRing_good {f r : Nat} {s : State} (h : Good fz t0 ws Q s) :
    Good fz t0 ws Q (dropRing f r s) := by
  unfold dropRing
  repeat' first
    | with_reducible apply State_modFn_good
    | (with_reducible refine Good.parts ?_ rfl rfl rfl rfl rfl rfl rfl rfl rfl rfl; with_reducible assumption)

theorem stopRing_good {f r : Nat} {delete : Bool} {s : State} (h : Good fz t0 ws Q s) :
    Good fz t0 ws Q (stopRing f r delete s) := by
  unfold stopRing
  repeat' first
    | with_reducible assumption
    | with_reducible apply State_modFn_good
    | with_reducible apply dropRing_good
    | with_reducible apply State_modRing_good
    | with_reducible apply Good.ite

theorem adminReady_good {f : Nat} {s : State} (h : Good fz t0 ws Q s) :
    Good fz t0 ws Q (adminReady f s) := by
  unfold adminReady
  repeat' first
    | with_reducible assumption
    | with_reducible apply flushEvents_good
    | with_reducible apply State_modFn_good
    | with_reducible apply Good.ite

theorem setupAdmin_good {f : Nat} {s : State} (h : Good fz t0 ws Q s) :
    Good fz t0 ws Q (setupAdmin f s) := by
  unfold setupAdmin
  try dsimp only
  repeat' first
    | with_reducible assumption
    | intro _
    | with_reducible apply State_modFn_good
    | with_reducible apply sendVector_good
    | with_reducible apply setCause_good
    | with_reducible apply adminReady_good
    | with_reducible apply Good.ite
    | with_reducible apply Good.foldl
    | split
    | (with_reducible refine Good.parts ?_ rfl rfl rfl rfl rfl rfl rfl rfl rfl rfl; with_reducible assumption)
    | with_reducible rfl
    | (show List.length _ = List.length _; simp [lmod]; done)

theorem closeAdmin_good {f : Nat} {s : State} (h : Good fz t0 ws Q s) :
    Good fz t0 ws Q (closeAdmin f s) := by
  unfold closeAdmin
  try dsimp only
  repeat' first
    | with_reducible assumption
    | intro _
    | with_reducible apply State_modFn_good
    | with_reducible apply setupAdmin_good
    | with_reducible apply Good.ite
    | with_reducible apply Good.foldl
    | split
    | (with_reducible refine Good.parts ?_ rfl rfl rfl rfl rfl rfl rfl rfl rfl rfl; with_reducible assumption)
    | with_reducible rfl
    | (show List.length _ = List.length _; simp [lmod]; done)

theorem sweep_good {p : Part} {a : Instant} {w : List Instr} {Q : List Contract → List Effect → Prop} : ∀ {n : Nat} {s : State}, Good p a w Q s → Good p a w Q (sweep n s)
  | 0, _, h => h
  | n + 1, s, h => by
    unfold sweep
    repeat' first
      | assumption
      | with_reducible apply sweep_good
      | with_reducible apply finish_good
      | with_reducible apply stopRing_good
      | with_reducible apply closeAdmin_good
      | with_reducible apply timeOut_good
      | with_reducible apply markAccepted_good
      | with_reducible apply State_modFn_good
      | with_reducible apply Good.ite
      | split
      | dsimp only

theorem settle_good {s : State} (h : Good fz t0 ws Q s) :
    Good fz t0 ws Q (settle s) := by
  unfold settle
  repeat' first
    | with_reducible assumption
    | with_reducible apply sweep_good

theorem runAccepted_good {seq : Nat} {c : Cmd} {cs : State → List (Bool × Status)} {body : Nat → State → State} {s :
    State} (k3 : ∀ y0 s_, Good fz t0 ws Q s_ → Good fz t0 ws Q (body y0 s_)) (h : Good fz t0 ws Q s) :
    Good fz t0 ws Q (runAccepted seq c cs body s) := by
  unfold runAccepted
  repeat' first
    | with_reducible assumption
    | intro _
    | with_reducible apply k3
    | with_reducible apply timeOut_good
    | with_reducible apply checked_good
    | with_reducible apply Good.ite

theorem runAccepted_checked {p : Part} {a : Instant} {w : List Instr} {Q : List Contract → List Effect → Prop} {seq : Nat}
    {c : Cmd} {cs : State → List (Bool × Status)} {body : Nat → State → State} {s : State}
    (hb : Good p a w Q s → (∀ x ∈ cs s, x.1 = false) → Good p a w Q (body seq s)) (h : Good p a w Q s) :
    Good p a w Q (runAccepted seq c cs body s) := by
  unfold runAccepted checked
  split
  · exact timeOut_good h
  · split
    · exact finish_good h
    · rename_i hn
      exact hb h (fun x hx => firstFailing_none hn x (List.mem_cons_of_mem _ (List.mem_cons_of_mem _ hx)))

theorem command_checked {p : Part} {a : Instant} {w : List Instr} {Q : List Contract → List Effect → Prop} {op : Nat} {t : Instant} {r : RingRef} {e : Entry}
    {cs : State → List (Bool × Status)} {body : Nat → State → State} {s : State}
    (hb : ∀ q s, Good p a w Q s → (∀ x ∈ cs s, x.1 = false) → Good p a w Q (body q s)) (h : Good p a w Q s) :
    ∀ u, command op t r e cs body s = .next u → Good p a w Q u := by
  intro u hu
  unfold command at hu
  dsimp only at hu
  split at hu <;> cases hu
  · exact advance_good h
  · rename_i q c hc
    have hm : Good p a w Q (markAccepted q (advance t s)) := markAccepted_good (advance_good h)
    exact settle_good (runAccepted_checked (hb q _) hm)

theorem command_good {p : Part} {a : Instant} {w : List Instr} {Q : List Contract → List Effect → Prop} {op : Nat} {t : Instant} {r : RingRef} {e : Entry}
    {cs : State → List (Bool × Status)} {body : Nat → State → State} {s : State}
    (hb : ∀ q s, Good p a w Q s → Good p a w Q (body q s)) (h : Good p a w Q s) :
    ∀ u, command op t r e cs body s = .next u → Good p a w Q u :=
  command_checked (fun q s h _ => hb q s h) h

theorem readBuffer_good {f : Nat} {e : Entry} {s : State} (h : Good fz t0 ws Q s) :
    Good fz t0 ws Q (readBuffer f e s) := by
  unfold readBuffer
  try dsimp only
  repeat' first
    | with_reducible assumption
    | intro _
    | with_reducible apply emitRead_good

theorem requestBuffer_good {c : Cmd} {cs : List (Bool × Status)} {s : State} (h : Good fz t0 ws Q s) :
    Good fz t0 ws Q (requestBuffer c cs s) := by
  unfold requestBuffer
  try dsimp only
  repeat' first
    | with_reducible assumption
    | intro _
    | with_reducible apply readBuffer_good
    | with_reducible apply Good.ite
    | split

theorem bufCommandAfter_checked {p : Part} {a : Instant} {w : List Instr} {Q : List Contract → List Effect → Prop}
    {first : State → State} {op : Nat} {t : Instant} {r : RingRef} {e : Entry} {cs bs : State → List (Bool × Status)}
    {body : Nat → State → State} {s : State} (hf : ∀ s, Good p a w Q s → Good p a w Q (first s))
    (hb : ∀ q s, Good p a w Q s → (∀ x ∈ cs s ++ bs s, x.1 = false) → Good p a w Q (body q s)) (h : Good p a w Q s) :
    ∀ u, bufCommandAfter first op t r e cs bs body s = .next u → Good p a w Q u := by
  unfold bufCommandAfter
  dsimp only
  split
  · exact next_good (advance_good h)
  · rename_i q c _
    have hm : Good p a w Q (markAccepted q (advance t s)) := markAccepted_good (advance_good h)
    split
    · refine next_good (settle_good (runAccepted_checked (hb q _) (requestBuffer_good ?_)))
      split
      · exact hf _ hm
      · exact hm
    · exact next_good (advance_good h)

theorem bufCommandAfter_good {p : Part} {a : Instant} {w : List Instr} {Q : List Contract → List Effect → Prop}
    {first : State → State} {op : Nat} {t : Instant} {r : RingRef} {e : Entry} {cs bs : State → List (Bool × Status)}
    {body : Nat → State → State} {s : State} (hf : ∀ s, Good p a w Q s → Good p a w Q (first s))
    (hb : ∀ q s, Good p a w Q s → Good p a w Q (body q s)) (h : Good p a w Q s) :
    ∀ u, bufCommandAfter first op t r e cs bs body s = .next u → Good p a w Q u :=
  bufCommandAfter_checked hf (fun q s h _ => hb q s h) h

theorem bufCommand_checked {p : Part} {a : Instant} {w : List Instr} {Q : List Contract → List Effect → Prop} {op : Nat}
    {t : Instant} {r : RingRef} {e : Entry} {cs bs : State → List (Bool × Status)} {body : Nat → State → State} {s : State}
    (hb : ∀ q s, Good p a w Q s → (∀ x ∈ cs s ++ bs s, x.1 = false) → Good p a w Q (body q s)) (h : Good p a w Q s) :
    ∀ u, bufCommand op t r e cs bs body s = .next u → Good p a w Q u :=
  bufCommandAfter_checked (fun _ h => h) hb h

theorem bufCommand_good {p : Part} {a : Instant} {w : List Instr} {Q : List Contract → List Effect → Prop} {op : Nat}
    {t : Instant} {r : RingRef} {e : Entry} {cs bs : State → List (Bool × Status)} {body : Nat → State → State} {s : State}
    (hb : ∀ q s, Good p a w Q s → Good p a w Q (body q s)) (h : Good p a w Q s) :
    ∀ u, bufCommand op t r e cs bs body s = .next u → Good p a w Q u :=
  bufCommand_checked (fun q s h _ => hb q s h) h

theorem writeBuffer_good {seq f : Nat} {addr : BitVec 64} {data : List Byte} {ok : Bool} {s : State} (h : Good fz t0
    ws Q s) :
    Good fz t0 ws Q (writeBuffer seq f addr data ok s) := by
  unfold writeBuffer
  repeat' first
    | with_reducible assumption
    | with_reducible apply finish_good
    | with_reducible apply hostWrite_good
    | with_reducible apply Good.ite

/-! ### Trace -/

theorem State_modTally_good {s : State} {f : Tally → Tally} (h : Good fz t0 ws Q s) :
    Good fz t0 ws Q (State.modTally s f) := by
  unfold State.modTally
  repeat' (with_reducible refine Good.parts ?_ rfl rfl rfl rfl rfl rfl rfl rfl rfl rfl; with_reducible assumption)

theorem tracePort_good {s : State} (h : Good fz t0 ws Q s) :
    Good fz t0 ws Q (tracePort s) := by
  unfold tracePort
  try dsimp only
  repeat' first
    | with_reducible assumption
    | with_reducible apply State_modTally_good
    | with_reducible apply emit_good
    | with_reducible apply Good.ite
    | split

theorem tallyBytes_good {d : List Byte} {s : State} (h : Good fz t0 ws Q s) :
    Good fz t0 ws Q (tallyBytes d s) := by
  unfold tallyBytes
  try dsimp only
  repeat' first
    | with_reducible assumption
    | with_reducible apply State_modTally_good
    | with_reducible apply Good.ite
    | split

theorem tallySync_good {s : State} (h : Good fz t0 ws Q s) :
    Good fz t0 ws Q (tallySync s) := by
  unfold tallySync
  try dsimp only
  repeat' first
    | with_reducible assumption
    | with_reducible apply tallyBytes_good
    | with_reducible apply State_modTally_good
    | with_reducible apply Good.ite

theorem tallyPacket_good {mk : Tally → Nat → List Byte} {s : State} (h : Good fz t0 ws Q s) :
    Good fz t0 ws Q (tallyPacket mk s) := by
  unfold tallyPacket
  try dsimp only
  repeat' first
    | with_reducible assumption
    | with_reducible apply tallyBytes_good
    | with_reducible apply tracePort_good
    | with_reducible apply State_modTally_good
    | with_reducible apply tallySync_good
    | with_reducible apply Good.ite

theorem tallyDrover_good {code tenant slot node arg : Nat} {s : State} (h : Good fz t0 ws Q s) :
    Good fz t0 ws Q (tallyDrover code tenant slot node arg s) := by
  unfold tallyDrover
  repeat' first
    | with_reducible assumption
    | with_reducible apply tallyPacket_good
    | with_reducible apply Good.ite
    | split

theorem tallyAccess_good {src filter : Nat} {write : Bool} {addr rows : Nat} {flagged : Bool} {values : Option (List
    Byte)} {s : State} (h : Good fz t0 ws Q s) :
    Good fz t0 ws Q (tallyAccess src filter write addr rows flagged values s) := by
  unfold tallyAccess
  try dsimp only
  repeat' first
    | with_reducible assumption
    | with_reducible apply tallyPacket_good
    | with_reducible apply State_modTally_good
    | with_reducible apply Good.ite
    | split

theorem tallyIngress_good {port : Nat} {h0 h1 : BitVec 64} {hasH1 : Bool} {key : Nat} {s : State} (h : Good fz t0 ws Q
    s) :
    Good fz t0 ws Q (tallyIngress port h0 h1 hasH1 key s) := by
  unfold tallyIngress
  repeat' first
    | with_reducible assumption
    | with_reducible apply tallyPacket_good
    | with_reducible apply Good.ite
    | split

end Sys2Proof.Machine
end

