-- ==== Sys2Proof/Laws/KeepMemory.lean ====
section
/-!
SUPPORT. Every operation keeps a good state good: the Loft and external memory.
-/
namespace Sys2Proof.Machine

set_option maxRecDepth 2000
set_option linter.unusedSimpArgs false
set_option linter.unusedTactic false
set_option linter.unreachableTactic false

variable {fz : Part} {t0 : Instant} {ws : List Instr} {Q : List Contract → List Effect → Prop}

/-! ### LoftOps -/

theorem putRow_good {row : Nat} {d : List Byte} {s : State} (h : Good fz t0 ws Q s) :
    Good fz t0 ws Q (putRow row d s) := by
  unfold putRow
  repeat' first
    | with_reducible assumption
    | intro _
    | with_reducible apply State_modLoft_good
    | with_reducible apply Mem.write_wf

theorem putRows_good {first : Nat} {d : List Byte} {s : State} (h : Good fz t0 ws Q s) :
    Good fz t0 ws Q (putRows first d s) := by
  unfold putRows
  repeat' first
    | with_reducible assumption
    | intro _
    | with_reducible apply State_modLoft_good
    | with_reducible apply Mem.write_wf

theorem undefineRows_good {first count : Nat} {s : State} (h : Good fz t0 ws Q s) :
    Good fz t0 ws Q (undefineRows first count s) := by
  unfold undefineRows
  repeat' first
    | with_reducible assumption
    | intro _
    | with_reducible apply State_modLoft_good
    | with_reducible apply drawn_good
    | with_reducible apply Mem.undefine_wf

theorem damageRow_good {row : Nat} {flips : Flips} {s : State} (h : Good fz t0 ws Q s) :
    Good fz t0 ws Q (damageRow row flips s) := by
  unfold damageRow
  try dsimp only
  repeat' first
    | with_reducible assumption
    | intro _
    | with_reducible apply State_modLoft_good
    | with_reducible apply Mem.write_wf
    | with_reducible apply Good.ite
    | with_reducible apply Good.foldl
    | split
    | (with_reducible refine Good.parts ?_ rfl rfl rfl rfl rfl rfl rfl rfl rfl rfl; with_reducible assumption)

theorem findFlaws_good {rows : List Nat} {flaws : List (Nat × Flips)} {s : State} (h : Good fz t0 ws Q s) :
    Good fz t0 ws Q (findFlaws rows flaws s) := by
  unfold findFlaws
  try dsimp only
  repeat' first
    | with_reducible assumption
    | intro _
    | with_reducible apply damageRow_good
    | with_reducible apply Good.foldl

theorem postLoft_good {row cause : Nat} {d : BitVec 64} {s : State} (h : Good fz t0 ws Q s) :
    Good fz t0 ws Q (postLoft row cause d s) := by
  unfold postLoft
  repeat' first
    | with_reducible assumption
    | with_reducible apply postTo_good

theorem detectAction_suspectRow_good {row : Nat} {s : State} (h : Good fz t0 ws Q s) :
    Good fz t0 ws Q (detectAction.suspectRow row s) := by
  unfold detectAction.suspectRow
  try dsimp only
  repeat' first
    | with_reducible assumption
    | intro _
    | with_reducible apply State_modLoft_good
    | with_reducible apply Good.ite

theorem detectAction_good {row : Nat} {s : State} (h : Good fz t0 ws Q s) :
    Good fz t0 ws Q (detectAction row s) := by
  unfold detectAction
  try dsimp only
  repeat' first
    | with_reducible assumption
    | intro _
    | with_reducible apply State_modLoft_good
    | with_reducible apply detectAction_suspectRow_good
    | with_reducible apply Good.ite
    | split

theorem detect_good {row : Nat} {by_ : DetectBy} {s : State} (h : Good fz t0 ws Q s) :
    Good fz t0 ws Q (detect row by_ s) := by
  unfold detect
  try dsimp only
  repeat' first
    | with_reducible assumption
    | intro _
    | with_reducible apply detectAction_good
    | with_reducible apply State_modLoft_good
    | with_reducible apply postLoft_good
    | split

theorem spoilGateRows_good {key : Nat} {s : State} (h : Good fz t0 ws Q s) :
    Good fz t0 ws Q (spoilGateRows key s) := by
  unfold spoilGateRows
  try dsimp only
  repeat' first
    | with_reducible assumption
    | intro _
    | with_reducible apply State_modLoft_good
    | with_reducible apply undefineRows_good
    | with_reducible apply Good.foldl
    | (with_reducible refine Good.parts ?_ rfl rfl rfl rfl rfl rfl rfl rfl rfl rfl; with_reducible assumption)

theorem mapRow_good {row spare : Nat} {s : State} (h : Good fz t0 ws Q s) :
    Good fz t0 ws Q (mapRow row spare s) := by
  unfold mapRow
  try dsimp only
  repeat' first
    | with_reducible assumption
    | intro _
    | with_reducible apply State_modLoft_good

theorem badRow_good {row : Nat} {s : State} (h : Good fz t0 ws Q s) :
    Good fz t0 ws Q (badRow row s) := by
  unfold badRow
  repeat' first
    | with_reducible assumption
    | intro _
    | with_reducible apply postAll_good
    | with_reducible apply State_modLoft_good
    | with_reducible apply raiseAlert_good

theorem failRegion_good {row region : Nat} {backing : Bool} {s : State} (h : Good fz t0 ws Q s) :
    Good fz t0 ws Q (failRegion row region backing s) := by
  unfold failRegion
  try dsimp only
  repeat' first
    | with_reducible assumption
    | intro _
    | with_reducible apply State_modLoft_good
    | with_reducible apply postLoft_good
    | with_reducible apply raiseAlert_good
    | with_reducible apply Good.ite

theorem refuseAccess_good {tenant reason addr : Nat} {s : State} (h : Good fz t0 ws Q s) :
    Good fz t0 ws Q (refuseAccess tenant reason addr s) := by
  unfold refuseAccess
  try dsimp only
  repeat' first
    | with_reducible assumption
    | intro _
    | with_reducible apply State_modLoft_good
    | with_reducible apply postTenant_good
    | with_reducible apply postLoft_good
    | with_reducible apply Good.ite
    | split
    | (with_reducible refine Good.parts ?_ rfl rfl rfl rfl rfl rfl rfl rfl rfl rfl; with_reducible assumption)

/-! ### StallOps -/

theorem spendCycle_good {stall : Nat} {s : State} (h : Good fz t0 ws Q s) :
    Good fz t0 ws Q (spendCycle stall s) := by
  unfold spendCycle
  try dsimp only
  repeat' first
    | with_reducible assumption
    | intro _
    | with_reducible apply State_modLoft_good
    | with_reducible apply Good.ite
    | split
    | (with_reducible refine Good.parts ?_ rfl rfl rfl rfl rfl rfl rfl rfl rfl rfl; with_reducible assumption)

theorem loseCycle_good {stall : Nat} {granted : Access} {s : State} (h : Good fz t0 ws Q s) :
    Good fz t0 ws Q (loseCycle stall granted s) := by
  unfold loseCycle
  try dsimp only
  repeat' first
    | with_reducible assumption
    | intro _
    | with_reducible apply State_modLoft_good
    | with_reducible apply spendCycle_good
    | (with_reducible refine Good.parts ?_ rfl rfl rfl rfl rfl rfl rfl rfl rfl rfl; with_reducible assumption)

theorem refillLost_good {row : Nat} {since : Instant} {s : State} (h : Good fz t0 ws Q s) :
    Good fz t0 ws Q (refillLost row since s) := by
  unfold refillLost
  try dsimp only
  repeat' first
    | with_reducible assumption
    | intro _
    | with_reducible apply State_modLoft_good
    | with_reducible apply Good.ite
    | with_reducible apply Good.foldl
    | split
    | (with_reducible refine Good.parts ?_ rfl rfl rfl rfl rfl rfl rfl rfl rfl rfl; with_reducible assumption)

theorem recoveryAccess_good {row : Nat} {s : State} (h : Good fz t0 ws Q s) :
    Good fz t0 ws Q (recoveryAccess row s) := by
  unfold recoveryAccess
  try dsimp only
  repeat' first
    | with_reducible assumption
    | intro _
    | with_reducible apply State_modLoft_good
    | with_reducible apply spendCycle_good
    | with_reducible apply Good.ite
    | split
    | (with_reducible refine Good.parts ?_ rfl rfl rfl rfl rfl rfl rfl rfl rfl rfl; with_reducible assumption)

theorem passStalls_good {cls : StallClass} {owner : Nat} {rs : List (Nat × Nat)} {s : State} (h : Good fz t0 ws Q s) :
    Good fz t0 ws Q (passStalls cls owner rs s).1 := by
  unfold passStalls
  try dsimp only
  repeat' first
    | with_reducible assumption
    | intro _
    | with_reducible apply State_modLoft_good
    | with_reducible apply Good.ite
    | split
    | (with_reducible refine Good.parts ?_ rfl rfl rfl rfl rfl rfl rfl rfl rfl rfl; with_reducible assumption)

theorem passAccess_good {cls : StallClass} {row : Nat} {s : State} (h : Good fz t0 ws Q s) :
    Good fz t0 ws Q (passAccess cls row s) := by
  unfold passAccess
  try dsimp only
  repeat' first
    | with_reducible assumption
    | intro _
    | with_reducible apply State_modLoft_good
    | with_reducible apply passStalls_good
    | (with_reducible refine Good.parts ?_ rfl rfl rfl rfl rfl rfl rfl rfl rfl rfl; with_reducible assumption)

theorem dropRequestAccesses_good {s : State} (h : Good fz t0 ws Q s) :
    Good fz t0 ws Q (dropRequestAccesses s) := by
  unfold dropRequestAccesses
  try dsimp only
  repeat' first
    | with_reducible assumption
    | intro _
    | with_reducible apply State_modLoft_good
    | split
    | (with_reducible refine Good.parts ?_ rfl rfl rfl rfl rfl rfl rfl rfl rfl rfl; with_reducible assumption)

theorem detectRows_good {by_ : DetectBy} {rows : List Nat} {s : State} (h : Good fz t0 ws Q s) :
    Good fz t0 ws Q (detectRows by_ rows s) := by
  unfold detectRows
  repeat' first
    | with_reducible assumption
    | intro _
    | with_reducible apply detect_good
    | with_reducible apply Good.ite
    | with_reducible apply Good.foldl

/-! ### DramOps -/

theorem postDram_good {x cause : Nat} {d : BitVec 64} {s : State} (h : Good fz t0 ws Q s) :
    Good fz t0 ws Q (postDram x cause d s) := by
  unfold postDram
  repeat' first
    | with_reducible assumption
    | with_reducible apply postTo_good

theorem countDram_good {x : Nat} {f : DramCounts → DramCounts} {s : State} (h : Good fz t0 ws Q s) :
    Good fz t0 ws Q (countDram x f s) := by
  unfold countDram
  repeat' first
    | with_reducible assumption
    | intro _
    | with_reducible apply State_modDram_good
    | (show List.length _ = List.length _; simp [lmod]; done)

theorem countCorrection_good {x : Nat} {scrub : Bool} {s : State} (h : Good fz t0 ws Q s) :
    Good fz t0 ws Q (countCorrection x scrub s) := by
  unfold countCorrection
  try dsimp only
  repeat' first
    | with_reducible assumption
    | intro _
    | with_reducible apply State_modDram_good
    | (show List.length _ = List.length _; simp [lmod]; done)

theorem poisonSector_good {x source : Nat} {s : State} (h : Good fz t0 ws Q s) :
    Good fz t0 ws Q (poisonSector x source s) := by
  unfold poisonSector
  try dsimp only
  repeat' first
    | with_reducible assumption
    | intro _
    | with_reducible apply countDram_good
    | with_reducible apply raiseAlert_good
    | with_reducible apply postDram_good
    | with_reducible apply State_modDram_good
    | with_reducible rfl

theorem repeatPoison_good {x source : Nat} {s : State} (h : Good fz t0 ws Q s) :
    Good fz t0 ws Q (repeatPoison x source s) := by
  unfold repeatPoison
  try dsimp only
  repeat' first
    | with_reducible assumption
    | intro _
    | with_reducible apply countDram_good
    | with_reducible apply postDram_good
    | with_reducible apply State_modDram_good
    | with_reducible apply Good.ite
    | with_reducible rfl

theorem readSector_good {x : Nat} {found : SectorCheck} {source : Nat} {scrub : Bool} {s : State} (h : Good fz t0 ws Q
    s) :
    Good fz t0 ws Q (readSector x found source scrub s).1 := by
  unfold readSector
  try dsimp only
  repeat' first
    | with_reducible assumption
    | with_reducible apply repeatPoison_good
    | with_reducible apply countDram_good
    | with_reducible apply poisonSector_good
    | with_reducible apply countCorrection_good
    | split

theorem readSectors_good {p : Part} {a : Instant} {w : List Instr} {Q : List Contract → List Effect → Prop} {src : Nat} : ∀ {n x : Nat} {fs : List SectorCheck} {s : State}, Good p a w Q s → Good p a w Q (readSectors x src n fs s).1
  | 0, _, _, _, h => h
  | n + 1, _, _, _, h => by
    simp only [readSectors]
    exact readSectors_good (readSector_good h)

theorem writeSector_good {x : Nat} {d : List Byte} {s : State} (h : Good fz t0 ws Q s) :
    Good fz t0 ws Q (writeSector x d s) := by
  unfold writeSector
  try dsimp only
  repeat' first
    | with_reducible assumption
    | intro _
    | with_reducible apply countDram_good
    | with_reducible apply postDram_good
    | with_reducible apply State_modDram_good
    | with_reducible apply Good.ite
    | with_reducible apply Mem.write_wf
    | with_reducible rfl

theorem writeSectors_good {p : Part} {a : Instant} {w : List Instr} {Q : List Contract → List Effect → Prop} : ∀ {n x : Nat} {d : List Byte} {s : State}, Good p a w Q s → Good p a w Q (writeSectors x d n s)
  | 0, _, _, _, h => h
  | n + 1, _, _, _, h => by
    simp only [writeSectors]
    exact writeSectors_good (writeSector_good h)

theorem writeDram_good {x : Nat} {d : List Byte} {s : State} (h : Good fz t0 ws Q s) :
    Good fz t0 ws Q (writeDram x d s) := by
  unfold writeDram
  repeat' first
    | with_reducible assumption
    | with_reducible apply writeSectors_good

theorem partialWrite_good {x : Nat} {d : List Byte} {found : SectorCheck} {s : State} (h : Good fz t0 ws Q s) :
    Good fz t0 ws Q (partialWrite x d found s).1 := by
  unfold partialWrite
  try dsimp only
  repeat' first
    | with_reducible assumption
    | intro _
    | with_reducible apply countDram_good
    | with_reducible apply poisonSector_good
    | with_reducible apply countCorrection_good
    | with_reducible apply postDram_good
    | with_reducible apply State_modDram_good
    | with_reducible apply Mem.write_wf
    | with_reducible rfl
    | split

theorem undefineDram_good {x n : Nat} {s : State} (h : Good fz t0 ws Q s) :
    Good fz t0 ws Q (undefineDram x n s) := by
  unfold undefineDram
  repeat' first
    | with_reducible assumption
    | intro _
    | with_reducible apply drawn_good
    | with_reducible apply State_modDram_good
    | with_reducible apply Mem.undefine_wf
    | with_reducible rfl

end Sys2Proof.Machine
end

