-- ==== Sys2Proof/Laws/KeepDrover.lean ====
section
/-!
SUPPORT. Every operation keeps a good state good: Halter units, links, results, the Drover and the host window.
-/
namespace Sys2Proof.Machine

set_option maxRecDepth 2000
set_option linter.unusedSimpArgs false
set_option linter.unusedTactic false
set_option linter.unreachableTactic false

variable {fz : Part} {t0 : Instant} {ws : List Instr} {Q : List Contract → List Effect → Prop}

/-! ### HalterOps -/

theorem postHalter_good {x0 cause : Nat} {fields : List (Nat × Nat)} {s : State} (h : Good fz t0 ws Q s) :
    Good fz t0 ws Q (postHalter x0 cause fields s) := by
  unfold postHalter
  repeat' first
    | with_reducible assumption
    | with_reducible apply postTo_good

theorem modHalter_counts (s : State) (u : Nat) (f : Halter → Halter) : (s.modHalter u f).counts = s.counts := by
  simp [State.counts, State.modHalter, lmod]

theorem drivePins_parts (u : Nat) (x y z : Bool) (s : State) :
    (drivePins u x y z s).halters = s.halters.modify u (fun h => { h with pinA := x, pinB := y, pinSlow := z }) ∧
    (drivePins u x y z s).part = s.part ∧ (drivePins u x y z s).loft.mem = s.loft.mem ∧
    (drivePins u x y z s).dram.mem = s.dram.mem ∧ (drivePins u x y z s).contracts = s.contracts ∧
    (drivePins u x y z s).deferred = s.deferred ∧ (drivePins u x y z s).now = s.now ∧
    (drivePins u x y z s).pins = s.pins ∧ (drivePins u x y z s).pending = s.pending ∧
    (drivePins u x y z s).counts = s.counts := by
  unfold drivePins
  dsimp only
  split <;> split <;> split <;> exact ⟨rfl, rfl, rfl, rfl, rfl, rfl, rfl, rfl, rfl, modHalter_counts s u _⟩

theorem modify_modify {α : Type} (l : List α) (u : Nat) (f g : α → α) :
    (l.modify u f).modify u g = l.modify u fun x => g (f x) := by
  apply List.ext_getElem?
  intro i
  simp only [List.getElem?_modify]
  by_cases h : u = i
  · cases l[i]? <;> simp [h]
  · cases l[i]? <;> simp [h]

theorem modHalter_modHalter (s : State) (u : Nat) (f g : Halter → Halter) :
    (s.modHalter u f).modHalter u g = s.modHalter u fun h => g (f h) := by
  simp only [State.modHalter, lmod, modify_modify]

/-- The halter of a unit that exists. -/
theorem halter_at {s : State} {u : Nat} (hu : u < s.halters.length) : s.halter u = s.halters[u] := by
  simp [State.halter, List.getD_eq_getElem?_getD, List.getElem?_eq_getElem hu]

/-- A unit changes and its pins are driven as its state then asks. -/
theorem drivePins_after {p : Part} {a : Instant} {w : List Instr} {Q : List Contract → List Effect → Prop} {u : Nat} {x y z : Bool} {f : Halter → Halter} {s : State}
    (h : Good p a w Q s)
    (hg : ∀ hu : u < s.halters.length, (s.halters[u]).pinsOk s.pins.thermtrip = true →
      ({ f s.halters[u] with pinA := x, pinB := y, pinSlow := z } : Halter).pinsOk s.pins.thermtrip = true) :
    Good p a w Q (drivePins u x y z (s.modHalter u f)) := by
  obtain ⟨h3, h0, h1, h2, h4, h5, h6, h7, h8, h9⟩ := drivePins_parts u x y z (s.modHalter u f)
  exact h.atHalter (h3.trans (modify_modify _ _ _ _)) hg h0 h1 h2 h4 h5 h6 (congrArg _ h7) h8
    (h9.trans (modHalter_counts s u f))

/-- The pins of a unit are driven, and the unit changes. -/
theorem drivePins_before {p : Part} {a : Instant} {w : List Instr} {Q : List Contract → List Effect → Prop} {u : Nat} {x y z : Bool} {f : Halter → Halter} {s : State}
    (h : Good p a w Q s)
    (hg : ∀ hu : u < s.halters.length, (s.halters[u]).pinsOk s.pins.thermtrip = true →
      (f { s.halters[u] with pinA := x, pinB := y, pinSlow := z }).pinsOk s.pins.thermtrip = true) :
    Good p a w Q ((drivePins u x y z s).modHalter u f) := by
  obtain ⟨h3, h0, h1, h2, h4, h5, h6, h7, h8, h9⟩ := drivePins_parts u x y z s
  exact h.atHalter ((congrArg (fun l => List.modify l u f) h3).trans (modify_modify _ _ _ _)) hg h0 h1 h2 h4 h5 h6
    (congrArg _ h7) h8 ((modHalter_counts _ u f).trans h9)

theorem setHalterState_good {p : Part} {a : Instant} {w : List Instr} {Q : List Contract → List Effect → Prop} {u : Nat} {st : HalterState} {s : State} (h : Good p a w Q s) :
    Good p a w Q (setHalterState u st s) := by
  unfold setHalterState
  dsimp only
  split
  · rename_i hd
    refine drivePins_after h fun hu ho => ?_
    simp [Halter.pinsOk, hd]
  · split
    · rename_i hd hx
      rw [modHalter_modHalter]
      refine drivePins_after h fun hu ho => ?_
      simp [Halter.pinsOk, hd]
    · rename_i hd hx
      refine drivePins_after h fun hu ho => ?_
      rw [halter_at hu] at hx ⊢
      simp [Halter.pinsOk, hx] at ho
      simp [Halter.pinsOk, hd]
      rcases ho with ho | ho
      · exact .inl ho
      · exact .inr ho.1

theorem enterStop_good {x0 : Nat} {reason : StopReason} {volume : Option Nat} {s : State} (h : Good fz t0 ws Q s) :
    Good fz t0 ws Q (enterStop x0 reason volume s) := by
  unfold enterStop
  try dsimp only
  repeat' first
    | with_reducible assumption
    | intro _
    | with_reducible apply State_modHalter_good
    | with_reducible apply setHalterState_good
    | with_reducible apply postHalter_good
    | with_reducible apply Good.ite
    | (show Halter.pinsOk _ _ = true; assumption)

theorem slowEntered_good {x0 v : Nat} {s : State} (h : Good fz t0 ws Q s) :
    Good fz t0 ws Q (slowEntered x0 v s) := by
  unfold slowEntered
  try dsimp only
  repeat' first
    | with_reducible assumption
    | intro _
    | with_reducible apply State_modHalter_good
    | with_reducible apply postHalter_good
    | (show Halter.pinsOk _ _ = true; assumption)

theorem leaveStop_good {x0 : Nat} {byAck : Bool} {s : State} (h : Good fz t0 ws Q s) :
    Good fz t0 ws Q (leaveStop x0 byAck s) := by
  unfold leaveStop
  try dsimp only
  repeat' first
    | with_reducible assumption
    | intro _
    | with_reducible apply State_modHalter_good
    | with_reducible apply slowEntered_good
    | with_reducible apply setHalterState_good
    | with_reducible apply postHalter_good
    | with_reducible apply Good.ite
    | (show Halter.pinsOk _ _ = true; assumption)

theorem disableHalter_good {x0 : Nat} {leaseLost : Bool} {s : State} (h : Good fz t0 ws Q s) :
    Good fz t0 ws Q (disableHalter x0 leaseLost s) := by
  unfold disableHalter
  repeat' first
    | with_reducible assumption
    | intro _
    | with_reducible apply State_modHalter_good
    | with_reducible apply setHalterState_good
    | with_reducible apply postHalter_good
    | with_reducible apply Good.ite
    | (show Halter.pinsOk _ _ = true; assumption)

theorem countVolume_good {x0 pair tx ty edge : Nat} {disp : List (BitVec 16)} {conf : List Byte} {k : Nat} {s : State}
    (h : Good fz t0 ws Q s) :
    Good fz t0 ws Q (countVolume x0 pair tx ty edge disp conf k s) := by
  unfold countVolume
  try dsimp only
  repeat' first
    | with_reducible assumption
    | intro _
    | with_reducible apply State_modHalter_good
    | with_reducible apply Good.ite
    | (show Halter.pinsOk _ _ = true; assumption)
    | split

theorem actTrigger_good {x0 : Nat} {wasStop : Bool} {k : Nat} {s : State} (h : Good fz t0 ws Q s) :
    Good fz t0 ws Q (actTrigger x0 wasStop k s) := by
  unfold actTrigger
  try dsimp only
  repeat' first
    | with_reducible assumption
    | intro _
    | with_reducible apply State_modHalter_good
    | with_reducible apply slowEntered_good
    | with_reducible apply setHalterState_good
    | with_reducible apply enterStop_good
    | with_reducible apply Good.ite
    | (show Halter.pinsOk _ _ = true; assumption)

theorem frameComplete_good {x0 : Nat} {s : State} (h : Good fz t0 ws Q s) :
    Good fz t0 ws Q (frameComplete x0 s) := by
  unfold frameComplete
  try dsimp only
  repeat' first
    | with_reducible assumption
    | intro _
    | with_reducible apply leaveStop_good
    | with_reducible apply State_modHalter_good
    | with_reducible apply setHalterState_good
    | with_reducible apply postHalter_good
    | with_reducible apply Good.ite
    | (show Halter.pinsOk _ _ = true; assumption)

theorem timeTile_good {x0 : Nat} {s : State} (h : Good fz t0 ws Q s) :
    Good fz t0 ws Q (timeTile x0 s) := by
  unfold timeTile
  try dsimp only
  repeat' first
    | with_reducible assumption
    | intro _
    | with_reducible apply State_modHalter_good
    | with_reducible apply drawn_good
    | (show Halter.pinsOk _ _ = true; assumption)

theorem takeTile_good {x0 pair tx ty edge : Nat} {last breaks : Bool} {disp : List (BitVec 16)} {conf : List Byte} {s
    : State} (h : Good fz t0 ws Q s) :
    Good fz t0 ws Q (takeTile x0 pair tx ty edge last breaks disp conf s) := by
  unfold takeTile
  try dsimp only
  repeat' first
    | with_reducible assumption
    | intro _
    | with_reducible apply countVolume_good
    | with_reducible apply actTrigger_good
    | with_reducible apply State_modHalter_good
    | with_reducible apply timeTile_good
    | with_reducible apply frameComplete_good
    | with_reducible apply enterStop_good
    | with_reducible apply Good.ite
    | with_reducible apply Good.foldl
    | (show Halter.pinsOk _ _ = true; assumption)

theorem halterCut_good {graph node : Nat} {s : State} (h : Good fz t0 ws Q s) :
    Good fz t0 ws Q (halterCut graph node s) := by
  unfold halterCut
  try dsimp only
  repeat' first
    | with_reducible assumption
    | intro _
    | with_reducible apply State_modHalter_good
    | with_reducible apply enterStop_good
    | with_reducible apply Good.ite
    | with_reducible apply Good.foldl
    | (show Halter.pinsOk _ _ = true; assumption)

theorem halterOpening_good {x0 : Nat} {upset : Bool} {s : State} (h : Good fz t0 ws Q s) :
    Good fz t0 ws Q (halterOpening x0 upset s) := by
  unfold halterOpening
  try dsimp only
  repeat' first
    | with_reducible assumption
    | intro _
    | with_reducible apply State_modHalter_good
    | with_reducible apply enterStop_good
    | with_reducible apply disableHalter_good
    | with_reducible apply Good.ite
    | (show Halter.pinsOk _ _ = true; assumption)

/-! ### LinkOps -/

theorem linkSend_good {port : Nat} {p : Packet} {s : State} (h : Good fz t0 ws Q s) :
    Good fz t0 ws Q (linkSend port p s) := by
  unfold linkSend
  try dsimp only
  repeat' first
    | with_reducible assumption
    | with_reducible apply State_modLink_good
    | with_reducible apply emit_good

theorem sendCtl_good {port : Nat} {nak flush : Bool} {s : State} (h : Good fz t0 ws Q s) :
    Good fz t0 ws Q (sendCtl port nak flush s) := by
  unfold sendCtl
  try dsimp only
  repeat' first
    | with_reducible assumption
    | with_reducible apply State_modLink_good
    | with_reducible apply emit_good

theorem sendTicks_good {s : State} (h : Good fz t0 ws Q s) :
    Good fz t0 ws Q (sendTicks s) := by
  unfold sendTicks
  repeat' first
    | with_reducible assumption
    | intro _
    | with_reducible apply emit_good
    | with_reducible apply Good.ite
    | with_reducible apply Good.foldl

theorem lostPacket_good {p : Packet} {hopLimit : Bool} {s : State} (h : Good fz t0 ws Q s) :
    Good fz t0 ws Q (lostPacket p hopLimit s) := by
  unfold lostPacket
  try dsimp only
  repeat' first
    | with_reducible assumption
    | intro _
    | with_reducible apply State_modFabric_good
    | with_reducible apply postAll_good
    | with_reducible apply chipOf_good
    | (with_reducible refine Good.parts ?_ rfl rfl rfl rfl rfl rfl rfl rfl rfl rfl; with_reducible assumption)

theorem passAbort_good {port : Nat} {p : Packet} {via : Option (Nat × Packet)} {s : State} (h : Good fz t0 ws Q s) :
    Good fz t0 ws Q (passAbort port p via s) := by
  unfold passAbort
  try dsimp only
  repeat' first
    | with_reducible assumption
    | intro _
    | with_reducible apply State_modLink_good
    | with_reducible apply linkSend_good
    | with_reducible apply linkSend_good
    | with_reducible apply crossed_good
    | with_reducible apply lostPacket_good
    | with_reducible apply Good.ite
    | split
    | (with_reducible refine Good.parts ?_ rfl rfl rfl rfl rfl rfl rfl rfl rfl rfl; with_reducible assumption)

theorem floodAbort_good {key slot reason origin : Nat} {stc : BitVec 32} {via : Option (Nat × Packet)} {s : State} (h : Good fz t0 ws Q s) :
    Good fz t0 ws Q (floodAbort key slot reason origin stc via s).1 := by
  unfold floodAbort
  try dsimp only
  repeat' first
    | with_reducible assumption
    | intro _
    | with_reducible apply State_modLink_good
    | with_reducible apply passAbort_good
    | with_reducible apply Good.ite
    | with_reducible apply Good.foldl
    | split
    | (with_reducible refine Good.parts ?_ rfl rfl rfl rfl rfl rfl rfl rfl rfl rfl; with_reducible assumption)

/-! ### ResultOps -/

theorem State_modResultRing_good {s : State} {tenant m : Nat} {f : ResultRing → ResultRing} (h : Good fz t0 ws Q s) :
    Good fz t0 ws Q (State.modResultRing s tenant m f) := by
  unfold State.modResultRing
  repeat' first
    | with_reducible assumption
    | with_reducible apply State_modEgress_good

theorem queueResult_good {tenant m : Nat} {r : Result} {s : State} (h : Good fz t0 ws Q s) :
    Good fz t0 ws Q (queueResult tenant m r s) := by
  unfold queueResult
  repeat' first
    | with_reducible assumption
    | with_reducible apply State_modResultRing_good

theorem signalResult_good {tenant m : Nat} {s : State} (h : Good fz t0 ws Q s) :
    Good fz t0 ws Q (signalResult tenant m s) := by
  unfold signalResult
  try dsimp only
  repeat' first
    | with_reducible assumption
    | with_reducible apply setCause_good
    | with_reducible apply sendVector_good
    | with_reducible apply State_modResultRing_good
    | with_reducible apply Good.ite
    | split

theorem sendItem_good {i : EndpointItem} {s : State} (h : Good fz t0 ws Q s) :
    Good fz t0 ws Q (sendItem i s) := by
  unfold sendItem
  try dsimp only
  repeat' first
    | with_reducible assumption
    | intro _
    | with_reducible apply emitWrite_good
    | with_reducible apply signalResult_good
    | split
    | (with_reducible refine Good.parts ?_ rfl rfl rfl rfl rfl rfl rfl rfl rfl rfl; with_reducible assumption)

theorem sendQueued_good {credits : Bool} {s : State} (h : Good fz t0 ws Q s) :
    Good fz t0 ws Q (sendQueued credits s) := by
  unfold sendQueued
  try dsimp only
  repeat' first
    | with_reducible assumption
    | intro _
    | with_reducible apply sendItem_good
    | with_reducible apply State_modEgress_good
    | with_reducible apply Good.ite
    | with_reducible apply Good.foldl

theorem queueDescriptor_good {tenant m : Nat} {s : State} (h : Good fz t0 ws Q s) :
    Good fz t0 ws Q (queueDescriptor tenant m s) := by
  unfold queueDescriptor
  try dsimp only
  repeat' first
    | with_reducible assumption
    | with_reducible apply State_modEgress_good
    | with_reducible apply State_modResultRing_good
    | split

/-! ### DroverOps -/

theorem State_modRun_good {s : State} {g n : Nat} {f : NodeRun → NodeRun} (h : Good fz t0 ws Q s) :
    Good fz t0 ws Q (State.modRun s g n f) := by
  unfold State.modRun
  repeat' first
    | with_reducible assumption
    | with_reducible apply State_modInst_good

theorem postGraph_good {g cause : Nat} {mode : ArmMode} {node value : Nat} {s : State} (h : Good fz t0 ws Q s) :
    Good fz t0 ws Q (postGraph g cause mode node value s) := by
  unfold postGraph
  repeat' first
    | with_reducible assumption
    | with_reducible apply postTenant_good

theorem postInst_good {g cause node value : Nat} {s : State} (h : Good fz t0 ws Q s) :
    Good fz t0 ws Q (postInst g cause node value s) := by
  unfold postInst
  repeat' first
    | with_reducible assumption
    | with_reducible apply postGraph_good
    | split

theorem traceNode_good {code g node arg : Nat} {s : State} (h : Good fz t0 ws Q s) :
    Good fz t0 ws Q (traceNode code g node arg s) := by
  unfold traceNode
  repeat' first
    | with_reducible assumption
    | with_reducible apply tallyDrover_good

theorem countWin_good {f : WindowCounts → WindowCounts} {s : State} (h : Good fz t0 ws Q s) :
    Good fz t0 ws Q (countWin f s) := by
  unfold countWin
  repeat' first
    | with_reducible assumption
    | with_reducible apply State_modTick_good

theorem State_modFaults_good {s : State} {n : Nat} {f : FaultCounts → FaultCounts} (h : Good fz t0 ws Q s) :
    Good fz t0 ws Q (State.modFaults s n f) := by
  unfold State.modFaults
  repeat' first
    | with_reducible assumption
    | with_reducible apply State_modDrover_good
    | with_reducible rfl
    | (show List.length _ = List.length _; simp [lmod]; done)

theorem skipRest_good {g : Nat} {s : State} (h : Good fz t0 ws Q s) :
    Good fz t0 ws Q (skipRest g s) := by
  unfold skipRest
  try dsimp only
  repeat' first
    | with_reducible assumption
    | with_reducible apply State_modInst_good
    | with_reducible apply traceNode_good
    | with_reducible apply countWin_good
    | split

theorem undefineRange_good {s : State} {r : Nat × Nat} (h : Good fz t0 ws Q s) :
    Good fz t0 ws Q (undefineRange s r) := by
  unfold undefineRange
  repeat' first
    | with_reducible assumption
    | with_reducible apply undefineDram_good
    | with_reducible apply undefineRows_good
    | with_reducible apply Good.ite

theorem undefineOutputs_good {g i : Nat} {s : State} (h : Good fz t0 ws Q s) :
    Good fz t0 ws Q (undefineOutputs g i s) := by
  unfold undefineOutputs
  repeat' first
    | with_reducible assumption
    | intro _
    | with_reducible apply undefineRange_good
    | with_reducible apply Good.foldl
    | split

theorem dropRequests_good {g i : Nat} {s : State} (h : Good fz t0 ws Q s) :
    Good fz t0 ws Q (dropRequests g i s) := by
  unfold dropRequests
  try dsimp only
  repeat' first
    | with_reducible assumption
    | intro _
    | with_reducible apply tallyAccess_good
    | with_reducible apply State_modFabric_good
    | with_reducible apply Good.foldl
    | split

theorem recordFault_good {g i : Nat} {marks : List Mark} {out : FaultOutcome} {replays : Nat} {s : State} (h : Good fz
    t0 ws Q s) :
    Good fz t0 ws Q (recordFault g i marks out replays s) := by
  unfold recordFault
  try dsimp only
  repeat' first
    | with_reducible assumption
    | with_reducible apply State_modFaults_good
    | with_reducible apply traceNode_good
    | split

theorem cutNode_good {g i : Nat} {ph : NodePhase} {s : State} (h : Good fz t0 ws Q s) :
    Good fz t0 ws Q (cutNode g i ph s) := by
  unfold cutNode
  repeat' first
    | with_reducible assumption
    | with_reducible apply State_modRun_good
    | with_reducible apply halterCut_good
    | with_reducible apply dropRequests_good
    | with_reducible apply undefineOutputs_good

theorem stopOne_good {g i why : Nat} {s : State} (h : Good fz t0 ws Q s) :
    Good fz t0 ws Q (stopOne g i why s) := by
  unfold stopOne
  try dsimp only
  repeat' first
    | with_reducible assumption
    | with_reducible apply State_modInst_good
    | with_reducible apply traceNode_good
    | with_reducible apply countWin_good
    | with_reducible apply cutNode_good
    | with_reducible apply recordFault_good
    | split

theorem stopNode_good {g i why : Nat} {s : State} (h : Good fz t0 ws Q s) :
    Good fz t0 ws Q (stopNode g i why s) := by
  unfold stopNode
  try dsimp only
  repeat' first
    | with_reducible assumption
    | with_reducible apply stopOne_good
    | with_reducible apply Good.ite

theorem stopAll_good {g why : Nat} {s : State} (h : Good fz t0 ws Q s) :
    Good fz t0 ws Q (stopAll g why s) := by
  unfold stopAll
  repeat' first
    | with_reducible assumption
    | intro _
    | with_reducible apply stopNode_good
    | with_reducible apply Good.foldl
    | split

theorem instEnd_good {g : Nat} {s : State} (h : Good fz t0 ws Q s) :
    Good fz t0 ws Q (instEnd g s) := by
  unfold instEnd
  try dsimp only
  repeat' first
    | with_reducible assumption
    | with_reducible apply State_modFaults_good
    | with_reducible apply State_modGraph_good
    | with_reducible apply postGraph_good
    | with_reducible apply traceNode_good
    | with_reducible apply State_modDrover_good
    | with_reducible apply countWin_good
    | with_reducible apply queueResult_good
    | with_reducible apply Good.ite
    | with_reducible rfl
    | split

theorem sweepInsts_good {s : State} (h : Good fz t0 ws Q s) :
    Good fz t0 ws Q (sweepInsts s) := by
  unfold sweepInsts
  repeat' first
    | with_reducible assumption
    | intro _
    | with_reducible apply instEnd_good
    | with_reducible apply Good.foldl

theorem tetherAdd_good {n v : Nat} {s : State} (h : Good fz t0 ws Q s) :
    Good fz t0 ws Q (tetherAdd n v s) := by
  unfold tetherAdd
  repeat' first
    | with_reducible assumption
    | with_reducible apply State_modTether_good

theorem tetherTarget_good {n v : Nat} {s : State} (h : Good fz t0 ws Q s) :
    Good fz t0 ws Q (tetherTarget n v s) := by
  unfold tetherTarget
  repeat' first
    | with_reducible assumption
    | with_reducible apply State_modTether_good

theorem activate_good {g : Nat} {spec : ArmSpec} {s : State} (h : Good fz t0 ws Q s) :
    Good fz t0 ws Q (activate g spec s) := by
  unfold activate
  try dsimp only
  repeat' first
    | with_reducible assumption
    | with_reducible apply traceNode_good
    | with_reducible apply State_modDrover_good
    | with_reducible apply skipRest_good
    | with_reducible apply instEnd_good
    | with_reducible apply Good.ite
    | with_reducible rfl
    | split

theorem trigger_good {g : Nat} {spec : ArmSpec} {s : State} (h : Good fz t0 ws Q s) :
    Good fz t0 ws Q (trigger g spec s) := by
  unfold trigger
  repeat' first
    | with_reducible assumption
    | with_reducible apply State_modGraph_good
    | with_reducible apply activate_good
    | with_reducible apply Good.ite
    | split

theorem tetherTriggers_good {n : Nat} {s : State} (h : Good fz t0 ws Q s) :
    Good fz t0 ws Q (tetherTriggers n s) := by
  unfold tetherTriggers
  try dsimp only
  repeat' first
    | with_reducible assumption
    | intro _
    | with_reducible apply State_modTether_good
    | with_reducible apply trigger_good
    | with_reducible apply Good.ite
    | with_reducible apply Good.foldl
    | split
    | (with_reducible refine Good.parts ?_ rfl rfl rfl rfl rfl rfl rfl rfl rfl rfl; with_reducible assumption)

theorem endCore_good {g i : Nat} {s : State} (h : Good fz t0 ws Q s) :
    Good fz t0 ws Q (endCore g i s).1 := by
  unfold endCore
  try dsimp only
  repeat' first
    | with_reducible assumption
    | with_reducible apply State_modFaults_good
    | with_reducible apply State_modInst_good
    | with_reducible apply traceNode_good
    | with_reducible apply State_modRun_good
    | with_reducible apply halterCut_good
    | with_reducible apply tetherAdd_good
    | with_reducible apply Good.ite
    | split

theorem resolve_good {p : Part} {a : Instant} {w : List Instr} {Q : List Contract → List Effect → Prop} :
    ∀ {n : Nat} {l : List Nat} {s : State}, Good p a w Q s → Good p a w Q (resolve n l s)
  | 0, _, _, h => h
  | n + 1, l, s, h => by
    unfold resolve
    split
    · exact resolve_good (endCore_good h)
    · exact Good.foldl (fun _ _ => tetherTriggers_good) h

theorem settleTethers_good {touched : List Nat} {s : State} (h : Good fz t0 ws Q s) :
    Good fz t0 ws Q (settleTethers touched s) := by
  unfold settleTethers
  repeat' first
    | with_reducible assumption
    | with_reducible apply resolve_good
    | with_reducible apply sweepInsts_good

theorem endNode_good {g i : Nat} {s : State} (h : Good fz t0 ws Q s) :
    Good fz t0 ws Q (endNode g i s) := by
  unfold endNode
  try dsimp only
  repeat' first
    | with_reducible assumption
    | with_reducible apply settleTethers_good
    | with_reducible apply endCore_good

theorem postAborted_good {g reason origin : Nat} {received : Bool} {stc : BitVec 32} {s : State} (h : Good fz t0 ws Q
    s) :
    Good fz t0 ws Q (postAborted g reason origin received stc s) := by
  unfold postAborted
  repeat' first
    | with_reducible assumption
    | with_reducible apply postTenant_good

theorem sendAbort_good {g reason : Nat} {stc : BitVec 32} {s : State} (h : Good fz t0 ws Q s) :
    Good fz t0 ws Q (sendAbort g reason stc s) := by
  unfold sendAbort
  try dsimp only
  repeat' first
    | with_reducible assumption
    | intro _
    | with_reducible apply floodAbort_good
    | with_reducible apply State_modFaults_good
    | with_reducible apply postAborted_good
    | with_reducible apply Good.ite
    | split
    | (with_reducible refine Good.parts ?_ rfl rfl rfl rfl rfl rfl rfl rfl rfl rfl; with_reducible assumption)

theorem spoilGates_good {g : Nat} {s : State} (h : Good fz t0 ws Q s) :
    Good fz t0 ws Q (spoilGates g s) := by
  unfold spoilGates
  try dsimp only
  repeat' first
    | with_reducible assumption
    | intro _
    | with_reducible apply spoilGateRows_good
    | with_reducible apply Good.ite
    | split
    | (with_reducible refine Good.parts ?_ rfl rfl rfl rfl rfl rfl rfl rfl rfl rfl; with_reducible assumption)

theorem abortInst_good {g : Nat} {s : State} (h : Good fz t0 ws Q s) :
    Good fz t0 ws Q (abortInst g s) := by
  unfold abortInst
  try dsimp only
  repeat' first
    | with_reducible assumption
    | intro _
    | with_reducible apply State_modInst_good
    | with_reducible apply skipRest_good
    | with_reducible apply stopAll_good
    | with_reducible apply instEnd_good
    | with_reducible apply spoilGates_good
    | (with_reducible refine Good.parts ?_ rfl rfl rfl rfl rfl rfl rfl rfl rfl rfl; with_reducible assumption)
    | with_reducible rfl
    | (show List.length _ = List.length _; simp [lmod]; done)

theorem unrecovered_good {g i : Nat} {s : State} (h : Good fz t0 ws Q s) :
    Good fz t0 ws Q (unrecovered g i s) := by
  unfold unrecovered
  try dsimp only
  repeat' first
    | with_reducible assumption
    | with_reducible apply stopOne_good
    | with_reducible apply State_modInst_good
    | with_reducible apply traceNode_good
    | with_reducible apply sendAbort_good
    | with_reducible apply countWin_good
    | with_reducible apply State_modRun_good
    | with_reducible apply skipRest_good
    | with_reducible apply Good.ite
    | split

theorem startReplay_good {g set : Nat} {s : State} (h : Good fz t0 ws Q s) :
    Good fz t0 ws Q (startReplay g set s) := by
  unfold startReplay
  try dsimp only
  repeat' first
    | with_reducible assumption
    | intro _
    | with_reducible apply State_modFaults_good
    | with_reducible apply State_modInst_good
    | with_reducible apply traceNode_good
    | with_reducible apply cutNode_good
    | with_reducible apply State_modRun_good
    | with_reducible apply skipRest_good
    | with_reducible apply Good.ite
    | with_reducible apply Good.foldl
    | split

theorem takeFault_good {g i : Nat} {marks : List Mark} {s : State} (h : Good fz t0 ws Q s) :
    Good fz t0 ws Q (takeFault g i marks s) := by
  unfold takeFault
  try dsimp only
  repeat' first
    | with_reducible assumption
    | with_reducible apply startReplay_good
    | with_reducible apply unrecovered_good
    | with_reducible apply recordFault_good
    | split

theorem markNode_good {g i cause detail : Nat} {row : Option Nat} {s : State} (h : Good fz t0 ws Q s) :
    Good fz t0 ws Q (markNode g i cause detail row s) := by
  unfold markNode
  repeat' first
    | with_reducible assumption
    | with_reducible apply State_modRun_good
    | with_reducible apply Good.ite

theorem immediateFault_good {g i cause detail : Nat} {s : State} (h : Good fz t0 ws Q s) :
    Good fz t0 ws Q (immediateFault g i cause detail s) := by
  unfold immediateFault
  try dsimp only
  repeat' first
    | with_reducible assumption
    | with_reducible apply takeFault_good
    | with_reducible apply settleTethers_good
    | with_reducible apply cutNode_good
    | with_reducible apply Good.ite
    | split

theorem nodeDone_good {g i : Nat} {s : State} (h : Good fz t0 ws Q s) :
    Good fz t0 ws Q (nodeDone g i s) := by
  unfold nodeDone
  try dsimp only
  repeat' first
    | with_reducible assumption
    | with_reducible apply takeFault_good
    | with_reducible apply settleTethers_good
    | with_reducible apply endNode_good
    | with_reducible apply cutNode_good
    | with_reducible apply Good.ite
    | split

theorem start_good {g : Nat} {gr : Graph} {i : Nat} {s : State} (h : Good fz t0 ws Q s) :
    Good fz t0 ws Q (start g gr i s) := by
  unfold start
  try dsimp only
  repeat' first
    | with_reducible assumption
    | with_reducible apply traceNode_good
    | with_reducible apply countWin_good
    | with_reducible apply State_modRun_good

theorem endLaneInput_good {g i : Nat} {st : Status} {s : State} (h : Good fz t0 ws Q s) :
    Good fz t0 ws Q (endLaneInput g i st s) := by
  unfold endLaneInput
  try dsimp only
  repeat' first
    | with_reducible assumption
    | with_reducible apply settleTethers_good
    | with_reducible apply endCore_good
    | with_reducible apply State_modRun_good
    | with_reducible apply skipRest_good
    | with_reducible apply Good.ite
    | split

theorem startLaneInput_good {g i : Nat} {s : State} (h : Good fz t0 ws Q s) :
    Good fz t0 ws Q (startLaneInput g i s) := by
  unfold startLaneInput
  try dsimp only
  repeat' first
    | with_reducible assumption
    | with_reducible apply endLaneInput_good
    | with_reducible apply State_modLane_good
    | with_reducible apply Good.ite
    | split

theorem startResultOut_good {g i : Nat} {s : State} (h : Good fz t0 ws Q s) :
    Good fz t0 ws Q (startResultOut g i s) := by
  unfold startResultOut
  try dsimp only
  repeat' first
    | with_reducible assumption
    | with_reducible apply State_modInst_good
    | with_reducible apply State_modEgress_good
    | with_reducible apply endNode_good
    | with_reducible apply State_modRun_good
    | with_reducible apply Good.ite
    | split

theorem startKind_good {g : Nat} {gr : Graph} {i : Nat} {s : State} (h : Good fz t0 ws Q s) :
    Good fz t0 ws Q (startKind g gr i s) := by
  unfold startKind
  try dsimp only
  repeat' first
    | with_reducible assumption
    | with_reducible apply settleTethers_good
    | with_reducible apply endCore_good
    | with_reducible apply endNode_good
    | with_reducible apply startResultOut_good
    | with_reducible apply startLaneInput_good
    | with_reducible apply tetherTarget_good
    | with_reducible apply tetherAdd_good
    | with_reducible apply Good.ite
    | split

theorem dispatch_good {g i : Nat} {s : State} (h : Good fz t0 ws Q s) :
    Good fz t0 ws Q (dispatch g i s) := by
  unfold dispatch
  try dsimp only
  repeat' first
    | with_reducible assumption
    | intro _
    | with_reducible apply start_good
    | with_reducible apply postInst_good
    | with_reducible apply traceNode_good
    | with_reducible apply startKind_good
    | with_reducible apply sweepInsts_good
    | with_reducible apply skipRest_good
    | with_reducible apply Good.foldl
    | split

theorem eachInst_good {f : Nat → State → State} {s : State} (k0 : ∀ y0 s_, Good fz t0 ws Q s_ → Good fz t0 ws Q (f y0
    s_)) (h : Good fz t0 ws Q s) :
    Good fz t0 ws Q (eachInst f s) := by
  unfold eachInst
  repeat' first
    | with_reducible assumption
    | intro _
    | with_reducible apply k0
    | with_reducible apply Good.foldl

theorem guillotineAll_good {s : State} (h : Good fz t0 ws Q s) :
    Good fz t0 ws Q (guillotineAll s) := by
  unfold guillotineAll
  try dsimp only
  repeat' first
    | with_reducible assumption
    | intro _
    | with_reducible apply skipRest_good
    | with_reducible apply stopAll_good
    | with_reducible apply instEnd_good
    | with_reducible apply spoilGates_good
    | with_reducible apply eachInst_good

theorem haltAll_good {s : State} (h : Good fz t0 ws Q s) :
    Good fz t0 ws Q (haltAll s) := by
  unfold haltAll
  try dsimp only
  repeat' first
    | with_reducible assumption
    | intro _
    | with_reducible apply State_modInst_good
    | with_reducible apply skipRest_good
    | with_reducible apply stopAll_good
    | with_reducible apply instEnd_good
    | with_reducible apply spoilGates_good
    | with_reducible apply eachInst_good
    | (with_reducible refine Good.parts ?_ rfl rfl rfl rfl rfl rfl rfl rfl rfl rfl; with_reducible assumption)
    | with_reducible rfl
    | (show List.length _ = List.length _; simp [lmod]; done)

theorem abortSystem_good {s : State} (h : Good fz t0 ws Q s) :
    Good fz t0 ws Q (abortSystem s) := by
  unfold abortSystem
  repeat' first
    | with_reducible assumption
    | intro _
    | with_reducible apply sendAbort_good
    | with_reducible apply eachInst_good
    | with_reducible apply abortInst_good
    | with_reducible apply Good.ite
    | split

theorem droverDouble_good {s : State} (h : Good fz t0 ws Q s) :
    Good fz t0 ws Q (droverDouble s) := by
  unfold droverDouble
  try dsimp only
  repeat' first
    | with_reducible assumption
    | intro _
    | with_reducible apply eachInst_good
    | with_reducible apply abortInst_good
    | with_reducible apply raiseAlert_good
    | with_reducible apply recordFault_good
    | with_reducible apply Good.foldl
    | split

theorem resetTethers_good {p : Part} {a : Instant} {w : List Instr} {Q : List Contract → List Effect → Prop} {s : State}
    (h : Good p a w Q s) : Good p a w Q (resetTethers s) := by
  unfold resetTethers
  refine State_modDrover_good h ?_ rfl
  have := h.shape.2.2.2.2.2.2.2.2.2.1
  simp [this]

/-! ### HostOps -/

theorem hostRow_good {p : Part} {a : Instant} {w : List Instr} {Q : List Contract → List Effect → Prop} {t : Instant} {f : State → State} {s : State}
    (hf : ∀ s, Good p a w Q s → Good p a w Q (f s)) (h : Good p a w Q s) : ∀ u, hostRow t f s = .next u → Good p a w Q u := by
  unfold hostRow
  refine event_good (fun s hs => ?_) h
  exact Good.ite (hf _ (hs.upd rfl rfl rfl rfl rfl rfl rfl rfl rfl fun hh => hh)) hs

theorem sendHeld_good {f : Nat} {h_ : Held} {s : State} (h : Good fz t0 ws Q s) :
    Good fz t0 ws Q (sendHeld f h_ s) := by
  unfold sendHeld
  try dsimp only
  repeat' first
    | with_reducible assumption
    | intro _
    | with_reducible apply emitWrite_good
    | with_reducible apply sendVector_good
    | with_reducible apply writeCompletion_good
    | with_reducible apply Mem.write_wf
    | split
    | (with_reducible refine Good.parts ?_ rfl rfl rfl rfl rfl rfl rfl rfl rfl rfl; with_reducible assumption)

theorem release_good {f : Nat} {s : State} (h : Good fz t0 ws Q s) :
    Good fz t0 ws Q (release f s) := by
  unfold release
  try dsimp only
  repeat' first
    | with_reducible assumption
    | intro _
    | with_reducible apply flushEvents_good
    | with_reducible apply sendHeld_good
    | with_reducible apply State_modFn_good
    | with_reducible apply Good.ite
    | with_reducible apply Good.foldl

theorem setFw_good {st : FwState} {s : State} (h : Good fz t0 ws Q s) :
    Good fz t0 ws Q (setFw st s) := by
  unfold setFw
  try dsimp only
  repeat' first
    | with_reducible assumption
    | intro _
    | with_reducible apply setCause_good
    | with_reducible apply sendVector_good
    | with_reducible apply Good.foldl
    | (with_reducible refine Good.parts ?_ rfl rfl rfl rfl rfl rfl rfl rfl rfl rfl; with_reducible assumption)

theorem failFw_good {s : State} (h : Good fz t0 ws Q s) :
    Good fz t0 ws Q (failFw s) := by
  unfold failFw
  repeat' first
    | with_reducible assumption
    | with_reducible apply raiseAlert_good
    | with_reducible apply setFw_good

theorem beginRestart_good {s : State} (h : Good fz t0 ws Q s) :
    Good fz t0 ws Q (beginRestart s) := by
  unfold beginRestart
  try dsimp only
  repeat' first
    | with_reducible apply raiseAlert_good
    | with_reducible apply setFw_good
    | (with_reducible refine Good.parts ?_ rfl rfl rfl rfl rfl rfl rfl rfl rfl rfl; with_reducible assumption)

theorem crash_good {s : State} (h : Good fz t0 ws Q s) :
    Good fz t0 ws Q (crash s) := by
  unfold crash
  try dsimp only
  repeat' first
    | with_reducible assumption
    | with_reducible apply failFw_good
    | with_reducible apply beginRestart_good
    | with_reducible apply Good.ite
    | (with_reducible refine Good.parts ?_ rfl rfl rfl rfl rfl rfl rfl rfl rfl rfl; with_reducible assumption)

theorem busyAll_good {s : State} (h : Good fz t0 ws Q s) :
    Good fz t0 ws Q (busyAll s) := by
  unfold busyAll
  try dsimp only
  repeat' first
    | with_reducible assumption
    | intro _
    | with_reducible apply finish_good
    | with_reducible apply Good.foldl
    | (with_reducible refine Good.parts ?_ rfl rfl rfl rfl rfl rfl rfl rfl rfl (by simp only [lmod, List.length_modify, List.length_map, List.length_set]); with_reducible assumption)

theorem fetch_good {f r : Nat} {s : State} (h : Good fz t0 ws Q s) :
    Good fz t0 ws Q (fetch f r s) := by
  unfold fetch
  try dsimp only
  repeat' first
    | with_reducible assumption
    | with_reducible apply emit_good
    | with_reducible apply State_modRing_good
    | (with_reducible refine Good.parts ?_ rfl rfl rfl rfl rfl rfl rfl rfl rfl rfl; with_reducible assumption)
    | split

theorem atDoorbell_good {f r : Nat} {k : Ring → State → State} {s : State} (k_k : ∀ y0 s_, Good fz t0 ws Q s_ → Good fz t0 ws Q (k y0 s_)) (h : Good fz t0 ws Q s) :
    Good fz t0 ws Q (atDoorbell f r k s) := by
  unfold atDoorbell
  try dsimp only
  repeat' first
    | with_reducible assumption
    | intro _
    | with_reducible apply k_k
    | with_reducible apply postRing_good
    | with_reducible apply Good.ite
    | split
    | (with_reducible refine Good.parts ?_ rfl rfl rfl rfl rfl rfl rfl rfl rfl rfl; with_reducible assumption)

theorem writeTail_good {f r tail : Nat} {s : State} (h : Good fz t0 ws Q s) :
    Good fz t0 ws Q (writeTail f r tail s) := by
  unfold writeTail
  try dsimp only
  repeat' first
    | with_reducible assumption
    | intro _
    | with_reducible apply State_modRing_good
    | with_reducible apply ringError_good
    | with_reducible apply atDoorbell_good
    | with_reducible apply Good.ite
    | split
    | (with_reducible refine Good.parts ?_ rfl rfl rfl rfl rfl rfl rfl rfl rfl rfl; with_reducible assumption)

theorem writeHead_good {f r head : Nat} {s : State} (h : Good fz t0 ws Q s) :
    Good fz t0 ws Q (writeHead f r head s) := by
  unfold writeHead
  try dsimp only
  repeat' first
    | with_reducible assumption
    | intro _
    | with_reducible apply State_modRing_good
    | with_reducible apply flushEvents_good
    | with_reducible apply ringError_good
    | with_reducible apply atDoorbell_good
    | with_reducible apply Good.ite
    | split
    | (with_reducible refine Good.parts ?_ rfl rfl rfl rfl rfl rfl rfl rfl rfl rfl; with_reducible assumption)

theorem partDoorbell_good {f r : Nat} {s : State} (h : Good fz t0 ws Q s) :
    Good fz t0 ws Q (partDoorbell f r s) := by
  unfold partDoorbell
  try dsimp only
  repeat' first
    | with_reducible assumption
    | intro _
    | with_reducible apply ringError_good
    | with_reducible apply atDoorbell_good

theorem writeResultHead_good {f m head : Nat} {s : State} (h : Good fz t0 ws Q s) :
    Good fz t0 ws Q (writeResultHead f m head s) := by
  unfold writeResultHead
  try dsimp only
  repeat' first
    | with_reducible assumption
    | with_reducible apply State_modResultRing_good
    | with_reducible apply Good.ite
    | split

theorem enableAdmin_good {f : Nat} {s : State} (h : Good fz t0 ws Q s) :
    Good fz t0 ws Q (enableAdmin f s) := by
  unfold enableAdmin
  try dsimp only
  repeat' first
    | with_reducible assumption
    | intro _
    | with_reducible apply State_modFn_good
    | with_reducible apply dropRing_good
    | with_reducible apply setupAdmin_good
    | with_reducible apply Good.ite
    | split
    | (with_reducible refine Good.parts ?_ rfl rfl rfl rfl rfl rfl rfl rfl rfl rfl; with_reducible assumption)

theorem disableAdmin_good {f : Nat} {s : State} (h : Good fz t0 ws Q s) :
    Good fz t0 ws Q (disableAdmin f s) := by
  unfold disableAdmin
  repeat' first
    | with_reducible assumption
    | with_reducible apply settle_good
    | with_reducible apply State_modFn_good
    | with_reducible apply State_modRing_good
    | with_reducible apply Good.ite

theorem clearAlerts_good {mask : BitVec 6} {s : State} (h : Good fz t0 ws Q s) :
    Good fz t0 ws Q (clearAlerts mask s) := by
  unfold clearAlerts
  repeat' first
    | with_reducible assumption
    | with_reducible apply setAlerts_good

theorem unmask_good {f v : Nat} {s : State} (h : Good fz t0 ws Q s) :
    Good fz t0 ws Q (unmask f v s) := by
  unfold unmask
  try dsimp only
  repeat' first
    | with_reducible assumption
    | with_reducible apply sendVector_good
    | with_reducible apply State_modFn_good
    | with_reducible apply Good.ite

theorem writeMsix_good {f off : Nat} {v : BitVec 32} {s : State} (h : Good fz t0 ws Q s) :
    Good fz t0 ws Q (writeMsix f off v s) := by
  unfold writeMsix
  try dsimp only
  repeat' first
    | with_reducible assumption
    | with_reducible apply State_modFn_good
    | with_reducible apply unmask_good
    | with_reducible apply Good.ite
    | split

theorem writeBar0_good {f off : Nat} {v : BitVec 32} {s : State} (h : Good fz t0 ws Q s) :
    Good fz t0 ws Q (writeBar0 f off v s) := by
  unfold writeBar0
  try dsimp only
  repeat' first
    | with_reducible assumption
    | with_reducible apply writeResultHead_good
    | with_reducible apply writeMsix_good
    | with_reducible apply enableAdmin_good
    | with_reducible apply writeHead_good
    | with_reducible apply disableAdmin_good
    | with_reducible apply State_modFn_good
    | with_reducible apply writeTail_good
    | with_reducible apply setAlerts_good
    | with_reducible apply clearAlerts_good
    | with_reducible apply Good.ite

theorem readWord_good {f off : Nat} {s : State} (h : Good fz t0 ws Q s) :
    Good fz t0 ws Q (readWord f off s).1 := by
  unfold readWord
  try dsimp only
  repeat' first
    | with_reducible assumption
    | intro _
    | with_reducible apply State_modFn_good
    | with_reducible apply bar0_good
    | with_reducible apply Good.ite
    | split
    | (with_reducible refine Good.parts ?_ rfl rfl rfl rfl rfl rfl rfl rfl rfl rfl; with_reducible assumption)

theorem readBar0_good {f off len : Nat} {s : State} (h : Good fz t0 ws Q s) :
    Good fz t0 ws Q (readBar0 f off len s).1 := by
  unfold readBar0
  try dsimp only
  repeat' first
    | with_reducible assumption
    | intro _
    | with_reducible apply readWord_good
    | with_reducible apply Good.ite
    | split

end Sys2Proof.Machine
end

