-- ==== Sys2Proof/Laws/KeepEngine.lean ====
section
/-!
SUPPORT. Every operation keeps a good state good: the work of nodes and deferred effects.
-/
namespace Sys2Proof.Machine

set_option maxRecDepth 2000
set_option linter.unusedSimpArgs false
set_option linter.unusedTactic false
set_option linter.unreachableTactic false

variable {fz : Part} {t0 : Instant} {ws : List Instr} {Q : List Contract → List Effect → Prop}

/-! ### EngineOps -/

theorem store_good {x : Nat} {d : List Byte} {s : State} (h : Good fz t0 ws Q s) :
    Good fz t0 ws Q (store x d s) := by
  unfold store
  try dsimp only
  repeat' first
    | with_reducible assumption
    | with_reducible apply putRows_good
    | with_reducible apply writeDram_good
    | with_reducible apply Good.ite

theorem storeUnits_good {p : Part} {a : Instant} {w : List Instr} {Q : List Contract → List Effect → Prop} {gone : List Nat} :
    ∀ {n x : Nat} {d : List Byte} {s : State}, Good p a w Q s → Good p a w Q (storeUnits gone x n d s)
  | 0, _, _, _, h => h
  | n + 1, _, _, _, h => by
    simp only [storeUnits]
    refine storeUnits_good ?_
    split
    · exact h
    · exact store_good h

theorem storeRest_good {gone : List Nat} {w : Nat × List Byte} {s : State} (h : Good fz t0 ws Q s) :
    Good fz t0 ws Q (storeRest gone w s) := by
  unfold storeRest
  split
  · exact store_good h
  · exact storeUnits_good h

theorem Work_apply_good {gone : List Nat} {w : Work} {s : State} (h : Good fz t0 ws Q s) :
    Good fz t0 ws Q (Work.apply gone w s) := by
  unfold Work.apply
  have hf := Good.foldl (fun s (x : Nat × List Byte) (h : Good fz t0 ws Q s) => storeRest_good (gone := gone) (w := x) h) (l := w.writes) h
  exact Good.parts hf rfl rfl rfl rfl rfl rfl rfl rfl rfl rfl

theorem markRow_good {g i row : Nat} {s : State} (h : Good fz t0 ws Q s) :
    Good fz t0 ws Q (markRow g i row s) := by
  unfold markRow
  repeat' first
    | with_reducible assumption
    | with_reducible apply markNode_good

theorem readMarks_good {g i : Nat} {s : State} {r : Nat × Nat} (h : Good fz t0 ws Q s) :
    Good fz t0 ws Q (readMarks g i s r) := by
  unfold readMarks
  try dsimp only
  repeat' first
    | with_reducible assumption
    | intro _
    | with_reducible apply repeatPoison_good
    | with_reducible apply detect_good
    | with_reducible apply markRow_good
    | with_reducible apply markNode_good
    | with_reducible apply Good.ite
    | with_reducible apply Good.foldl

theorem access_good {g i : Nat} {reads writes : List (Nat × Nat)} {compute : State → State} {s : State} (k4 : ∀ s_,
    Good fz t0 ws Q s_ → Good fz t0 ws Q (compute s_)) (h : Good fz t0 ws Q s) :
    Good fz t0 ws Q (access g i reads writes compute s) := by
  unfold access
  try dsimp only
  repeat' first
    | with_reducible assumption
    | intro _
    | with_reducible apply k4
    | with_reducible apply readMarks_good
    | with_reducible apply immediateFault_good
    | with_reducible apply refuseAccess_good
    | with_reducible apply Good.ite
    | with_reducible apply Good.foldl
    | split

/-! ### WarpOps -/

/-! ### StereoOps -/

/-! ### FlowOps -/

/-! ### NodeWork -/

theorem modCores_good {n : Node} {f : Core → Core} {s : State} (h : Good fz t0 ws Q s) :
    Good fz t0 ws Q (modCores n f s) := by
  unfold modCores
  try dsimp only
  repeat' first
    | with_reducible assumption
    | intro _
    | with_reducible apply State_modDrover_good
    | with_reducible apply coresOf_good
    | with_reducible apply Good.foldl
    | (with_reducible refine Good.parts ?_ rfl rfl rfl rfl rfl rfl rfl rfl rfl rfl; with_reducible assumption)
    | with_reducible rfl
    | (show List.length _ = List.length _; simp [lmod]; done)

theorem loadCores_good {n : Node} {prog : List Byte} {s : State} (h : Good fz t0 ws Q s) :
    Good fz t0 ws Q (loadCores n prog s) := by
  unfold loadCores
  try dsimp only
  repeat' first
    | with_reducible assumption
    | intro _
    | with_reducible apply modCores_good
    | with_reducible apply Mem.write_wf

theorem leaveCores_good {n : Node} {s : State} (h : Good fz t0 ws Q s) :
    Good fz t0 ws Q (leaveCores n s) := by
  unfold leaveCores
  try dsimp only
  repeat' first
    | with_reducible assumption
    | intro _
    | with_reducible apply drawn_good
    | with_reducible apply modCores_good
    | with_reducible apply Mem.undefine_wf
    | (with_reducible refine Good.parts ?_ rfl rfl rfl rfl rfl rfl rfl rfl rfl rfl; with_reducible assumption)

theorem stagePages_good {g i : Nat} {s : State} (h : Good fz t0 ws Q s) :
    Good fz t0 ws Q (stagePages g i s) := by
  unfold stagePages
  try dsimp only
  repeat' first
    | with_reducible assumption
    | with_reducible apply State_modInst_good
    | with_reducible apply putRows_good
    | with_reducible apply Good.ite
    | split

theorem observe_good {src key : Nat} {write : Bool} {flagged : Bool} {data : List Byte} {q : Nat × Nat} {s : State} (h : Good fz t0 ws Q s) :
    Good fz t0 ws Q (observe src key write flagged data q s) := by
  unfold observe
  try dsimp only
  repeat' first
    | with_reducible assumption
    | intro _
    | with_reducible apply tallyAccess_good
    | split
    | (with_reducible refine Good.parts ?_ rfl rfl rfl rfl rfl rfl rfl rfl rfl rfl; with_reducible assumption)

theorem observeNode_good {g i : Nat} {s : State} (h : Good fz t0 ws Q s) :
    Good fz t0 ws Q (observeNode g i s) := by
  unfold observeNode
  try dsimp only
  repeat' first
    | with_reducible assumption
    | intro _
    | with_reducible apply nodeReads_good
    | with_reducible apply workOf_good
    | with_reducible apply requestsOf_good
    | with_reducible apply readFlagged_good
    | with_reducible apply observe_good
    | with_reducible apply Good.ite
    | with_reducible apply Good.foldl
    | split
    | (with_reducible refine Good.parts ?_ rfl rfl rfl rfl rfl rfl rfl rfl rfl rfl; with_reducible assumption)

theorem workNode_good {g i : Nat} {s : State} (h : Good fz t0 ws Q s) :
    Good fz t0 ws Q (workNode g i s) := by
  unfold workNode
  try dsimp only
  repeat' first
    | exact ‹Good fz t0 ws Q _›
    | with_reducible assumption
    | intro _
    | with_reducible apply Work_apply_good
    | with_reducible apply readMarks_good
    | with_reducible apply access_good
    | with_reducible apply leaveCores_good
    | with_reducible apply stagePages_good
    | with_reducible apply Good.foldl
    | split
    | (with_reducible refine Good.parts ?_ rfl rfl rfl rfl rfl rfl rfl rfl rfl rfl; with_reducible assumption)

theorem startUnits_good {g i : Nat} {s : State} (h : Good fz t0 ws Q s) :
    Good fz t0 ws Q (startUnits g i s) := by
  unfold startUnits
  try dsimp only
  repeat' first
    | with_reducible assumption
    | intro _
    | with_reducible apply State_modDrover_good
    | with_reducible apply State_modRun_good
    | with_reducible apply access_good
    | with_reducible apply neProgram_good
    | with_reducible apply portKey_good
    | with_reducible apply loadCores_good
    | with_reducible apply headAddrs_good
    | with_reducible apply Good.ite
    | split
    | (with_reducible refine Good.parts ?_ rfl rfl rfl rfl rfl rfl rfl rfl rfl rfl; with_reducible assumption)
    | with_reducible rfl
    | (show List.length _ = List.length _; simp [lmod]; done)

theorem readPackets_good {g : Nat} {gr : Graph} {c : Nat} {s : State} (h : Good fz t0 ws Q s) :
    Good fz t0 ws Q (readPackets g gr c s) := by
  unfold readPackets
  try dsimp only
  repeat' first
    | with_reducible assumption
    | intro _
    | with_reducible apply State_modDrover_good
    | with_reducible apply State_modRun_good
    | with_reducible apply neProgram_good
    | with_reducible apply portKey_good
    | with_reducible apply State_fifo_good
    | split
    | (with_reducible refine Good.parts ?_ rfl rfl rfl rfl rfl rfl rfl rfl rfl rfl; with_reducible assumption)
    | with_reducible rfl
    | (show List.length _ = List.length _; simp [lmod]; done)

theorem acceptPacket_good {g : Nat} {gr : Graph} {c : Nat} {p : List Byte} {s : State} (h : Good fz t0 ws Q s) :
    ∀ u, acceptPacket g gr c p s = some u → Good fz t0 ws Q u := by
  intro u hu
  unfold acceptPacket at hu
  try dsimp only at hu
  repeat' split at hu
  all_goals first | (cases hu; done) | skip
  all_goals cases hu
  all_goals
    repeat' first
      | with_reducible assumption
      | intro _
      | with_reducible apply State_modDrover_good
      | with_reducible apply portKey_good
      | with_reducible apply State_fifo_good
      | with_reducible apply readPackets_good
      | with_reducible apply Good.ite
      | with_reducible apply Good.foldl
      | split
      | (with_reducible refine Good.parts ?_ rfl rfl rfl rfl rfl rfl rfl rfl rfl rfl; with_reducible assumption)
      | with_reducible rfl
      | (show List.length _ = List.length _; simp [lmod]; done)

theorem sendPackets_good {p : Part} {a : Instant} {w : List Instr} {Q : List Contract → List Effect → Prop} {g : Nat} {gr : Graph}
    {i : Nat} : ∀ {l : List (List Byte)} {s : State}, Good p a w Q s → Good p a w Q (sendPackets g gr i l s).1
  | [], _, h => h
  | x :: l, s, h => by
    unfold sendPackets
    split
    · rename_i u hu
      exact sendPackets_good (State_modInst_good (acceptPacket_good h _ hu))
    · exact h

theorem streamStep_good {g i : Nat} {s : State} (h : Good fz t0 ws Q s) :
    Good fz t0 ws Q (streamStep g i s).1 := by
  unfold streamStep
  try dsimp only
  repeat' first
    | with_reducible assumption
    | intro _
    | with_reducible apply readPackets_good
    | with_reducible apply sendPackets_good
    | with_reducible apply Good.ite
    | split
    | (with_reducible refine Good.parts ?_ rfl rfl rfl rfl rfl rfl rfl rfl rfl rfl; with_reducible assumption)

theorem dropPackets_good {g i : Nat} {s : State} (h : Good fz t0 ws Q s) :
    Good fz t0 ws Q (dropPackets g i s) := by
  unfold dropPackets
  try dsimp only
  repeat' first
    | with_reducible assumption
    | intro _
    | with_reducible apply State_modDrover_good
    | with_reducible apply portKey_good
    | with_reducible apply Good.ite
    | split
    | (with_reducible refine Good.parts ?_ rfl rfl rfl rfl rfl rfl rfl rfl rfl rfl; with_reducible assumption)
    | with_reducible rfl
    | (show List.length _ = List.length _; simp [lmod]; done)

/-! ### Foresee -/

theorem done_good {seq : Nat} {s : State} (h : Good fz t0 ws Q s) :
    Good fz t0 ws Q (done seq s) := by
  unfold done
  repeat' first
    | with_reducible assumption
    | with_reducible apply finish_good

theorem deferredOk_good {seq : Nat} {s : State} (h : Good fz t0 ws Q s) :
    Good fz t0 ws Q (deferredOk seq s) := by
  unfold deferredOk
  repeat' first
    | with_reducible assumption
    | with_reducible apply finish_good

theorem deferStar_good {p : Part} {a : Instant} {w : List Instr} {q : Nat} {e : Effect} {now : State → State} {s : State}
    (h : Good p a w contractsApart s) (hn : Good p a w contractsApart (now s)) (he : ∀ n c, e ≠ .partition n c) : Good p a w contractsApart (deferStar q e now s) := by
  unfold deferStar
  exact Good.ite (deferredOk_good (defer_good h he)) (done_good hn)

/-! ### CameraOps -/

theorem countPort_good {p : Nat} {f : PortCounts → PortCounts} {s : State} (h : Good fz t0 ws Q s) :
    Good fz t0 ws Q (countPort p f s) := by
  unfold countPort
  repeat' first
    | with_reducible assumption
    | with_reducible apply State_modPort_good

theorem portError_good {p : Nat} {f : PortCounts → PortCounts} {s : State} (h : Good fz t0 ws Q s) :
    Good fz t0 ws Q (portError p f s) := by
  unfold portError
  repeat' first
    | with_reducible assumption
    | with_reducible apply State_modPort_good

theorem modFrame_good {k : Nat} {g : Frame → Frame} {s : State} (h : Good fz t0 ws Q s) :
    Good fz t0 ws Q (modFrame k g s) := by
  unfold modFrame
  repeat' first
    | with_reducible assumption
    | with_reducible apply State_modCtx_good

theorem damagePort_good {port : Nat} {s : State} (h : Good fz t0 ws Q s) :
    Good fz t0 ws Q (damagePort port s) := by
  unfold damagePort
  repeat' first
    | with_reducible assumption
    | intro _
    | with_reducible apply modFrame_good
    | with_reducible apply Good.foldl

theorem withHeader_onVc_good {port vc : Nat} {k : State → State} {s : State} (k2 : ∀ s_, Good fz t0 ws Q s_ → Good fz
    t0 ws Q (k s_)) (h : Good fz t0 ws Q s) :
    Good fz t0 ws Q (withHeader.onVc port vc k s) := by
  unfold withHeader.onVc
  repeat' first
    | with_reducible assumption
    | with_reducible apply k2
    | with_reducible apply portError_good
    | with_reducible apply Good.ite

theorem withHeader_good {port vc : Nat} {hdr : HeaderCheck} {k : State → State} {s : State} (k3 : ∀ s_, Good fz t0 ws
    Q s_ → Good fz t0 ws Q (k s_)) (h : Good fz t0 ws Q s) :
    Good fz t0 ws Q (withHeader port vc hdr k s) := by
  unfold withHeader
  repeat' first
    | with_reducible assumption
    | with_reducible apply withHeader_onVc_good
    | with_reducible apply portError_good
    | with_reducible apply damagePort_good
    | with_reducible apply Good.ite
    | split

theorem countCorrected_good {hdr : HeaderCheck} {ks : List Nat} {s : State} (h : Good fz t0 ws Q s) :
    Good fz t0 ws Q (countCorrected hdr ks s) := by
  unfold countCorrected
  repeat' first
    | with_reducible assumption
    | intro _
    | with_reducible apply modFrame_good
    | with_reducible apply Good.ite
    | with_reducible apply Good.foldl

theorem refuseLane_good {k : Nat} {s : State} (h : Good fz t0 ws Q s) :
    Good fz t0 ws Q (refuseLane k s) := by
  unfold refuseLane
  try dsimp only
  repeat' first
    | with_reducible assumption
    | intro _
    | with_reducible apply State_modLane_good
    | with_reducible apply modFrame_good
    | with_reducible apply modFrame_good
    | (with_reducible refine Good.parts ?_ rfl rfl rfl rfl rfl rfl rfl rfl rfl rfl; with_reducible assumption)

theorem laneRow_good {k row : Nat} {d : List Byte} {s : State} (h : Good fz t0 ws Q s) :
    Good fz t0 ws Q (laneRow k row d s) := by
  unfold laneRow
  try dsimp only
  repeat' first
    | with_reducible assumption
    | intro _
    | with_reducible apply putRow_good
    | with_reducible apply refuseAccess_good
    | with_reducible apply passAccess_good
    | with_reducible apply modFrame_good
    | with_reducible apply refuseLane_good
    | split
    | (with_reducible refine Good.parts ?_ rfl rfl rfl rfl rfl rfl rfl rfl rfl rfl; with_reducible assumption)

set_option maxRecDepth 100000 in
theorem writeRegion_succ {k first stride len total : Nat} {line : Nat → LineOut} {n r : Nat} {s : State} :
    writeRegion k first stride len line total (n + 1) r s = (if total ≤ r then (s, r)
      else match regionRow stride len line r with
        | .pending => (s, r)
        | .never => writeRegion k first stride len line total n (r + 1) s
        | .bytes d => writeRegion k first stride len line total n (r + 1) (laneRow k (first + r) d s)) := rfl

theorem writeRegion_good {p : Part} {a : Instant} {w : List Instr} {Q : List Contract → List Effect → Prop} {k first stride len total : Nat}
    {line : Nat → LineOut} {n : Nat} :
    ∀ {r : Nat} {s : State}, Good p a w Q s → Good p a w Q (writeRegion k first stride len line total n r s).1 := by
  induction n with
  | zero => intro r s h; exact h
  | succ n ih =>
    intro r s h
    rw [writeRegion_succ]
    by_cases ht : total ≤ r
    · rw [if_pos ht]
      exact h
    · rw [if_neg ht]
      generalize regionRow stride len line r = x
      cases x with
      | pending => exact h
      | never => exact ih h
      | bytes d => exact ih (laneRow_good h)

theorem writeRows_good {k : Nat} {s : State} (h : Good fz t0 ws Q s) :
    Good fz t0 ws Q (writeRows k s) := by
  unfold writeRows
  try dsimp only
  repeat' first
    | with_reducible assumption
    | intro _
    | with_reducible apply modFrame_good
    | with_reducible apply writeRegion_good
    | with_reducible apply Good.foldl
    | split

theorem undefineUnwritten_good {k : Nat} {f : Frame} {s : State} (h : Good fz t0 ws Q s) :
    Good fz t0 ws Q (undefineUnwritten k f s) := by
  unfold undefineUnwritten
  try dsimp only
  repeat' first
    | with_reducible assumption
    | intro _
    | with_reducible apply undefineRows_good
    | with_reducible apply Good.ite
    | with_reducible apply Good.foldl
    | split

theorem retime_good {b : LaneLine} {done : Instant} {s : State} (h : Good fz t0 ws Q s) :
    Good fz t0 ws Q (retime b done s) := by
  unfold retime
  try dsimp only
  repeat' first
    | with_reducible assumption
    | intro _
    | with_reducible apply done_good
    | with_reducible apply modFrame_good
    | with_reducible apply modFrame_good
    | with_reducible apply Good.ite
    | split
    | (with_reducible refine Good.parts ?_ rfl rfl rfl rfl rfl rfl rfl rfl rfl rfl; with_reducible assumption)

theorem enterLane_good {ctx bytes pixels : Nat} {s : State} (h : Good fz t0 ws Q s) :
    Good fz t0 ws Q (enterLane ctx bytes pixels s).1 := by
  unfold enterLane
  try dsimp only
  repeat' first
    | with_reducible assumption
    | intro _
    | with_reducible apply State_modLane_good
    | with_reducible apply done_good
    | with_reducible apply retime_good
    | with_reducible apply Good.ite
    | with_reducible apply Good.foldl
    | split
    | (with_reducible refine Good.parts ?_ rfl rfl rfl rfl rfl rfl rfl rfl rfl rfl; with_reducible assumption)

theorem takeLine_good {k : Nat} {data : List Byte} {crcOk : Bool} {s : State} (h : Good fz t0 ws Q s) :
    Good fz t0 ws Q (takeLine k data crcOk s) := by
  unfold takeLine
  try dsimp only
  repeat' first
    | with_reducible assumption
    | with_reducible apply enterLane_good
    | with_reducible apply modFrame_good
    | with_reducible apply drawn_good
    | with_reducible apply writeRows_good
    | with_reducible apply Good.ite
    | split

theorem takeEmbedded_good {k : Nat} {data : List Byte} {s : State} (h : Good fz t0 ws Q s) :
    Good fz t0 ws Q (takeEmbedded k data s) := by
  unfold takeEmbedded
  try dsimp only
  repeat' first
    | with_reducible assumption
    | intro _
    | with_reducible apply modFrame_good
    | with_reducible apply laneRow_good
    | with_reducible apply State_modLane_good
    | with_reducible apply Good.ite
    | with_reducible apply Good.foldl
    | split

theorem frameEnd_good {k : Nat} {s : State} (h : Good fz t0 ws Q s) :
    Good fz t0 ws Q (frameEnd k s) := by
  unfold frameEnd
  try dsimp only
  repeat' first
    | with_reducible assumption
    | intro _
    | with_reducible apply modFrame_good
    | with_reducible apply writeRows_good
    | with_reducible apply modFrame_good
    | with_reducible apply writeRows_good
    | with_reducible apply Good.ite
    | split
    | (with_reducible refine Good.parts ?_ rfl rfl rfl rfl rfl rfl rfl rfl rfl rfl; with_reducible assumption)

theorem cutFrame_good {k cut : Nat} {s : State} (h : Good fz t0 ws Q s) :
    Good fz t0 ws Q (cutFrame k cut s) := by
  unfold cutFrame
  try dsimp only
  repeat' first
    | with_reducible assumption
    | intro _
    | with_reducible apply modFrame_good
    | with_reducible apply writeRows_good
    | with_reducible apply undefineUnwritten_good
    | with_reducible apply Good.ite
    | split
    | (with_reducible refine Good.parts ?_ rfl rfl rfl rfl rfl rfl rfl rfl rfl rfl; with_reducible assumption)

theorem countDefects_good {k : Nat} {f : Frame} {s : State} (h : Good fz t0 ws Q s) :
    Good fz t0 ws Q (countDefects k f s) := by
  unfold countDefects
  try dsimp only
  repeat' first
    | with_reducible assumption
    | intro _
    | with_reducible apply State_modLane_good
    | with_reducible apply knownLines_good
    | (with_reducible refine Good.parts ?_ rfl rfl rfl rfl rfl rfl rfl rfl rfl rfl; with_reducible assumption)

theorem postFrameFault_good {k : Nat} {f : Frame} {s : State} (h : Good fz t0 ws Q s) :
    Good fz t0 ws Q (postFrameFault k f s) := by
  unfold postFrameFault
  repeat' first
    | with_reducible assumption
    | with_reducible apply postTenant_good
    | with_reducible apply State_modCtx_good
    | with_reducible apply Good.ite

theorem writeRecord_good {k : Nat} {s : State} (h : Good fz t0 ws Q s) :
    Good fz t0 ws Q (writeRecord k s) := by
  unfold writeRecord
  try dsimp only
  repeat' first
    | with_reducible assumption
    | intro _
    | with_reducible apply State_modCtx_good
    | with_reducible apply State_modLane_good
    | with_reducible apply endLaneInput_good
    | with_reducible apply laneRow_good
    | with_reducible apply writeRows_good
    | with_reducible apply undefineUnwritten_good
    | with_reducible apply countDefects_good
    | with_reducible apply postFrameFault_good
    | with_reducible apply Good.ite
    | with_reducible apply Good.foldl
    | split
    | (with_reducible refine Good.parts ?_ rfl rfl rfl rfl rfl rfl rfl rfl rfl rfl; with_reducible assumption)

theorem cutFrames_good {s : State} (h : Good fz t0 ws Q s) :
    Good fz t0 ws Q (cutFrames s) := by
  unfold cutFrames
  try dsimp only
  repeat' first
    | with_reducible assumption
    | intro _
    | with_reducible apply State_modCtx_good
    | with_reducible apply State_modLane_good
    | with_reducible apply portError_good
    | with_reducible apply writeRows_good
    | with_reducible apply undefineUnwritten_good
    | with_reducible apply countDefects_good
    | with_reducible apply Good.ite
    | with_reducible apply Good.foldl
    | split
    | (with_reducible refine Good.parts ?_ rfl rfl rfl rfl rfl rfl rfl rfl rfl rfl; with_reducible assumption)

theorem applyCtx_good {k : Nat} {e : CtxEffect} {s : State} (h : Good fz t0 ws Q s) :
    Good fz t0 ws Q (applyCtx k e s) := by
  unfold applyCtx
  try dsimp only
  repeat' first
    | with_reducible assumption
    | intro _
    | with_reducible apply State_modCtx_good
    | with_reducible apply cutFrame_good
    | split
    | (with_reducible refine Good.parts ?_ rfl rfl rfl rfl rfl rfl rfl rfl rfl rfl; with_reducible assumption)

theorem applyPending_good {k number : Nat} {s : State} (h : Good fz t0 ws Q s) :
    Good fz t0 ws Q (applyPending k number s) := by
  unfold applyPending
  try dsimp only
  repeat' first
    | with_reducible assumption
    | intro _
    | with_reducible apply applyCtx_good
    | with_reducible apply postTenant_good
    | with_reducible apply State_modCtx_good
    | with_reducible apply Good.ite
    | with_reducible apply Good.foldl
    | split

theorem openContexts_good {s : State} (h : Good fz t0 ws Q s) :
    Good fz t0 ws Q (openContexts s) := by
  unfold openContexts
  try dsimp only
  repeat' first
    | with_reducible assumption
    | intro _
    | with_reducible apply applyPending_good
    | with_reducible apply State_modCtx_good
    | with_reducible apply Good.ite
    | with_reducible apply Good.foldl
    | (with_reducible refine Good.parts ?_ rfl rfl rfl rfl rfl rfl rfl rfl rfl (by simp only [lmod, List.length_modify, List.length_map, List.length_set]); with_reducible assumption)

theorem frameTriggers_good {k : Nat} {b : Binding} {s : State} (h : Good fz t0 ws Q s) :
    Good fz t0 ws Q (frameTriggers k b s) := by
  unfold frameTriggers
  repeat' first
    | with_reducible assumption
    | intro _
    | with_reducible apply trigger_good
    | with_reducible apply Good.foldl

theorem openFrame_good {k port : Nat} {number : BitVec 16} {s : State} (h : Good fz t0 ws Q s) :
    Good fz t0 ws Q (openFrame k port number s) := by
  unfold openFrame
  try dsimp only
  repeat' first
    | with_reducible assumption
    | with_reducible apply modFrame_good
    | with_reducible apply frameTriggers_good
    | with_reducible apply State_modLane_good
    | with_reducible apply portError_good
    | with_reducible apply State_modCtx_good
    | with_reducible apply Good.ite
    | split

theorem frameStart_good {port vc : Nat} {number : BitVec 16} {hdr : HeaderCheck} {s : State} (h : Good fz t0 ws Q s) :
    Good fz t0 ws Q (frameStart port vc number hdr s) := by
  unfold frameStart
  try dsimp only
  repeat' first
    | with_reducible assumption
    | intro _
    | with_reducible apply openFrame_good
    | with_reducible apply applyPending_good
    | with_reducible apply portError_good
    | with_reducible apply countCorrected_good
    | with_reducible apply Good.ite
    | with_reducible apply Good.foldl

theorem postPortErrors_good {s : State} (h : Good fz t0 ws Q s) :
    Good fz t0 ws Q (postPortErrors s) := by
  unfold postPortErrors
  try dsimp only
  repeat' first
    | with_reducible assumption
    | intro _
    | with_reducible apply postAll_good
    | with_reducible apply Good.ite
    | with_reducible apply Good.foldl

end Sys2Proof.Machine
end

