-- ==== Sys2Proof/Laws/KeepFabric.lean ====
section
/-!
SUPPORT. Every operation keeps a good state good: the fabric, the P-links, and the memory and graph commands.
-/
namespace Sys2Proof.Machine

set_option maxRecDepth 2000
set_option linter.unusedSimpArgs false
set_option linter.unusedTactic false
set_option linter.unreachableTactic false

variable {fz : Part} {t0 : Instant} {ws : List Instr} {Q : List Contract → List Effect → Prop}

/-! ### FabricOps -/

theorem countFabric_good {f : FabricCounts → FabricCounts} {s : State} (h : Good fz t0 ws Q s) :
    Good fz t0 ws Q (countFabric f s) := by
  unfold countFabric
  repeat' first
    | with_reducible assumption
    | with_reducible apply State_modFabric_good

theorem stallAt_good {router output n : Nat} {s : State} (h : Good fz t0 ws Q s) :
    Good fz t0 ws Q (stallAt router output n s) := by
  unfold stallAt
  try dsimp only
  repeat' first
    | with_reducible assumption
    | intro _
    | with_reducible apply State_modFabric_good
    | with_reducible apply countFabric_good
    | with_reducible apply Good.ite
    | split
    | (with_reducible refine Good.parts ?_ rfl rfl rfl rfl rfl rfl rfl rfl rfl rfl; with_reducible assumption)

theorem stallPacket_good {router output k : Nat} {moves : Bool} {f : Flight} {s : State} (h : Good fz t0 ws Q s) :
    Good fz t0 ws Q (stallPacket router output k moves f s) := by
  unfold stallPacket
  try dsimp only
  repeat' first
    | with_reducible assumption
    | intro _
    | with_reducible apply State_modFabric_good
    | with_reducible apply stallAt_good
    | with_reducible apply Good.ite
    | split
    | (with_reducible refine Good.parts ?_ rfl rfl rfl rfl rfl rfl rfl rfl rfl rfl; with_reducible assumption)

theorem stallSource_good {router port who : Nat} {for_ : Option WaitsFor} {s : State} (h : Good fz t0 ws Q s) :
    Good fz t0 ws Q (stallSource router port who for_ s) := by
  unfold stallSource
  try dsimp only
  repeat' first
    | with_reducible assumption
    | intro _
    | with_reducible apply State_modFabric_good
    | with_reducible apply countFabric_good
    | with_reducible apply stallAt_good
    | split
    | (with_reducible refine Good.parts ?_ rfl rfl rfl rfl rfl rfl rfl rfl rfl rfl; with_reducible assumption)

theorem putPacket_good {place : Place} {entered : Option Nat} {p : Packet} {s : State} (h : Good fz t0 ws Q s) :
    Good fz t0 ws Q (putPacket place entered p s) := by
  unfold putPacket
  try dsimp only
  repeat' first
    | with_reducible assumption
    | with_reducible apply countFabric_good
    | with_reducible apply State_modFabric_good
    | split

theorem removePacket_good {k : Nat} {s : State} (h : Good fz t0 ws Q s) :
    Good fz t0 ws Q (removePacket k s) := by
  unfold removePacket
  repeat' first
    | with_reducible assumption
    | with_reducible apply State_modFabric_good

theorem returnCredits_good {place : Place} {flits : Nat} {s : State} (h : Good fz t0 ws Q s) :
    Good fz t0 ws Q (returnCredits place flits s) := by
  unfold returnCredits
  repeat' first
    | with_reducible assumption
    | with_reducible apply State_modLink_good
    | split

theorem queueOut_good {router port : Nat} {p : Packet} {s : State} (h : Good fz t0 ws Q s) :
    Good fz t0 ws Q (queueOut router port p s) := by
  unfold queueOut
  repeat' first
    | with_reducible assumption
    | with_reducible apply State_modFabric_good

theorem nackFor_good {router port reason chip gate : Nat} {p : Packet} {s : State} (h : Good fz t0 ws Q s) :
    Good fz t0 ws Q (nackFor router port reason chip gate p s) := by
  unfold nackFor
  try dsimp only
  repeat' first
    | with_reducible assumption
    | with_reducible apply countFabric_good
    | with_reducible apply queueOut_good

theorem nack_good {router port reason : Nat} {p : Packet} {s : State} (h : Good fz t0 ws Q s) :
    Good fz t0 ws Q (nack router port reason p s) := by
  unfold nack
  repeat' first
    | with_reducible assumption
    | with_reducible apply nackFor_good

theorem ack_good {router port : Nat} {p : Packet} {s : State} (h : Good fz t0 ws Q s) :
    Good fz t0 ws Q (ack router port p s) := by
  unfold ack
  try dsimp only
  repeat' first
    | with_reducible assumption
    | with_reducible apply queueOut_good

theorem readData_good {router port : Nat} {p : Packet} {d : List Byte} {detect poison : Nat} {s : State} (h : Good fz
    t0 ws Q s) :
    Good fz t0 ws Q (readData router port p d detect poison s) := by
  unfold readData
  try dsimp only
  repeat' first
    | with_reducible assumption
    | with_reducible apply queueOut_good

theorem dropPacket_good {router port reason : Nat} {p : Packet} {s : State} (h : Good fz t0 ws Q s) :
    Good fz t0 ws Q (dropPacket router port reason p s) := by
  unfold dropPacket
  try dsimp only
  repeat' first
    | with_reducible assumption
    | intro _
    | with_reducible apply lostPacket_good
    | with_reducible apply nackFor_good
    | with_reducible apply nack_good
    | with_reducible apply Good.ite
    | with_reducible apply Good.foldl
    | split

theorem leaveBy_good {egress : Nat} {f : Flight} {s : State} (h : Good fz t0 ws Q s) :
    Good fz t0 ws Q (leaveBy egress f s).1 := by
  unfold leaveBy
  try dsimp only
  repeat' first
    | with_reducible assumption
    | with_reducible apply dropPacket_good
    | with_reducible apply linkSend_good
    | split

theorem countInjected_good {p : Packet} {s : State} (h : Good fz t0 ws Q s) :
    Good fz t0 ws Q (countInjected p s) := by
  unfold countInjected
  repeat' first
    | with_reducible assumption
    | with_reducible apply countFabric_good

theorem sendRequest_good {router port : Nat} {issuer : Issuer} {h_ : H0} {h1 : BitVec 64} {rest : List Byte} {chips : List Nat} {filter : Option Nat} {s : State} (h : Good fz t0 ws Q s) :
    Good fz t0 ws Q (sendRequest router port issuer h_ h1 rest chips filter s).1 := by
  unfold sendRequest
  try dsimp only
  repeat' first
    | with_reducible assumption
    | intro _
    | with_reducible apply State_modFabric_good
    | with_reducible apply stallSource_good
    | with_reducible apply putPacket_good
    | with_reducible apply countInjected_good
    | split
    | (with_reducible refine Good.parts ?_ rfl rfl rfl rfl rfl rfl rfl rfl rfl rfl; with_reducible assumption)

theorem refuseInjection_good {g i router port : Nat} {h_ : H0} {cause : Nat} {s : State} (h : Good fz t0 ws Q s) :
    Good fz t0 ws Q (refuseInjection g i router port h_ cause s) := by
  unfold refuseInjection
  try dsimp only
  repeat' first
    | with_reducible assumption
    | intro _
    | with_reducible apply postTo_good
    | with_reducible apply immediateFault_good
    | with_reducible apply countFabric_good
    | with_reducible apply countFabric_good
    | with_reducible apply keyTenant_good
    | with_reducible apply Good.ite
    | split
    | (with_reducible refine Good.parts ?_ rfl rfl rfl rfl rfl rfl rfl rfl rfl rfl; with_reducible assumption)

theorem useEntry_good {g i : Nat} {c : CalSays} {s : State} (h : Good fz t0 ws Q s) :
    Good fz t0 ws Q (useEntry g i c s) := by
  unfold useEntry
  repeat' first
    | with_reducible assumption
    | with_reducible apply State_modRun_good
    | split

theorem calendarFault_good {g i dest : Nat} {s : State} (h : Good fz t0 ws Q s) :
    Good fz t0 ws Q (calendarFault g i dest s) := by
  unfold calendarFault
  repeat' first
    | with_reducible assumption
    | with_reducible apply immediateFault_good
    | with_reducible apply postTenant_good

theorem sendUnderCalendar_good {g i router port : Nat} {h_ : H0} {h1 : BitVec 64} {rest : List Byte} {chips : List Nat} {filter : Option Nat} {after : State → State} {s : State} (k_after : ∀ s_, Good fz t0 ws Q s_ → Good fz t0 ws Q (after s_)) (h : Good fz t0 ws Q s) :
    Good fz t0 ws Q (sendUnderCalendar g i router port h_ h1 rest chips filter after s) := by
  unfold sendUnderCalendar
  try dsimp only
  repeat' first
    | with_reducible assumption
    | intro _
    | with_reducible apply k_after
    | with_reducible apply stallSource_good
    | with_reducible apply sendRequest_good
    | with_reducible apply refuseInjection_good
    | with_reducible apply useEntry_good
    | with_reducible apply calendarFault_good
    | with_reducible apply Good.ite
    | split
    | (with_reducible refine Good.parts ?_ rfl rfl rfl rfl rfl rfl rfl rfl rfl rfl; with_reducible assumption)

theorem nodeRequestEnded_good {g i : Nat} {r : Request} {e : Ending} {s : State} (h : Good fz t0 ws Q s) :
    Good fz t0 ws Q (nodeRequestEnded g i r e s) := by
  unfold nodeRequestEnded
  repeat' first
    | with_reducible assumption
    | with_reducible apply State_modRun_good
    | with_reducible apply immediateFault_good
    | with_reducible apply Good.ite
    | split

theorem tallyFailed_good {key : Nat} {r : Request} {s : State} (h : Good fz t0 ws Q s) :
    Good fz t0 ws Q (tallyFailed key r s) := by
  unfold tallyFailed
  repeat' first
    | with_reducible assumption
    | with_reducible apply tallyAccess_good
    | split

theorem laneRequestEnded_good {ctx : Nat} {r : Request} {e : Ending} {s : State} (h : Good fz t0 ws Q s) :
    Good fz t0 ws Q (laneRequestEnded ctx r e s) := by
  unfold laneRequestEnded
  try dsimp only
  repeat' first
    | with_reducible assumption
    | intro _
    | with_reducible apply State_modCtx_good
    | with_reducible apply State_modLane_good
    | split
    | (with_reducible refine Good.parts ?_ rfl rfl rfl rfl rfl rfl rfl rfl rfl rfl; with_reducible assumption)

theorem tallyWritten_good {rows : Nat} {ok : Bool} {s : State} (h : Good fz t0 ws Q s) :
    Good fz t0 ws Q (tallyWritten rows ok s) := by
  unfold tallyWritten
  try dsimp only
  repeat' first
    | with_reducible assumption
    | intro _
    | with_reducible apply State_modTally_good
    | with_reducible apply Good.ite
    | split
    | (with_reducible refine Good.parts ?_ rfl rfl rfl rfl rfl rfl rfl rfl rfl rfl; with_reducible assumption)

theorem endRequest_good {key : Nat} {e : Ending} {s : State} (h : Good fz t0 ws Q s) :
    Good fz t0 ws Q (endRequest key e s) := by
  unfold endRequest
  try dsimp only
  repeat' first
    | with_reducible assumption
    | intro _
    | with_reducible apply State_modFabric_good
    | with_reducible apply nodeRequestEnded_good
    | with_reducible apply tallyFailed_good
    | with_reducible apply laneRequestEnded_good
    | with_reducible apply tallyWritten_good
    | with_reducible apply Good.ite
    | split
    | (with_reducible refine Good.parts ?_ rfl rfl rfl rfl rfl rfl rfl rfl rfl rfl; with_reducible assumption)

theorem dropTallyWrites_good {s : State} (h : Good fz t0 ws Q s) :
    Good fz t0 ws Q (dropTallyWrites s) := by
  unfold dropTallyWrites
  try dsimp only
  repeat' first
    | with_reducible assumption
    | intro _
    | with_reducible apply tallyWritten_good
    | with_reducible apply Good.foldl

/-! ### RowAccess -/

theorem bar2Piece_good {h_ : HeldRead} {row : Nat} {got : List Byte × Bool} {s : State} (h : Good fz t0 ws Q s) :
    Good fz t0 ws Q (bar2Piece h_ row got s) := by
  unfold bar2Piece
  try dsimp only
  repeat' first
    | with_reducible assumption
    | intro _
    | with_reducible apply State_modLoft_good
    | with_reducible apply emit_good
    | (with_reducible refine Good.parts ?_ rfl rfl rfl rfl rfl rfl rfl rfl rfl rfl; with_reducible assumption)

theorem completeBar2_good {k : Nat} {s : State} (h : Good fz t0 ws Q s) :
    Good fz t0 ws Q (completeBar2 k s) := by
  unfold completeBar2
  try dsimp only
  repeat' first
    | with_reducible assumption
    | intro _
    | with_reducible apply State_modLoft_good
    | with_reducible apply bar2Piece_good
    | with_reducible apply Good.ite
    | with_reducible apply Good.foldl
    | split
    | (with_reducible refine Good.parts ?_ rfl rfl rfl rfl rfl rfl rfl rfl rfl rfl; with_reducible assumption)

theorem takeBar2_good {k row : Nat} {got : List Byte × Bool} {s : State} (h : Good fz t0 ws Q s) :
    Good fz t0 ws Q (takeBar2 k row got s) := by
  unfold takeBar2
  try dsimp only
  repeat' first
    | with_reducible assumption
    | intro _
    | with_reducible apply State_modLoft_good
    | with_reducible apply completeBar2_good
    | (with_reducible refine Good.parts ?_ rfl rfl rfl rfl rfl rfl rfl rfl rfl rfl; with_reducible assumption)

theorem answerServed_good {k : Nat} {s : State} (h : Good fz t0 ws Q s) :
    Good fz t0 ws Q (answerServed k s) := by
  unfold answerServed
  try dsimp only
  repeat' first
    | with_reducible assumption
    | with_reducible apply removePacket_good
    | with_reducible apply ack_good
    | with_reducible apply readData_good
    | with_reducible apply Good.ite
    | split

theorem takeRequestRow_good {k index : Nat} {d : List Byte} {bad : Bool} {s : State} (h : Good fz t0 ws Q s) :
    Good fz t0 ws Q (takeRequestRow k index d bad s) := by
  unfold takeRequestRow
  try dsimp only
  repeat' first
    | with_reducible assumption
    | intro _
    | with_reducible apply State_modFabric_good
    | with_reducible apply answerServed_good
    | with_reducible apply answerServed_good
    | split
    | (with_reducible refine Good.parts ?_ rfl rfl rfl rfl rfl rfl rfl rfl rfl rfl; with_reducible assumption)

theorem noteGateRow_good {a : Access} {s : State} (h : Good fz t0 ws Q s) :
    Good fz t0 ws Q (noteGateRow a s) := by
  unfold noteGateRow
  try dsimp only
  repeat' first
    | with_reducible assumption
    | intro _
    | with_reducible apply State_modLoft_good
    | split
    | (with_reducible refine Good.parts ?_ rfl rfl rfl rfl rfl rfl rfl rfl rfl rfl; with_reducible assumption)

theorem writeAccess_good {a : Access} {d : List Byte} {s : State} (h : Good fz t0 ws Q s) :
    Good fz t0 ws Q (writeAccess a d s) := by
  unfold writeAccess
  try dsimp only
  repeat' first
    | with_reducible assumption
    | intro _
    | with_reducible apply putRow_good
    | with_reducible apply answerServed_good
    | with_reducible apply answerServed_good
    | with_reducible apply noteGateRow_good
    | split
    | (with_reducible refine Good.parts ?_ rfl rfl rfl rfl rfl rfl rfl rfl rfl rfl; with_reducible assumption)

theorem readAccess_good {a : Access} {bad : Bool} {s : State} (h : Good fz t0 ws Q s) :
    Good fz t0 ws Q (readAccess a bad s) := by
  unfold readAccess
  try dsimp only
  repeat' first
    | with_reducible assumption
    | intro _
    | with_reducible apply takeBar2_good
    | with_reducible apply takeRequestRow_good
    | split
    | (with_reducible refine Good.parts ?_ rfl rfl rfl rfl rfl rfl rfl rfl rfl rfl; with_reducible assumption)

theorem rowAccess_good {a : Access} {flips : Flips} {s : State} (h : Good fz t0 ws Q s) :
    Good fz t0 ws Q (rowAccess a flips s) := by
  unfold rowAccess
  try dsimp only
  repeat' first
    | with_reducible assumption
    | intro _
    | with_reducible apply State_modLoft_good
    | with_reducible apply damageRow_good
    | with_reducible apply detect_good
    | with_reducible apply writeAccess_good
    | with_reducible apply readAccess_good
    | with_reducible apply Mem.write_wf
    | with_reducible apply Good.ite
    | split
    | (with_reducible refine Good.parts ?_ rfl rfl rfl rfl rfl rfl rfl rfl rfl rfl; with_reducible assumption)

theorem offer_good {a : Access} {flips : Flips} {s : State} (h : Good fz t0 ws Q s) :
    Good fz t0 ws Q (offer a flips s) := by
  unfold offer
  try dsimp only
  repeat' first
    | with_reducible assumption
    | intro _
    | with_reducible apply State_modLoft_good
    | with_reducible apply loseCycle_good
    | with_reducible apply rowAccess_good
    | with_reducible apply Good.ite
    | split
    | (with_reducible refine Good.parts ?_ rfl rfl rfl rfl rfl rfl rfl rfl rfl rfl; with_reducible assumption)

theorem execLoftRowAccess_good {t : Instant} {stall : Fin 64} {flips : Flips} {s : State} (h : Good fz t0 ws Q s) :
    ∀ u, execLoftRowAccess t stall flips s = .next u → Good fz t0 ws Q u := by
  unfold execLoftRowAccess
  try dsimp only
  refine event_good ?_ h
  intro s_ h_
  try dsimp only
  repeat' first
    | with_reducible assumption
    | intro _
    | with_reducible apply loseCycle_good
    | with_reducible apply rowAccess_good
    | with_reducible apply Good.ite
    | split
    | (with_reducible refine Good.parts ?_ rfl rfl rfl rfl rfl rfl rfl rfl rfl rfl; with_reducible assumption)

/-! ### FabricRows -/

theorem markWrote_good {g i addr len : Nat} {s : State} (h : Good fz t0 ws Q s) :
    Good fz t0 ws Q (markWrote g i addr len s) := by
  unfold markWrote
  split
  · split
    · exact drawn_good h
    · exact Good.parts (State_modRun_good h) rfl rfl rfl rfl rfl rfl rfl rfl rfl rfl
  · exact h

theorem injectNode_good {router port : Nat} {n : NodeRef} {write : Bool} {addr rows : Nat} {s : State} (h : Good fz t0 ws Q s) :
    Good fz t0 ws Q (injectNode router port n write addr rows s) := by
  unfold injectNode
  try dsimp only
  repeat' first
    | with_reducible assumption
    | intro _
    | with_reducible apply tallyAccess_good
    | with_reducible apply immediateFault_good
    | with_reducible apply sendUnderCalendar_good
    | with_reducible apply markWrote_good
    | with_reducible apply Good.ite
    | split
    | (with_reducible refine Good.parts ?_ rfl rfl rfl rfl rfl rfl rfl rfl rfl rfl; with_reducible assumption)

theorem injectGateCopy_good {router port : Nat} {n : NodeRef} {s : State} (h : Good fz t0 ws Q s) :
    Good fz t0 ws Q (injectGateCopy router port n s) := by
  unfold injectGateCopy
  try dsimp only
  repeat' first
    | with_reducible assumption
    | intro _
    | with_reducible apply refuseAccess_good
    | with_reducible apply State_modRun_good
    | with_reducible apply immediateFault_good
    | with_reducible apply readMarks_good
    | with_reducible apply refuseInjection_good
    | with_reducible apply sendUnderCalendar_good
    | with_reducible apply Good.ite
    | split
    | (with_reducible refine Good.parts ?_ rfl rfl rfl rfl rfl rfl rfl rfl rfl rfl; with_reducible assumption)

theorem injectLane_good {router port lane ctx row : Nat} {s : State} (h : Good fz t0 ws Q s) :
    Good fz t0 ws Q (injectLane router port lane ctx row s) := by
  unfold injectLane
  try dsimp only
  repeat' first
    | with_reducible assumption
    | intro _
    | with_reducible apply modFrame_good
    | with_reducible apply sendRequest_good
    | with_reducible apply Good.ite
    | split
    | (with_reducible refine Good.parts ?_ rfl rfl rfl rfl rfl rfl rfl rfl rfl rfl; with_reducible assumption)

theorem injectWaiting_good {router port : Nat} {s : State} (h : Good fz t0 ws Q s) :
    Good fz t0 ws Q (injectWaiting router port s) := by
  unfold injectWaiting
  try dsimp only
  repeat' first
    | with_reducible assumption
    | intro _
    | with_reducible apply State_modFabric_good
    | with_reducible apply stallSource_good
    | with_reducible apply putPacket_good
    | with_reducible apply countInjected_good
    | with_reducible apply Good.ite
    | split
    | (with_reducible refine Good.parts ?_ rfl rfl rfl rfl rfl rfl rfl rfl rfl rfl; with_reducible assumption)

theorem injectFirmware_good {router port chip : Nat} {payload : List Byte} {s : State} (h : Good fz t0 ws Q s) :
    Good fz t0 ws Q (injectFirmware router port chip payload s) := by
  unfold injectFirmware
  try dsimp only
  repeat' first
    | with_reducible assumption
    | intro _
    | with_reducible apply stallSource_good
    | with_reducible apply putPacket_good
    | with_reducible apply countInjected_good
    | with_reducible apply Good.ite
    | split

theorem execFabricInject_good {t : Instant} {router : Fin 16} {port : Fin 8} {what : Injection} {s : State} (h : Good
    fz t0 ws Q s) :
    ∀ u, execFabricInject t router port what s = .next u → Good fz t0 ws Q u := by
  unfold execFabricInject
  repeat' first
    | with_reducible refine event_good ?_ ?_
    | split
  all_goals repeat' first
    | with_reducible assumption
    | intro _
    | with_reducible apply injectGateCopy_good
    | with_reducible apply injectFirmware_good
    | with_reducible apply injectLane_good
    | with_reducible apply injectWaiting_good
    | with_reducible apply injectNode_good
    | with_reducible apply Good.ite

theorem advancePacket_good {router output k : Nat} {f : Flight} {s : State} (h : Good fz t0 ws Q s) :
    Good fz t0 ws Q (advancePacket router output k f s) := by
  unfold advancePacket
  try dsimp only
  repeat' first
    | with_reducible assumption
    | intro _
    | with_reducible apply stallPacket_good
    | with_reducible apply putPacket_good
    | with_reducible apply removePacket_good
    | with_reducible apply returnCredits_good
    | with_reducible apply leaveBy_good
    | with_reducible apply Good.ite
    | split
    | (with_reducible refine Good.parts ?_ rfl rfl rfl rfl rfl rfl rfl rfl rfl rfl; with_reducible assumption)

theorem execFabricForward_good {t : Instant} {router : Fin 16} {output : Fin 12} {s : State} (h : Good fz t0 ws Q s) :
    ∀ u, execFabricForward t router output s = .next u → Good fz t0 ws Q u := by
  unfold execFabricForward
  try dsimp only
  refine event_good ?_ h
  intro s_ h_
  try dsimp only
  repeat' first
    | with_reducible assumption
    | intro _
    | with_reducible apply State_modFabric_good
    | with_reducible apply stallPacket_good
    | with_reducible apply removePacket_good
    | with_reducible apply returnCredits_good
    | with_reducible apply dropPacket_good
    | with_reducible apply advancePacket_good
    | with_reducible apply Good.ite
    | with_reducible apply Good.foldl
    | split
    | (with_reducible refine Good.parts ?_ rfl rfl rfl rfl rfl rfl rfl rfl rfl rfl; with_reducible assumption)

theorem serveRows_good {k : Nat} {f : Flight} {router port : Nat} {cls : StallClass} {first : Nat} {s : State} (h :
    Good fz t0 ws Q s) :
    Good fz t0 ws Q (serveRows k f router port cls first s) := by
  unfold serveRows
  try dsimp only
  repeat' first
    | with_reducible assumption
    | intro _
    | with_reducible apply State_modLoft_good
    | with_reducible apply State_modFabric_good

theorem refuseRequest_good {k : Nat} {f : Flight} {router port : Nat} {tenant : Option Nat} {why x : Nat} {s : State}
    (h : Good fz t0 ws Q s) :
    Good fz t0 ws Q (refuseRequest k f router port tenant why x s) := by
  unfold refuseRequest
  try dsimp only
  repeat' first
    | with_reducible assumption
    | with_reducible apply removePacket_good
    | with_reducible apply nack_good
    | with_reducible apply refuseAccess_good
    | with_reducible apply Good.ite
    | split

theorem deliverStall_good {k : Nat} {f : Flight} {router port : Nat} {s : State} (h : Good fz t0 ws Q s) :
    Good fz t0 ws Q (deliverStall k f router port s) := by
  unfold deliverStall
  try dsimp only
  repeat' first
    | with_reducible assumption
    | with_reducible apply serveRows_good
    | with_reducible apply refuseRequest_good
    | with_reducible apply Good.ite
    | split

theorem readDramRows_good {p : Part} {a : Instant} {w : List Instr} {Q : List Contract → List Effect → Prop} : ∀ {n x : Nat} {fs : List SectorCheck} {s : State}, Good p a w Q s → Good p a w Q (readDramRows x n fs s).1
  | 0, _, _, _, h => h
  | n + 1, _, _, _, h => by
    simp only [readDramRows]
    exact readDramRows_good (readSectors_good h)

theorem deliverDram_good {k : Nat} {f : Flight} {router port : Nat} {found : List SectorCheck} {s : State} (h : Good
    fz t0 ws Q s) :
    Good fz t0 ws Q (deliverDram k f router port found s) := by
  unfold deliverDram
  try dsimp only
  repeat' first
    | with_reducible assumption
    | with_reducible apply removePacket_good
    | with_reducible apply readDramRows_good
    | with_reducible apply writeDram_good
    | with_reducible apply ack_good
    | with_reducible apply readData_good
    | with_reducible apply refuseRequest_good
    | with_reducible apply Good.ite
    | split

theorem execFabricDeliver_good {t : Instant} {router : Fin 16} {port : Fin 8} {found : List SectorCheck} {s : State}
    (h : Good fz t0 ws Q s) :
    ∀ u, execFabricDeliver t router port found s = .next u → Good fz t0 ws Q u := by
  unfold execFabricDeliver
  repeat' first
    | with_reducible refine event_good ?_ ?_
    | split
  all_goals repeat' first
    | with_reducible assumption
    | intro _
    | with_reducible apply removePacket_good
    | with_reducible apply countFabric_good
    | with_reducible apply deliverStall_good
    | with_reducible apply deliverDram_good
    | with_reducible apply Good.ite
    | split

theorem execGateRequest_good {t : Instant} {gateway : Fin 4} {s : State} (h : Good fz t0 ws Q s) :
    ∀ u, execGateRequest t gateway s = .next u → Good fz t0 ws Q u := by
  unfold execGateRequest
  try dsimp only
  repeat' with_reducible refine event_good ?_ ?_
  all_goals repeat' first
    | with_reducible assumption
    | intro _
    | with_reducible apply removePacket_good
    | with_reducible apply postTo_good
    | with_reducible apply State_modLoft_good
    | with_reducible apply nackFor_good
    | with_reducible apply serveRows_good
    | split

theorem takeMarks_good {r : Request} {p : Packet} {s : State} (h : Good fz t0 ws Q s) :
    Good fz t0 ws Q (takeMarks r p s) := by
  unfold takeMarks
  try dsimp only
  repeat' first
    | with_reducible assumption
    | intro _
    | with_reducible apply markRow_good
    | with_reducible apply markNode_good
    | with_reducible apply Good.ite
    | with_reducible apply Good.foldl
    | split

theorem storeGateRows_good {r : Request} {p : Packet} {s : State} (h : Good fz t0 ws Q s) :
    Good fz t0 ws Q (storeGateRows r p s) := by
  unfold storeGateRows
  try dsimp only
  repeat' first
    | with_reducible assumption
    | with_reducible apply store_good
    | with_reducible apply Good.ite
    | split

theorem recordRead_good {router port : Nat} {r : Request} {p : Packet} {s : State} (h : Good fz t0 ws Q s) :
    Good fz t0 ws Q (recordRead router port r p s) := by
  unfold recordRead
  repeat' first
    | with_reducible assumption
    | with_reducible apply tallyAccess_good
    | split

theorem takeResponse_good {router port key : Nat} {r : Request} {p : Packet} {s : State} (h : Good fz t0 ws Q s) :
    Good fz t0 ws Q (takeResponse router port key r p s) := by
  unfold takeResponse
  try dsimp only
  repeat' first
    | with_reducible assumption
    | with_reducible apply endRequest_good
    | with_reducible apply recordRead_good
    | with_reducible apply storeGateRows_good
    | with_reducible apply takeMarks_good
    | with_reducible apply State_modFabric_good
    | with_reducible apply Good.ite

theorem execFabricResponse_good {t : Instant} {router : Fin 16} {port : Fin 8} {s : State} (h : Good fz t0 ws Q s) :
    ∀ u, execFabricResponse t router port s = .next u → Good fz t0 ws Q u := by
  unfold execFabricResponse
  try dsimp only
  repeat' with_reducible refine event_good ?_ ?_
  all_goals repeat' first
    | with_reducible assumption
    | intro _
    | with_reducible apply removePacket_good
    | with_reducible apply countFabric_good
    | with_reducible apply takeResponse_good
    | with_reducible apply Good.ite
    | split

theorem execRequestExpiry_good {t : Instant} {router : Fin 16} {port : Fin 8} {tag : Fin 64} {s : State} (h : Good fz
    t0 ws Q s) :
    ∀ u, execRequestExpiry t router port tag s = .next u → Good fz t0 ws Q u := by
  unfold execRequestExpiry
  try dsimp only
  repeat' with_reducible refine event_good ?_ ?_
  all_goals repeat' first
    | with_reducible assumption
    | intro _
    | with_reducible apply endRequest_good
    | with_reducible apply countFabric_good
    | with_reducible apply Good.ite
    | split

theorem execTagHoldbackEnd_good {t : Instant} {router : Fin 16} {port : Fin 8} {tag : Fin 64} {s : State} (h : Good fz
    t0 ws Q s) :
    ∀ u, execTagHoldbackEnd t router port tag s = .next u → Good fz t0 ws Q u := by
  unfold execTagHoldbackEnd
  try dsimp only
  repeat' with_reducible refine event_good ?_ ?_
  all_goals repeat' first
    | with_reducible assumption
    | intro _
    | with_reducible apply State_modFabric_good
    | with_reducible apply Good.ite
    | split

theorem discardRequests_good {s : State} (h : Good fz t0 ws Q s) :
    Good fz t0 ws Q (discardRequests s) := by
  unfold discardRequests
  try dsimp only
  repeat' first
    | with_reducible assumption
    | intro _
    | with_reducible apply State_modFabric_good
    | with_reducible apply dropRequestAccesses_good
    | with_reducible apply countFabric_good
    | split
    | (with_reducible refine Good.parts ?_ rfl rfl rfl rfl rfl rfl rfl rfl rfl rfl; with_reducible assumption)

theorem quiesceFabric_good {s : State} (h : Good fz t0 ws Q s) :
    Good fz t0 ws Q (quiesceFabric s).1 := by
  unfold quiesceFabric
  try dsimp only
  repeat' first
    | with_reducible assumption
    | intro _
    | with_reducible apply State_modFabric_good
    | with_reducible apply dropRequestAccesses_good
    | with_reducible apply countFabric_good
    | with_reducible apply dropTallyWrites_good
    | (with_reducible refine Good.parts ?_ rfl rfl rfl rfl rfl rfl rfl rfl rfl rfl; with_reducible assumption)

theorem clearFabric_good {s : State} (h : Good fz t0 ws Q s) :
    Good fz t0 ws Q (clearFabric s) := by
  unfold clearFabric
  try dsimp only
  repeat' first
    | with_reducible assumption
    | intro _
    | with_reducible apply State_modFabric_good
    | with_reducible apply dropRequestAccesses_good
    | with_reducible apply countFabric_good
    | with_reducible apply dropTallyWrites_good
    | (with_reducible refine Good.parts ?_ rfl rfl rfl rfl rfl rfl rfl rfl rfl rfl; with_reducible assumption)

theorem applyEpoch_good {s : State} (h : Good fz t0 ws Q s) :
    Good fz t0 ws Q (applyEpoch s) := by
  unfold applyEpoch
  repeat' first
    | with_reducible assumption
    | with_reducible apply postAll_good
    | with_reducible apply State_modFabric_good
    | split

theorem execRouteLoad_good {t : Instant} {r : RingRef} {e : Entry} {buf : Option (List Byte)} {s : State} (h : Good fz t0 ws Q s) :
    ∀ u, execRouteLoad t r e buf s = .next u → Good fz t0 ws Q u := by
  unfold execRouteLoad
  try dsimp only
  refine bufCommand_good ?_ h
  intro q_ s_ h_
  try dsimp only
  repeat' first
    | with_reducible assumption
    | intro _
    | with_reducible apply State_modFabric_good
    | with_reducible apply done_good
    | split
    | (with_reducible refine Good.parts ?_ rfl rfl rfl rfl rfl rfl rfl rfl rfl rfl; with_reducible assumption)

theorem execEpochSwitch_good {t : Instant} {r : RingRef} {e : Entry} {s : State} (h : Good fz t0 ws Q s) :
    ∀ u, execEpochSwitch t r e s = .next u → Good fz t0 ws Q u := by
  unfold execEpochSwitch
  try dsimp only
  repeat' with_reducible refine command_good ?_ ?_
  all_goals repeat' first
    | with_reducible assumption
    | intro _
    | with_reducible apply State_modFabric_good
    | with_reducible apply deferredOk_good

/-! ### MemCommands -/

theorem beginMove_good {m : Move} {seq : Nat} {s : State} (h : Good fz t0 ws Q s) :
    Good fz t0 ws Q (beginMove m seq s) := by
  unfold beginMove
  repeat' (with_reducible refine Good.parts ?_ rfl rfl rfl rfl rfl rfl rfl rfl rfl rfl; with_reducible assumption)

theorem execMemWrite_good {t : Instant} {r : RingRef} {e : Entry} {s : State} (h : Good fz t0 ws Q s) :
    ∀ u, execMemWrite t r e s = .next u → Good fz t0 ws Q u := by
  unfold execMemWrite
  try dsimp only
  refine command_good ?_ h
  intro q_ s_ h_
  try dsimp only
  repeat' first
    | with_reducible assumption
    | intro _
    | with_reducible apply State_modDram_good
    | with_reducible apply beginMove_good
    | with_reducible apply Good.ite
    | split
    | (with_reducible refine Good.parts ?_ rfl rfl rfl rfl rfl rfl rfl rfl rfl rfl; with_reducible assumption)
    | with_reducible rfl
    | (show List.length _ = List.length _; simp [lmod]; done)

theorem execMemRead_good {t : Instant} {r : RingRef} {e : Entry} {s : State} (h : Good fz t0 ws Q s) :
    ∀ u, execMemRead t r e s = .next u → Good fz t0 ws Q u := by
  unfold execMemRead
  repeat' with_reducible refine command_good ?_ ?_
  all_goals repeat' first
    | with_reducible assumption
    | intro _
    | with_reducible apply beginMove_good

theorem execResidentDefine_good {t : Instant} {r : RingRef} {e : Entry} {s : State} (h : Good fz t0 ws Q s) :
    ∀ u, execResidentDefine t r e s = .next u → Good fz t0 ws Q u := by
  unfold execResidentDefine
  try dsimp only
  repeat' with_reducible refine command_good ?_ ?_
  all_goals repeat' first
    | with_reducible assumption
    | intro _
    | with_reducible apply done_good
    | with_reducible apply State_modLoft_good

theorem execResidentLoad_good {t : Instant} {r : RingRef} {e : Entry} {s : State} (h : Good fz t0 ws Q s) :
    ∀ u, execResidentLoad t r e s = .next u → Good fz t0 ws Q u := by
  unfold execResidentLoad
  try dsimp only
  repeat' first
    | with_reducible refine command_good ?_ ?_
    | with_reducible refine next_good ?_
    | split
  all_goals repeat' first
    | with_reducible assumption
    | intro _
    | with_reducible apply State_modLoft_good
    | with_reducible apply advance_good
    | with_reducible apply beginMove_good

theorem execResidentDelete_good {t : Instant} {r : RingRef} {e : Entry} {s : State} (h : Good fz t0 ws Q s) :
    ∀ u, execResidentDelete t r e s = .next u → Good fz t0 ws Q u := by
  unfold execResidentDelete
  try dsimp only
  repeat' first
    | with_reducible refine command_good ?_ ?_
    | with_reducible refine next_good ?_
    | split
  all_goals repeat' first
    | with_reducible assumption
    | intro _
    | with_reducible apply done_good
    | with_reducible apply State_modLoft_good
    | with_reducible apply advance_good
    | with_reducible apply undefineRows_good
    | split

theorem execGateOpen_good {t : Instant} {r : RingRef} {e : Entry} {s : State} (h : Good fz t0 ws contractsApart s) :
    ∀ u, execGateOpen t r e s = .next u → Good fz t0 ws contractsApart u := by
  unfold execGateOpen
  try dsimp only
  repeat' with_reducible refine command_good ?_ ?_
  all_goals repeat' first
    | with_reducible assumption
    | intro _
    | with_reducible apply State_modLoft_good
    | with_reducible apply deferStar_good
    | contradiction

theorem execGateClose_good {t : Instant} {r : RingRef} {e : Entry} {s : State} (h : Good fz t0 ws contractsApart s) :
    ∀ u, execGateClose t r e s = .next u → Good fz t0 ws contractsApart u := by
  unfold execGateClose
  try dsimp only
  repeat' with_reducible refine command_good ?_ ?_
  all_goals repeat' first
    | with_reducible assumption
    | intro _
    | with_reducible apply State_modLoft_good
    | with_reducible apply deferStar_good
    | contradiction

theorem enableEcc_good {k : Nat} {r : Nat × Nat} {s : State} (h : Good fz t0 ws Q s) :
    Good fz t0 ws Q (enableEcc k r s) := by
  unfold enableEcc
  try dsimp only
  repeat' first
    | with_reducible assumption
    | intro _
    | with_reducible apply drawn_good
    | with_reducible apply State_modDram_good
    | with_reducible apply Mem.undefine_wf
    | with_reducible apply Mem.zero_wf
    | with_reducible rfl

theorem disableEcc_good {k : Nat} {r : Nat × Nat} {s : State} (h : Good fz t0 ws Q s) :
    Good fz t0 ws Q (disableEcc k r s) := by
  unfold disableEcc
  try dsimp only
  repeat' first
    | with_reducible assumption
    | intro _
    | with_reducible apply drawn_good
    | with_reducible apply State_modDram_good
    | with_reducible apply Mem.undefine_wf
    | with_reducible rfl

theorem execEccRegionSet_good {t : Instant} {r : RingRef} {e : Entry} {s : State} (h : Good fz t0 ws Q s) :
    ∀ u, execEccRegionSet t r e s = .next u → Good fz t0 ws Q u := by
  unfold execEccRegionSet
  try dsimp only
  repeat' first
    | with_reducible refine command_good ?_ ?_
    | split
  all_goals repeat' first
    | with_reducible assumption
    | intro _
    | with_reducible apply done_good
    | with_reducible apply enableEcc_good
    | with_reducible apply disableEcc_good
    | split

/-! ### GraphCommands -/

theorem graphCommand_good {p : Part} {a : Instant} {w : List Instr} {Q : List Contract → List Effect → Prop} {op : Nat} {t : Instant} {r : RingRef} {e : Entry}
    {cs : State → List (Bool × Status)} {body : Nat → State → State} {s : State}
    (hb : ∀ q s, Good p a w Q s → Good p a w Q (body q s)) (h : Good p a w Q s) :
    ∀ u, graphCommand op t r e cs body s = .next u → Good p a w Q u := by
  unfold graphCommand
  split
  · intro u hu
    cases hu
    exact advance_good h
  · exact command_good hb h

theorem execGraphLoad_good {t : Instant} {r : RingRef} {e : Entry} {s : State} (h : Good fz t0 ws Q s) :
    ∀ u, execGraphLoad t r e s = .next u → Good fz t0 ws Q u := by
  unfold execGraphLoad
  repeat' with_reducible refine graphCommand_good ?_ ?_
  all_goals repeat' first
    | with_reducible assumption
    | intro _
    | with_reducible apply beginMove_good

theorem endGraphLoad_good {seq tenant slot len : Nat} {data : Option (List Byte)} {s : State} (h : Good fz t0 ws Q s)
    :
    Good fz t0 ws Q (endGraphLoad seq tenant slot len data s) := by
  unfold endGraphLoad
  try dsimp only
  repeat' first
    | with_reducible assumption
    | with_reducible apply finish_good
    | with_reducible apply State_modDrover_good
    | with_reducible rfl
    | split

theorem execGraphUnload_good {p : Part} {a : Instant} {w : List Instr} {t : Instant} {r : RingRef} {e : Entry} {s : State}
    (h : Good p a w contractsApart s) : ∀ u, execGraphUnload t r e s = .next u → Good p a w contractsApart u := by
  unfold execGraphUnload
  refine graphCommand_good (fun q s h => done_good ?_) h
  exact h.fewer (fun n c hm => (List.mem_filter.1 hm).1) rfl rfl rfl rfl rfl rfl rfl rfl fun hh => hh

theorem execGraphArm_good {t : Instant} {r : RingRef} {e : Entry} {s : State} (h : Good fz t0 ws contractsApart s) :
    ∀ u, execGraphArm t r e s = .next u → Good fz t0 ws contractsApart u := by
  unfold execGraphArm
  try dsimp only
  repeat' with_reducible refine graphCommand_good ?_ ?_
  all_goals repeat' first
    | with_reducible assumption
    | intro _
    | with_reducible apply done_good
    | with_reducible apply State_modGraph_good
    | with_reducible apply defer_good
    | with_reducible apply deferredOk_good
    | with_reducible apply Good.ite
    | contradiction
    | split

theorem execGraphDisarm_good {p : Part} {a : Instant} {w : List Instr} {t : Instant} {r : RingRef} {e : Entry} {s : State}
    (h : Good p a w contractsApart s) : ∀ u, execGraphDisarm t r e s = .next u → Good p a w contractsApart u := by
  unfold execGraphDisarm
  refine graphCommand_good (fun q s h => ?_) h
  try dsimp only
  split
  · exact done_good (h.fewer (fun n c hm => (List.mem_filter.1 hm).1) rfl rfl rfl rfl rfl rfl rfl rfl fun hh => hh)
  · exact deferredOk_good (defer_good h fun _ _ hh => by cases hh)

theorem execGraphParamSet_good {t : Instant} {r : RingRef} {e : Entry} {s : State} (h : Good fz t0 ws contractsApart
    s) :
    ∀ u, execGraphParamSet t r e s = .next u → Good fz t0 ws contractsApart u := by
  unfold execGraphParamSet
  try dsimp only
  repeat' with_reducible refine graphCommand_good ?_ ?_
  all_goals repeat' first
    | with_reducible assumption
    | intro _
    | with_reducible apply defer_good
    | with_reducible apply deferredOk_good
    | contradiction

theorem execGraphStatus_good {t : Instant} {r : RingRef} {e : Entry} {s : State} (h : Good fz t0 ws Q s) :
    ∀ u, execGraphStatus t r e s = .next u → Good fz t0 ws Q u := by
  unfold execGraphStatus
  try dsimp only
  repeat' with_reducible refine graphCommand_good ?_ ?_
  all_goals repeat' first
    | with_reducible assumption
    | intro _
    | with_reducible apply done_good
    | with_reducible apply finish_good
    | split

theorem execFrameAbort_good {t : Instant} {r : RingRef} {e : Entry} {s : State} (h : Good fz t0 ws Q s) :
    ∀ u, execFrameAbort t r e s = .next u → Good fz t0 ws Q u := by
  unfold execFrameAbort
  try dsimp only
  repeat' first
    | with_reducible refine graphCommand_good ?_ ?_
    | split
  all_goals repeat' first
    | with_reducible assumption
    | intro _
    | with_reducible apply done_good
    | with_reducible apply sendAbort_good
    | with_reducible apply abortInst_good
    | split

theorem execTetherSignal_good {t : Instant} {r : RingRef} {e : Entry} {s : State} (h : Good fz t0 ws Q s) :
    ∀ u, execTetherSignal t r e s = .next u → Good fz t0 ws Q u := by
  unfold execTetherSignal
  try dsimp only
  repeat' with_reducible refine command_good ?_ ?_
  all_goals repeat' first
    | with_reducible assumption
    | intro _
    | with_reducible apply done_good
    | with_reducible apply settleTethers_good
    | with_reducible apply tetherAdd_good

theorem execTetherRead_good {t : Instant} {r : RingRef} {e : Entry} {s : State} (h : Good fz t0 ws Q s) :
    ∀ u, execTetherRead t r e s = .next u → Good fz t0 ws Q u := by
  unfold execTetherRead
  try dsimp only
  repeat' with_reducible refine command_good ?_ ?_
  all_goals repeat' first
    | with_reducible assumption
    | intro _
    | with_reducible apply finish_good

/-! ### LinkRows -/

theorem countLink_good {p : Nat} {f : LinkCounts → LinkCounts} {s : State} (h : Good fz t0 ws Q s) :
    Good fz t0 ws Q (countLink p f s) := by
  unfold countLink
  repeat' first
    | with_reducible assumption
    | with_reducible apply State_modLink_good

theorem startTraining_good {p : Nat} {s : State} (h : Good fz t0 ws Q s) :
    Good fz t0 ws Q (startTraining p s) := by
  unfold startTraining
  repeat' first
    | with_reducible assumption
    | with_reducible apply State_modLink_good
    | with_reducible apply emit_good

theorem disablePort_good {p : Nat} {s : State} (h : Good fz t0 ws Q s) :
    Good fz t0 ws Q (disablePort p s) := by
  unfold disablePort
  repeat' first
    | with_reducible assumption
    | with_reducible apply State_modLink_good

theorem linkUp_good {p chip delay : Nat} {s : State} (h : Good fz t0 ws Q s) :
    Good fz t0 ws Q (linkUp p chip delay s) := by
  unfold linkUp
  try dsimp only
  repeat' first
    | with_reducible assumption
    | with_reducible apply postAll_good
    | with_reducible apply State_modLink_good

theorem beginReroute_good {chip p : Nat} {s : State} (h : Good fz t0 ws Q s) :
    Good fz t0 ws Q (beginReroute chip p s) := by
  unfold beginReroute
  try dsimp only
  repeat' first
    | with_reducible assumption
    | with_reducible apply Good.ite
    | (with_reducible refine Good.parts ?_ rfl rfl rfl rfl rfl rfl rfl rfl rfl rfl; with_reducible apply State_modFabric_good)

theorem rerouteSlot_good {s : State} (h : Good fz t0 ws Q s) :
    Good fz t0 ws Q (rerouteSlot s) := by
  unfold rerouteSlot
  repeat' first
    | with_reducible assumption
    | with_reducible apply postAll_good
    | with_reducible apply Good.ite
    | (with_reducible refine Good.parts ?_ rfl rfl rfl rfl rfl rfl rfl rfl rfl rfl; with_reducible assumption)
    | split

theorem rerouteSwitch_good {s : State} (h : Good fz t0 ws Q s) :
    Good fz t0 ws Q (rerouteSwitch s) := by
  unfold rerouteSwitch
  try dsimp only
  repeat' first
    | with_reducible assumption
    | with_reducible apply postAll_good
    | with_reducible apply applyEpoch_good
    | with_reducible apply State_modFabric_good
    | with_reducible apply Good.ite
    | (with_reducible refine Good.parts ?_ rfl rfl rfl rfl rfl rfl rfl rfl rfl rfl; with_reducible assumption)
    | split

theorem goDown_good {p : Nat} {cause : DownCause} {s : State} (h : Good fz t0 ws Q s) :
    Good fz t0 ws Q (goDown p cause s) := by
  unfold goDown
  try dsimp only
  repeat' first
    | with_reducible assumption
    | intro _
    | with_reducible apply endRequest_good
    | with_reducible apply postAll_good
    | with_reducible apply State_modLink_good
    | with_reducible apply emit_good
    | with_reducible apply beginReroute_good
    | with_reducible apply abortSystem_good
    | with_reducible apply raiseAlert_good
    | with_reducible apply Good.ite
    | with_reducible apply Good.foldl

theorem execPlinkControl_good {t : Instant} {r : RingRef} {e : Entry} {s : State} (h : Good fz t0 ws Q s) :
    ∀ u, execPlinkControl t r e s = .next u → Good fz t0 ws Q u := by
  unfold execPlinkControl
  try dsimp only
  repeat' first
    | with_reducible refine command_good ?_ ?_
    | split
  all_goals repeat' first
    | with_reducible assumption
    | intro _
    | with_reducible apply done_good
    | with_reducible apply disablePort_good
    | with_reducible apply goDown_good
    | with_reducible apply startTraining_good

theorem execPlinkTrainingEnd_good {t : Instant} {port : Fin 4} {result : TrainResult} {s : State} (h : Good fz t0 ws Q
    s) :
    ∀ u, execPlinkTrainingEnd t port result s = .next u → Good fz t0 ws Q u := by
  unfold execPlinkTrainingEnd
  try dsimp only
  repeat' first
    | with_reducible refine event_good ?_ ?_
    | split
  all_goals repeat' first
    | with_reducible assumption
    | intro _
    | with_reducible apply postAll_good
    | with_reducible apply State_modLink_good
    | with_reducible apply countLink_good
    | with_reducible apply linkUp_good
    | with_reducible apply Good.ite

theorem execTrainRetryTimer_good {t : Instant} {port : Fin 4} {s : State} (h : Good fz t0 ws Q s) :
    ∀ u, execTrainRetryTimer t port s = .next u → Good fz t0 ws Q u := by
  unfold execTrainRetryTimer
  try dsimp only
  repeat' with_reducible refine event_good ?_ ?_
  all_goals repeat' first
    | with_reducible assumption
    | intro _
    | with_reducible apply startTraining_good
    | with_reducible apply Good.ite

theorem execDownHoldEnd_good {t : Instant} {port : Fin 4} {s : State} (h : Good fz t0 ws Q s) :
    ∀ u, execDownHoldEnd t port s = .next u → Good fz t0 ws Q u := by
  unfold execDownHoldEnd
  try dsimp only
  repeat' with_reducible refine event_good ?_ ?_
  all_goals repeat' first
    | with_reducible assumption
    | intro _
    | with_reducible apply startTraining_good
    | with_reducible apply Good.ite

theorem ingress_good {g : Nat} {p : Packet} {s : State} (h : Good fz t0 ws Q s) :
    Good fz t0 ws Q (ingress g p s) := by
  unfold ingress
  try dsimp only
  repeat' first
    | with_reducible assumption
    | with_reducible apply State_modLink_good
    | with_reducible apply countFabric_good
    | with_reducible apply putPacket_good
    | with_reducible apply nack_good
    | with_reducible apply Good.ite

theorem execLinkFrameReceived_good {t : Instant} {port : Fin 4} {seq : BitVec 12} {h0 h1 : BitVec 64} {rest : List
    Byte} {whole : Bool} {s : State} (h : Good fz t0 ws Q s) :
    ∀ u, execLinkFrameReceived t port seq h0 h1 rest whole s = .next u → Good fz t0 ws Q u := by
  unfold execLinkFrameReceived
  try dsimp only
  repeat' first
    | with_reducible refine event_good ?_ ?_
    | split
  all_goals repeat' first
    | with_reducible assumption
    | intro _
    | with_reducible apply State_modLink_good
    | with_reducible apply countLink_good
    | with_reducible apply tallyIngress_good
    | with_reducible apply ingress_good
    | with_reducible apply sendCtl_good
    | with_reducible apply Good.ite

theorem execFecCodeword_good {t : Instant} {port : Fin 4} {symbols : Option (Fin 5)} {s : State} (h : Good fz t0 ws Q
    s) :
    ∀ u, execFecCodeword t port symbols s = .next u → Good fz t0 ws Q u := by
  unfold execFecCodeword
  repeat' first
    | with_reducible refine event_good ?_ ?_
    | split
  all_goals repeat' first
    | with_reducible assumption
    | intro _
    | with_reducible apply countLink_good
    | with_reducible apply Good.ite

theorem replayAttempt_good {p : Nat} {s : State} (h : Good fz t0 ws Q s) :
    Good fz t0 ws Q (replayAttempt p s) := by
  unfold replayAttempt
  try dsimp only
  repeat' first
    | with_reducible assumption
    | intro _
    | with_reducible apply State_modLink_good
    | with_reducible apply emit_good
    | with_reducible apply goDown_good
    | with_reducible apply Good.ite
    | with_reducible apply Good.foldl
    | split

theorem takeAck_good {p n : Nat} {s : State} (h : Good fz t0 ws Q s) :
    Good fz t0 ws Q (takeAck p n s) := by
  unfold takeAck
  repeat' first
    | with_reducible assumption
    | with_reducible apply State_modLink_good
    | with_reducible apply Good.ite

theorem takeNak_good {p n : Nat} {s : State} (h : Good fz t0 ws Q s) :
    Good fz t0 ws Q (takeNak p n s) := by
  unfold takeNak
  repeat' first
    | with_reducible assumption
    | with_reducible apply replayAttempt_good
    | with_reducible apply Good.ite
    | split

theorem execLinkCtlReceived_good {t : Instant} {port : Fin 4} {fields : BitVec 56} {s : State} (h : Good fz t0 ws Q s)
    :
    ∀ u, execLinkCtlReceived t port fields s = .next u → Good fz t0 ws Q u := by
  unfold execLinkCtlReceived
  try dsimp only
  repeat' first
    | with_reducible refine event_good ?_ ?_
    | split
  all_goals repeat' first
    | with_reducible assumption
    | intro _
    | with_reducible apply State_modLink_good
    | with_reducible apply takeNak_good
    | with_reducible apply takeAck_good
    | with_reducible apply Good.ite

theorem execReplayTimer_good {t : Instant} {port : Fin 4} {s : State} (h : Good fz t0 ws Q s) :
    ∀ u, execReplayTimer t port s = .next u → Good fz t0 ws Q u := by
  unfold execReplayTimer
  try dsimp only
  repeat' with_reducible refine event_good ?_ ?_
  all_goals repeat' first
    | with_reducible assumption
    | intro _
    | with_reducible apply replayAttempt_good
    | with_reducible apply Good.ite

theorem execAckTimer_good {t : Instant} {port : Fin 4} {s : State} (h : Good fz t0 ws Q s) :
    ∀ u, execAckTimer t port s = .next u → Good fz t0 ws Q u := by
  unfold execAckTimer
  try dsimp only
  repeat' with_reducible refine event_good ?_ ?_
  all_goals repeat' first
    | with_reducible assumption
    | intro _
    | with_reducible apply sendCtl_good
    | with_reducible apply Good.ite

theorem execNoAckTimeout_good {t : Instant} {port : Fin 4} {s : State} (h : Good fz t0 ws Q s) :
    ∀ u, execNoAckTimeout t port s = .next u → Good fz t0 ws Q u := by
  unfold execNoAckTimeout
  try dsimp only
  repeat' with_reducible refine event_good ?_ ?_
  all_goals repeat' first
    | with_reducible assumption
    | intro _
    | with_reducible apply goDown_good
    | with_reducible apply Good.ite

theorem execFecLockLost_good {t : Instant} {port : Fin 4} {s : State} (h : Good fz t0 ws Q s) :
    ∀ u, execFecLockLost t port s = .next u → Good fz t0 ws Q u := by
  unfold execFecLockLost
  repeat' with_reducible refine event_good ?_ ?_
  all_goals repeat' first
    | with_reducible assumption
    | intro _
    | with_reducible apply goDown_good

theorem execPartnerBlockReceived_good {t : Instant} {port : Fin 4} {blockType : BitVec 8} {s : State} (h : Good fz t0
    ws Q s) :
    ∀ u, execPartnerBlockReceived t port blockType s = .next u → Good fz t0 ws Q u := by
  unfold execPartnerBlockReceived
  repeat' first
    | with_reducible refine event_good ?_ ?_
    | split
  all_goals repeat' first
    | with_reducible assumption
    | intro _
    | with_reducible apply countLink_good
    | with_reducible apply goDown_good
    | with_reducible apply Good.ite

theorem recalStep_good {p : Nat} {s : State} (h : Good fz t0 ws Q s) :
    Good fz t0 ws Q (recalStep p s) := by
  unfold recalStep
  repeat' first
    | with_reducible assumption
    | with_reducible apply State_modLink_good
    | with_reducible apply emit_good
    | with_reducible apply Good.ite

theorem recalSlot_good {s : State} (h : Good fz t0 ws Q s) :
    Good fz t0 ws Q (recalSlot s) := by
  unfold recalSlot
  repeat' first
    | with_reducible assumption
    | intro _
    | with_reducible apply recalStep_good
    | with_reducible apply Good.foldl

theorem execRecalBlockReceived_good {t : Instant} {port : Fin 4} {s : State} (h : Good fz t0 ws Q s) :
    ∀ u, execRecalBlockReceived t port s = .next u → Good fz t0 ws Q u := by
  unfold execRecalBlockReceived
  repeat' with_reducible refine event_good ?_ ?_
  all_goals repeat' first
    | with_reducible assumption
    | intro _
    | with_reducible apply recalStep_good
    | with_reducible apply countLink_good
    | with_reducible apply Good.ite

theorem execIdleRecalTimer_good {t : Instant} {s : State} (h : Good fz t0 ws Q s) :
    ∀ u, execIdleRecalTimer t s = .next u → Good fz t0 ws Q u := by
  unfold execIdleRecalTimer
  try dsimp only
  repeat' with_reducible refine event_good ?_ ?_
  all_goals repeat' first
    | with_reducible assumption
    | intro _
    | with_reducible apply recalStep_good
    | with_reducible apply Good.ite
    | with_reducible apply Good.foldl

theorem execAbortReceived_good {t : Instant} {port : Fin 4} {s : State} (h : Good fz t0 ws Q s) :
    ∀ u, execAbortReceived t port s = .next u → Good fz t0 ws Q u := by
  unfold execAbortReceived
  try dsimp only
  refine event_good ?_ h
  intro s_ h_
  try dsimp only
  repeat' first
    | with_reducible assumption
    | intro _
    | with_reducible apply spoilGateRows_good
    | with_reducible apply floodAbort_good
    | with_reducible apply postAborted_good
    | with_reducible apply abortInst_good
    | with_reducible apply removePacket_good
    | with_reducible apply countLink_good
    | with_reducible apply Good.ite
    | split
    | (with_reducible refine Good.parts ?_ rfl rfl rfl rfl rfl rfl rfl rfl rfl rfl; with_reducible assumption)

theorem execFwMsgReceived_good {t : Instant} {port : Fin 4} {msg : FwMessage} {s : State} (h : Good fz t0 ws Q s) :
    ∀ u, execFwMsgReceived t port msg s = .next u → Good fz t0 ws Q u := by
  unfold execFwMsgReceived
  try dsimp only
  repeat' first
    | with_reducible refine event_good ?_ ?_
    | split
  all_goals repeat' first
    | with_reducible assumption
    | intro _
    | with_reducible apply postAll_good
    | with_reducible apply beginReroute_good
    | with_reducible apply Good.ite
    | (with_reducible refine Good.parts ?_ rfl rfl rfl rfl rfl rfl rfl rfl rfl rfl; first | with_reducible assumption | with_reducible apply State_modFabric_good)
    | split

theorem flushLinksIf_good {test : PLink → Bool} {s : State} (h : Good fz t0 ws Q s) :
    Good fz t0 ws Q (flushLinksIf test s) := by
  unfold flushLinksIf
  try dsimp only
  repeat' first
    | with_reducible assumption
    | intro _
    | with_reducible apply State_modLink_good
    | with_reducible apply sendCtl_good
    | with_reducible apply countFabric_good
    | with_reducible apply Good.ite
    | with_reducible apply Good.foldl
    | split
    | (with_reducible refine Good.parts ?_ rfl rfl rfl rfl rfl rfl rfl rfl rfl rfl; with_reducible assumption)

theorem flushLinks_good {s : State} (h : Good fz t0 ws Q s) :
    Good fz t0 ws Q (flushLinks s) := by
  unfold flushLinks
  try dsimp only
  repeat' first
    | with_reducible assumption
    | intro _
    | with_reducible apply flushLinksIf_good

theorem clearLinks_good {s : State} (h : Good fz t0 ws Q s) :
    Good fz t0 ws Q (clearLinks s) := by
  unfold clearLinks
  try dsimp only
  repeat' first
    | with_reducible assumption
    | intro _
    | with_reducible apply flushLinksIf_good

end Sys2Proof.Machine
end

