-- ==== Sys2Proof/Laws/KeepCamera.lean ====
section
/-!
SUPPORT. Every operation keeps a good state good: cameras, and the rows of the memories.
-/
namespace Sys2Proof.Machine

set_option maxRecDepth 2000
set_option linter.unusedSimpArgs false
set_option linter.unusedTactic false
set_option linter.unreachableTactic false

variable {fz : Part} {t0 : Instant} {ws : List Instr} {Q : List Contract → List Effect → Prop}

/-! ### CameraRows -/

theorem execCsiFrameStart_good {t : Instant} {port : Fin 8} {vc : Fin 32} {number : BitVec 16} {hdr : HeaderCheck} {s
    : State} (h : Good fz t0 ws Q s) :
    ∀ u, execCsiFrameStart t port vc number hdr s = .next u → Good fz t0 ws Q u := by
  unfold execCsiFrameStart
  repeat' with_reducible refine event_good ?_ ?_
  all_goals repeat' first
    | with_reducible assumption
    | intro _
    | with_reducible apply withHeader_good
    | with_reducible apply frameStart_good

theorem checkPayload_good {port : Nat} {crcOk : Bool} {s : State} (h : Good fz t0 ws Q s) :
    Good fz t0 ws Q (checkPayload port crcOk s) := by
  unfold checkPayload
  try dsimp only
  repeat' first
    | with_reducible assumption
    | with_reducible apply countPort_good
    | with_reducible apply portError_good
    | with_reducible apply Good.ite

theorem toFrames_good {port : Nat} {ks : List Nat} {f : Nat → State → State} {s : State} (k2 : ∀ y0 s_, Good fz t0 ws
    Q s_ → Good fz t0 ws Q (f y0 s_)) (h : Good fz t0 ws Q s) :
    Good fz t0 ws Q (toFrames port ks f s) := by
  unfold toFrames
  try dsimp only
  repeat' first
    | with_reducible assumption
    | intro _
    | with_reducible apply k2
    | with_reducible apply portError_good
    | with_reducible apply Good.ite
    | with_reducible apply Good.foldl

theorem execCsiLongPacket_good {t : Instant} {port : Fin 8} {vc : Fin 32} {dt : BitVec 6} {data : List Byte} {hdr :
    HeaderCheck} {crcOk : Bool} {s : State} (h : Good fz t0 ws Q s) :
    ∀ u, execCsiLongPacket t port vc dt data hdr crcOk s = .next u → Good fz t0 ws Q u := by
  unfold execCsiLongPacket
  try dsimp only
  repeat' first
    | with_reducible refine event_good ?_ ?_
    | split
  all_goals repeat' first
    | with_reducible assumption
    | intro _
    | with_reducible apply toFrames_good
    | with_reducible apply withHeader_good
    | with_reducible apply portError_good
    | with_reducible apply checkPayload_good
    | with_reducible apply countCorrected_good
    | with_reducible apply takeLine_good

theorem execCsiEmbeddedData_good {t : Instant} {port : Fin 8} {vc : Fin 32} {data : List Byte} {hdr : HeaderCheck}
    {crcOk : Bool} {s : State} (h : Good fz t0 ws Q s) :
    ∀ u, execCsiEmbeddedData t port vc data hdr crcOk s = .next u → Good fz t0 ws Q u := by
  unfold execCsiEmbeddedData
  try dsimp only
  repeat' with_reducible refine event_good ?_ ?_
  all_goals repeat' first
    | with_reducible assumption
    | intro _
    | with_reducible apply modFrame_good
    | with_reducible apply toFrames_good
    | with_reducible apply withHeader_good
    | with_reducible apply checkPayload_good
    | with_reducible apply takeEmbedded_good
    | with_reducible apply countCorrected_good

theorem execCsiShortPacket_good {t : Instant} {port : Fin 8} {vc : Fin 32} {dt : BitVec 6} {hdr : HeaderCheck} {s :
    State} (h : Good fz t0 ws Q s) :
    ∀ u, execCsiShortPacket t port vc dt hdr s = .next u → Good fz t0 ws Q u := by
  unfold execCsiShortPacket
  repeat' first
    | with_reducible refine event_good ?_ ?_
    | split
  all_goals repeat' first
    | with_reducible assumption
    | intro _
    | with_reducible apply withHeader_good
    | with_reducible apply portError_good
    | with_reducible apply countCorrected_good

theorem endDiscards_good {ks : List Nat} {s : State} (h : Good fz t0 ws Q s) :
    Good fz t0 ws Q (endDiscards ks s) := by
  unfold endDiscards
  try dsimp only
  repeat' first
    | with_reducible assumption
    | intro _
    | with_reducible apply State_modCtx_good
    | with_reducible apply Good.foldl
    | (with_reducible refine Good.parts ?_ rfl rfl rfl rfl rfl rfl rfl rfl rfl rfl; with_reducible assumption)

theorem execCsiFrameEnd_good {t : Instant} {port : Fin 8} {vc : Fin 32} {hdr : HeaderCheck} {s : State} (h : Good fz t0 ws Q s) :
    ∀ u, execCsiFrameEnd t port vc hdr s = .next u → Good fz t0 ws Q u := by
  unfold execCsiFrameEnd
  try dsimp only
  refine event_good ?_ h
  intro s_ h_
  try dsimp only
  repeat' first
    | with_reducible assumption
    | intro _
    | with_reducible apply withHeader_good
    | with_reducible apply countCorrected_good
    | with_reducible apply frameEnd_good
    | with_reducible apply toFrames_good
    | with_reducible apply endDiscards_good

theorem execFrameRecordWrite_good {t : Instant} {lane : Fin 8} {context : Fin 4} {s : State} (h : Good fz t0 ws Q s) :
    ∀ u, execFrameRecordWrite t lane context s = .next u → Good fz t0 ws Q u := by
  unfold execFrameRecordWrite
  try dsimp only
  repeat' with_reducible refine event_good ?_ ?_
  all_goals repeat' first
    | with_reducible assumption
    | intro _
    | with_reducible apply writeRecord_good
    | with_reducible apply Good.ite
    | split

theorem execLaneInputTimeout_good {t : Instant} {g : GraphRef} {node : Nat} {s : State} (h : Good fz t0 ws Q s) :
    ∀ u, execLaneInputTimeout t g node s = .next u → Good fz t0 ws Q u := by
  unfold execLaneInputTimeout
  try dsimp only
  refine event_good ?_ h
  intro s_ h_
  try dsimp only
  repeat' first
    | with_reducible assumption
    | intro _
    | with_reducible apply State_modLane_good
    | with_reducible apply endLaneInput_good
    | with_reducible apply cutFrame_good
    | with_reducible apply Good.ite
    | split
    | (with_reducible refine Good.parts ?_ rfl rfl rfl rfl rfl rfl rfl rfl rfl rfl; with_reducible assumption)

theorem execPortQuietEnd_good {t : Instant} {port : Fin 8} {s : State} (h : Good fz t0 ws Q s) :
    ∀ u, execPortQuietEnd t port s = .next u → Good fz t0 ws Q u := by
  unfold execPortQuietEnd
  repeat' with_reducible refine event_good ?_ ?_
  all_goals repeat' first
    | with_reducible assumption
    | intro _
    | with_reducible apply State_modPort_good

theorem driveFsync_good {k : Nat} {level : Bool} {s : State} (h : Good fz t0 ws Q s) :
    Good fz t0 ws Q (driveFsync k level s) := by
  unfold driveFsync
  repeat' first
    | with_reducible assumption
    | with_reducible apply emit_good
    | with_reducible apply State_modFsync_good
    | with_reducible apply Good.ite

theorem execFsyncEdge_good {t : Instant} {output : Fin 8} {s : State} (h : Good fz t0 ws Q s) :
    ∀ u, execFsyncEdge t output s = .next u → Good fz t0 ws Q u := by
  unfold execFsyncEdge
  repeat' with_reducible refine event_good ?_ ?_
  all_goals repeat' first
    | with_reducible assumption
    | intro _
    | with_reducible apply driveFsync_good

theorem openFsync_good {s : State} (h : Good fz t0 ws Q s) :
    Good fz t0 ws Q (openFsync s) := by
  unfold openFsync
  try dsimp only
  repeat' first
    | with_reducible assumption
    | intro _
    | with_reducible apply postAll_good
    | with_reducible apply State_modFsync_good
    | with_reducible apply Good.ite
    | with_reducible apply Good.foldl

theorem xferEnd_good {k : Nat} {ok : Bool} {s : State} (h : Good fz t0 ws Q s) :
    Good fz t0 ws Q (xferEnd k ok s) := by
  unfold xferEnd
  repeat' first
    | with_reducible assumption
    | with_reducible apply State_modI2c_good

theorem xferFail_good {k cause : Nat} {at_ : Option Nat} {s : State} (h : Good fz t0 ws Q s) :
    Good fz t0 ws Q (xferFail k cause at_ s) := by
  unfold xferFail
  try dsimp only
  repeat' first
    | with_reducible assumption
    | intro _
    | with_reducible apply postTenant_good
    | with_reducible apply xferEnd_good
    | split
    | (with_reducible refine Good.parts ?_ rfl rfl rfl rfl rfl rfl rfl rfl rfl rfl; with_reducible assumption)

theorem xferNext_good {k : Nat} {x : Transfer} {o : Nat} {reads : List XferRead} {s : State} (h : Good fz t0 ws Q s) :
    Good fz t0 ws Q (xferNext k x o reads s) := by
  unfold xferNext
  try dsimp only
  repeat' first
    | with_reducible assumption
    | intro _
    | with_reducible apply State_modI2c_good
    | with_reducible apply emit_good
    | with_reducible apply hostWrite_good
    | with_reducible apply postTenant_good
    | with_reducible apply xferEnd_good
    | with_reducible apply Good.ite
    | with_reducible apply Good.foldl
    | split
    | (with_reducible refine Good.parts ?_ rfl rfl rfl rfl rfl rfl rfl rfl rfl rfl; with_reducible assumption)

theorem openXfers_good {s : State} (h : Good fz t0 ws Q s) :
    Good fz t0 ws Q (openXfers s) := by
  unfold openXfers
  try dsimp only
  repeat' first
    | with_reducible assumption
    | intro _
    | with_reducible apply Good.ite
    | split
    | (with_reducible refine Good.parts ?_ rfl rfl rfl rfl rfl rfl rfl rfl rfl rfl; with_reducible assumption)
    | (with_reducible refine Good.parts ?_ rfl rfl rfl rfl rfl rfl rfl rfl rfl (by simp only [lmod, List.length_modify, List.length_map, List.length_set]); with_reducible assumption)

theorem execSensorXferStart_good {t : Instant} {controller : Fin 8} {s : State} (h : Good fz t0 ws Q s) :
    ∀ u, execSensorXferStart t controller s = .next u → Good fz t0 ws Q u := by
  unfold execSensorXferStart
  try dsimp only
  refine event_good ?_ h
  intro s_ h_
  try dsimp only
  repeat' first
    | with_reducible assumption
    | intro _
    | with_reducible apply State_modI2c_good
    | with_reducible apply xferNext_good
    | with_reducible apply Good.ite
    | split
    | (with_reducible refine Good.parts ?_ rfl rfl rfl rfl rfl rfl rfl rfl rfl rfl; with_reducible assumption)

theorem execI2cTransactionEnd_good {t : Instant} {controller : Fin 8} {result : I2cResult} {s : State} (h : Good fz t0 ws Q s) :
    ∀ u, execI2cTransactionEnd t controller result s = .next u → Good fz t0 ws Q u := by
  unfold execI2cTransactionEnd
  try dsimp only
  refine event_good ?_ h
  intro s_ h_
  try dsimp only
  repeat' first
    | with_reducible assumption
    | intro _
    | with_reducible apply State_modI2c_good
    | with_reducible apply done_good
    | with_reducible apply xferFail_good
    | with_reducible apply xferNext_good
    | with_reducible apply Good.ite
    | split
    | (with_reducible refine Good.parts ?_ rfl rfl rfl rfl rfl rfl rfl rfl rfl rfl; with_reducible assumption)

theorem execI2cStretchTimeout_good {t : Instant} {controller : Fin 8} {s : State} (h : Good fz t0 ws Q s) :
    ∀ u, execI2cStretchTimeout t controller s = .next u → Good fz t0 ws Q u := by
  unfold execI2cStretchTimeout
  try dsimp only
  refine event_good ?_ h
  intro s_ h_
  try dsimp only
  repeat' first
    | with_reducible assumption
    | intro _
    | with_reducible apply xferFail_good

theorem execPortConfig_good {t : Instant} {r : RingRef} {e : Entry} {s : State} (h : Good fz t0 ws Q s) :
    ∀ u, execPortConfig t r e s = .next u → Good fz t0 ws Q u := by
  unfold execPortConfig
  try dsimp only
  repeat' with_reducible refine command_good ?_ ?_
  all_goals repeat' first
    | with_reducible assumption
    | intro _
    | with_reducible apply State_modPort_good
    | with_reducible apply done_good

theorem execLaneBind_good {t : Instant} {r : RingRef} {e : Entry} {s : State} (h : Good fz t0 ws Q s) :
    ∀ u, execLaneBind t r e s = .next u → Good fz t0 ws Q u := by
  unfold execLaneBind
  try dsimp only
  repeat' first
    | with_reducible refine command_good ?_ ?_
    | split
  all_goals repeat' first
    | with_reducible assumption
    | intro _
    | with_reducible apply State_modCtx_good
    | with_reducible apply deferredOk_good

theorem execLaneContextSet_good {t : Instant} {r : RingRef} {e : Entry} {buf : Option (List Byte)} {s : State} (h : Good fz t0 ws Q s) :
    ∀ u, execLaneContextSet t r e buf s = .next u → Good fz t0 ws Q u := by
  unfold execLaneContextSet
  try dsimp only
  refine bufCommand_good ?_ h
  intro q_ s_ h_
  try dsimp only
  repeat' first
    | with_reducible assumption
    | intro _
    | with_reducible apply State_modCtx_good
    | with_reducible apply deferredOk_good
    | split
    | (with_reducible refine Good.parts ?_ rfl rfl rfl rfl rfl rfl rfl rfl rfl rfl; with_reducible assumption)

theorem execFsyncSet_good {t : Instant} {r : RingRef} {e : Entry} {s : State} (h : Good fz t0 ws contractsApart s) :
    ∀ u, execFsyncSet t r e s = .next u → Good fz t0 ws contractsApart u := by
  unfold execFsyncSet
  try dsimp only
  repeat' with_reducible refine command_good ?_ ?_
  all_goals repeat' first
    | with_reducible assumption
    | intro _
    | with_reducible apply defer_good
    | with_reducible apply deferredOk_good
    | contradiction

theorem execSensorXfer_good {t : Instant} {r : RingRef} {e : Entry} {buf : Option (List Byte)} {s : State} (h : Good fz t0 ws contractsApart s) :
    ∀ u, execSensorXfer t r e buf s = .next u → Good fz t0 ws contractsApart u := by
  unfold execSensorXfer
  try dsimp only
  refine bufCommand_good ?_ h
  intro q_ s_ h_
  try dsimp only
  repeat' first
    | with_reducible assumption
    | intro _
    | with_reducible apply defer_good
    | with_reducible apply deferredOk_good
    | split
    | (with_reducible refine Good.parts ?_ rfl rfl rfl rfl rfl rfl rfl rfl rfl rfl; with_reducible assumption)
    | contradiction

/-! ### LoftRows -/

theorem openBar2_good {k fn : Nat} {flaws : List (Nat × Flips)} {rows : List Nat} {s : State} (h : Good fz t0 ws Q s) :
    Good fz t0 ws Q (openBar2 k fn flaws rows s) := by
  unfold openBar2
  try dsimp only
  repeat' first
    | with_reducible assumption
    | intro _
    | with_reducible apply takeBar2_good
    | with_reducible apply offer_good
    | with_reducible apply Good.ite
    | with_reducible apply Good.foldl
    | split

theorem execBar2Read_good {t : Instant} {fn : Fin 4} {offset : BitVec 29} {len : Nat} {flaws : List (Nat × Flips)} {s : State} (h : Good fz t0 ws Q s) :
    ∀ u, execBar2Read t fn offset len flaws s = .next u → Good fz t0 ws Q u := by
  unfold execBar2Read
  try dsimp only
  refine hostRow_good ?_ h
  intro s_ h_
  try dsimp only
  repeat' first
    | with_reducible assumption
    | intro _
    | with_reducible apply State_modLoft_good
    | with_reducible apply State_modFn_good
    | with_reducible apply emit_good
    | with_reducible apply openBar2_good
    | with_reducible apply Good.ite
    | split
    | (with_reducible refine Good.parts ?_ rfl rfl rfl rfl rfl rfl rfl rfl rfl rfl; with_reducible assumption)

theorem dropRefill_good {row : Nat} {s : State} (h : Good fz t0 ws Q s) :
    Good fz t0 ws Q (dropRefill row s) := by
  unfold dropRefill
  try dsimp only
  repeat' first
    | with_reducible assumption
    | intro _
    | with_reducible apply State_modLoft_good
    | with_reducible apply refillLost_good
    | split
    | (with_reducible refine Good.parts ?_ rfl rfl rfl rfl rfl rfl rfl rfl rfl rfl; with_reducible assumption)

theorem tryMapOut_good {row region : Nat} {s : State} (h : Good fz t0 ws Q s) :
    Good fz t0 ws Q (tryMapOut row region s) := by
  unfold tryMapOut
  try dsimp only
  repeat' first
    | with_reducible assumption
    | intro _
    | with_reducible apply State_modLoft_good
    | with_reducible apply failRegion_good
    | with_reducible apply dropRefill_good
    | split
    | (with_reducible refine Good.parts ?_ rfl rfl rfl rfl rfl rfl rfl rfl rfl rfl; with_reducible assumption)

theorem execRefillEnd_good {t : Instant} {row : Nat} {found : List SectorCheck} {readBackOk : Bool} {s : State} (h : Good fz t0 ws Q s) :
    ∀ u, execRefillEnd t row found readBackOk s = .next u → Good fz t0 ws Q u := by
  unfold execRefillEnd
  try dsimp only
  refine event_good ?_ h
  intro s_ h_
  try dsimp only
  repeat' first
    | with_reducible assumption
    | intro _
    | with_reducible apply State_modLoft_good
    | with_reducible apply putRow_good
    | with_reducible apply postLoft_good
    | with_reducible apply failRegion_good
    | with_reducible apply recoveryAccess_good
    | with_reducible apply readSectors_good
    | with_reducible apply dropRefill_good
    | with_reducible apply tryMapOut_good
    | with_reducible apply Good.ite
    | split
    | (with_reducible refine Good.parts ?_ rfl rfl rfl rfl rfl rfl rfl rfl rfl rfl; with_reducible assumption)

theorem execMapOutEnd_good {t : Instant} {row : Nat} {ok : Bool} {s : State} (h : Good fz t0 ws Q s) :
    ∀ u, execMapOutEnd t row ok s = .next u → Good fz t0 ws Q u := by
  unfold execMapOutEnd
  try dsimp only
  refine event_good ?_ h
  intro s_ h_
  try dsimp only
  repeat' first
    | with_reducible assumption
    | intro _
    | with_reducible apply State_modLoft_good
    | with_reducible apply putRow_good
    | with_reducible apply postLoft_good
    | with_reducible apply mapRow_good
    | with_reducible apply recoveryAccess_good
    | with_reducible apply dropRefill_good
    | with_reducible apply tryMapOut_good
    | with_reducible apply Good.ite
    | split
    | (with_reducible refine Good.parts ?_ rfl rfl rfl rfl rfl rfl rfl rfl rfl rfl; with_reducible assumption)

theorem scrubLost_good {s : State} (h : Good fz t0 ws Q s) :
    Good fz t0 ws Q (scrubLost s) := by
  unfold scrubLost
  try dsimp only
  repeat' first
    | with_reducible assumption
    | intro _
    | with_reducible apply State_modLoft_good
    | with_reducible apply loftQuota_good
    | with_reducible apply Good.ite
    | split
    | (with_reducible refine Good.parts ?_ rfl rfl rfl rfl rfl rfl rfl rfl rfl rfl; with_reducible assumption)

theorem execLoftScrubRead_good {t : Instant} {flips : Flips} {s : State} (h : Good fz t0 ws Q s) :
    ∀ u, execLoftScrubRead t flips s = .next u → Good fz t0 ws Q u := by
  unfold execLoftScrubRead
  try dsimp only
  refine event_good ?_ h
  intro s_ h_
  try dsimp only
  repeat' first
    | with_reducible assumption
    | intro _
    | with_reducible apply State_modLoft_good
    | with_reducible apply State_modPower_good
    | with_reducible apply damageRow_good
    | with_reducible apply spendCycle_good
    | with_reducible apply detectRows_good
    | with_reducible apply scrubLost_good
    | with_reducible apply Good.ite
    | split
    | (with_reducible refine Good.parts ?_ rfl rfl rfl rfl rfl rfl rfl rfl rfl rfl; with_reducible assumption)

theorem testRow_good {bad : Bool} {row : Nat} {s : State} (h : Good fz t0 ws Q s) :
    Good fz t0 ws Q (testRow bad row s) := by
  unfold testRow
  try dsimp only
  repeat' first
    | with_reducible assumption
    | intro _
    | with_reducible apply undefineRows_good
    | with_reducible apply postLoft_good
    | with_reducible apply detect_good
    | with_reducible apply mapRow_good
    | with_reducible apply badRow_good
    | with_reducible apply passAccess_good
    | with_reducible apply Good.ite
    | split
    | (with_reducible refine Good.parts ?_ rfl rfl rfl rfl rfl rfl rfl rfl rfl rfl; with_reducible assumption)

theorem testList_good {p : Part} {a : Instant} {w : List Instr} {Q : List Contract → List Effect → Prop} {failing : List Nat} :
    ∀ {l : List Nat} {n : Nat} {s : State}, Good p a w Q s → Good p a w Q (testList failing n l s)
  | [], _, _, h => h
  | row :: l, n, s, h => by
    have h' : Good p a w Q (s.modLoft fun x => { x with suspect := x.suspect.drop 1 }) := State_modLoft_good h fun hm => hm
    unfold testList
    dsimp only
    split
    · exact testList_good h'
    · split
      · exact h
      · exact testList_good (testRow_good h')

theorem testSuspects_good {failing : List Nat} {s : State} (h : Good fz t0 ws Q s) :
    Good fz t0 ws Q (testSuspects failing s) := by
  unfold testSuspects
  repeat' first
    | with_reducible assumption
    | with_reducible apply testList_good

/-! ### DramRows -/

theorem execDramSectorRead_good {t : Instant} {addr : Nat} {found : SectorCheck} {reader : DramReader} {s : State} (h
    : Good fz t0 ws Q s) :
    ∀ u, execDramSectorRead t addr found reader s = .next u → Good fz t0 ws Q u := by
  unfold execDramSectorRead
  try dsimp only
  repeat' with_reducible refine event_good ?_ ?_
  all_goals repeat' first
    | with_reducible assumption
    | intro _
    | with_reducible apply readSector_good
    | with_reducible apply markNode_good
    | with_reducible apply Good.ite
    | split

theorem execDramFullWrite_good {t : Instant} {addr : Nat} {data : List Byte} {s : State} (h : Good fz t0 ws Q s) :
    ∀ u, execDramFullWrite t addr data s = .next u → Good fz t0 ws Q u := by
  unfold execDramFullWrite
  repeat' with_reducible refine event_good ?_ ?_
  all_goals repeat' first
    | with_reducible assumption
    | intro _
    | with_reducible apply writeSector_good
    | with_reducible apply Good.ite

theorem execDramPartialWrite_good {t : Instant} {addr : Nat} {data : List Byte} {found : SectorCheck} {writer : Option
    NodeRef} {s : State} (h : Good fz t0 ws Q s) :
    ∀ u, execDramPartialWrite t addr data found writer s = .next u → Good fz t0 ws Q u := by
  unfold execDramPartialWrite
  try dsimp only
  repeat' with_reducible refine event_good ?_ ?_
  all_goals repeat' first
    | with_reducible assumption
    | intro _
    | with_reducible apply immediateFault_good
    | with_reducible apply partialWrite_good
    | with_reducible apply Good.ite
    | split

theorem scrubSectors_good {p : Part} {a : Instant} {w : List Instr} {Q : List Contract → List Effect → Prop} : ∀ {n x : Nat} {fs : List SectorCheck} {s : State}, Good p a w Q s → Good p a w Q (scrubSectors x n fs s)
  | 0, _, _, _, h => h
  | n + 1, _, _, _, h => by
    simp only [scrubSectors]
    exact scrubSectors_good (readSector_good h)

theorem execDramScrubRead_good {t : Instant} {found : List SectorCheck} {s : State} (h : Good fz t0 ws Q s) :
    ∀ u, execDramScrubRead t found s = .next u → Good fz t0 ws Q u := by
  unfold execDramScrubRead
  try dsimp only
  repeat' with_reducible refine event_good ?_ ?_
  all_goals repeat' first
    | with_reducible assumption
    | intro _
    | with_reducible apply scrubSectors_good
    | with_reducible apply State_modPower_good
    | with_reducible apply State_modDram_good
    | with_reducible apply Good.ite
    | with_reducible rfl
    | split

theorem execDramRefresh_good {t : Instant} {channel : Fin 4} {s : State} (h : Good fz t0 ws Q s) :
    ∀ u, execDramRefresh t channel s = .next u → Good fz t0 ws Q u := by
  unfold execDramRefresh
  try dsimp only
  repeat' with_reducible refine event_good ?_ ?_
  all_goals repeat' first
    | with_reducible assumption
    | intro _
    | with_reducible apply State_modDram_good
    | with_reducible apply Good.ite
    | (show List.length _ = List.length _; simp [lmod]; done)

theorem startTrainings_good {s : State} (h : Good fz t0 ws Q s) :
    Good fz t0 ws Q (startTrainings s) := by
  unfold startTrainings
  repeat' first
    | with_reducible assumption
    | intro _
    | with_reducible apply State_modDram_good
    | with_reducible apply Good.ite
    | (show List.length _ = List.length _; simp [lmod]; done)

theorem retrainStep_good {drift : Bool} {s : State} (h : Good fz t0 ws Q s) :
    Good fz t0 ws Q (retrainStep drift s) := by
  unfold retrainStep
  try dsimp only
  repeat' first
    | with_reducible assumption
    | intro _
    | with_reducible apply postAll_good
    | with_reducible apply startTrainings_good
    | with_reducible apply State_modDram_good
    | with_reducible apply Good.ite
    | (show List.length _ = List.length _; simp [lmod]; done)

theorem execIdleRetrainTimer_good {t : Instant} {drift : Bool} {s : State} (h : Good fz t0 ws Q s) :
    ∀ u, execIdleRetrainTimer t drift s = .next u → Good fz t0 ws Q u := by
  unfold execIdleRetrainTimer
  repeat' with_reducible refine event_good ?_ ?_
  all_goals repeat' first
    | with_reducible assumption
    | intro _
    | with_reducible apply retrainStep_good
    | with_reducible apply Good.ite

theorem execDramFullTrainingEnd_good {t : Instant} {channel : Fin 4} {s : State} (h : Good fz t0 ws Q s) :
    ∀ u, execDramFullTrainingEnd t channel s = .next u → Good fz t0 ws Q u := by
  unfold execDramFullTrainingEnd
  try dsimp only
  repeat' with_reducible refine event_good ?_ ?_
  all_goals repeat' first
    | with_reducible assumption
    | intro _
    | with_reducible apply postAll_good
    | with_reducible apply State_modDram_good
    | (show List.length _ = List.length _; simp [lmod]; done)
    | split

end Sys2Proof.Machine
end

