-- ==== Sys2Proof/Laws/KeepPower.lean ====
section
/-!
SUPPORT. Every operation keeps a good state good: power, boot, the device commands and the host rows.
-/
namespace Sys2Proof.Machine

set_option maxRecDepth 2000
set_option linter.unusedSimpArgs false
set_option linter.unusedTactic false
set_option linter.unreachableTactic false

variable {fz : Part} {t0 : Instant} {ws : List Instr} {Q : List Contract → List Effect → Prop}

/-! ### PowerRows -/

theorem evaluateHeat_good {s : State} (h : Good fz t0 ws Q s) :
    Good fz t0 ws Q (evaluateHeat s) := by
  unfold evaluateHeat
  try dsimp only
  repeat' first
    | with_reducible assumption
    | with_reducible apply postAll_good
    | with_reducible apply raiseAlert_good
    | with_reducible apply State_modPower_good
    | with_reducible apply Good.ite

theorem openingHeat_good {s : State} (h : Good fz t0 ws Q s) :
    Good fz t0 ws Q (openingHeat s) := by
  unfold openingHeat
  try dsimp only
  repeat' first
    | with_reducible assumption
    | with_reducible apply evaluateHeat_good
    | with_reducible apply State_modPower_good

theorem takeSample_good {readings : List Int} {s : State} (h : Good fz t0 ws Q s) :
    Good fz t0 ws Q (takeSample readings s) := by
  unfold takeSample
  try dsimp only
  repeat' first
    | with_reducible assumption
    | with_reducible apply State_modPower_good

theorem execThermalSample_good {t : Instant} {readings : List Int} {s : State} (h : Good fz t0 ws Q s) :
    ∀ u, execThermalSample t readings s = .next u → Good fz t0 ws Q u := by
  unfold execThermalSample
  try dsimp only
  repeat' first
    | with_reducible refine next_good ?_
    | split
  all_goals repeat' first
    | with_reducible assumption
    | with_reducible apply advance_good
    | with_reducible apply takeSample_good

theorem execThermalEvaluation_good {t : Instant} {s : State} (h : Good fz t0 ws Q s) :
    ∀ u, execThermalEvaluation t s = .next u → Good fz t0 ws Q u := by
  unfold execThermalEvaluation
  repeat' with_reducible refine event_good ?_ ?_
  all_goals repeat' first
    | with_reducible assumption
    | intro _
    | with_reducible apply evaluateHeat_good
    | with_reducible apply Good.ite

/-- After THERMTRIP both pins of every unit may be low (R601). -/
theorem drivePins_tripped {p : Part} {a : Instant} {w : List Instr} {Q : List Contract → List Effect → Prop} {u : Nat} {z : Bool} {s : State} (h : Good p a w Q s)
    (ht : s.pins.thermtrip = true) : Good p a w Q (drivePins u false false z s) := by
  obtain ⟨h3, h0, h1, h2, h4, h5, h6, h7, h8, h9⟩ := drivePins_parts u false false z s
  refine h.atHalter h3 (fun _ _ => ?_) h0 h1 h2 h4 h5 h6 (congrArg _ h7) h8 h9
  simp [Halter.pinsOk, ht]

theorem haltPins_good {p : Part} {a : Instant} {w : List Instr} {Q : List Contract → List Effect → Prop} {s : State} (h : Good p a w Q s) (ht : s.pins.thermtrip = true) :
    Good p a w Q (haltPins s) := by
  refine drivePins_tripped (drivePins_tripped h ht) ?_
  rw [(drivePins_parts 0 false false true s).2.2.2.2.2.2.2.1, ht]

theorem idleLinks_good {s : State} (h : Good fz t0 ws Q s) :
    Good fz t0 ws Q (idleLinks s) := by
  unfold idleLinks
  repeat' first
    | with_reducible assumption
    | intro _
    | with_reducible apply emit_good
    | with_reducible apply Good.foldl

theorem execThermtrip_good {p : Part} {a : Instant} {w : List Instr} {Q : List Contract → List Effect → Prop} {t : Instant} {s : State}
    (h : Good p a w Q s) : ∀ u, execThermtrip t s = .next u → Good p a w Q u := by
  unfold execThermtrip
  refine next_good ?_
  have h' : Good p a w Q (advance t s) := advance_good h
  dsimp only
  split
  · refine idleLinks_good (haltPins_good ?_ rfl)
    refine emit_good { h' with pins := fun x hx => ?_ }
    have := h'.pins x hx
    rename_i ht
    rw [ht.2] at this
    simp only [Halter.pinsOk, Bool.false_and, Bool.false_or] at this
    show Halter.pinsOk true x = true
    simp only [Halter.pinsOk, this, Bool.or_true]
  · exact h'

theorem setPower_good {p : PowerState} {s : State} (h : Good fz t0 ws Q s) :
    Good fz t0 ws Q (setPower p s) := by
  unfold setPower
  try dsimp only
  repeat' first
    | with_reducible assumption
    | with_reducible apply postAll_good
    | with_reducible apply State_modPower_good

theorem changeClocks_good {s : State} (h : Good fz t0 ws Q s) :
    Good fz t0 ws Q (changeClocks s) := by
  unfold changeClocks
  repeat' first
    | with_reducible assumption
    | with_reducible apply setPower_good
    | with_reducible apply State_modPower_good
    | split

theorem slotClocks_good {s : State} (h : Good fz t0 ws Q s) :
    Good fz t0 ws Q (slotClocks s) := by
  unfold slotClocks
  repeat' first
    | with_reducible assumption
    | with_reducible apply changeClocks_good
    | with_reducible apply Good.ite
    | split

theorem disableCamera_good {p : Nat} {s : State} (h : Good fz t0 ws Q s) :
    Good fz t0 ws Q (disableCamera p s) := by
  unfold disableCamera
  repeat' first
    | with_reducible assumption
    | with_reducible apply State_modPort_good

theorem disableFsync_good {k : Nat} {s : State} (h : Good fz t0 ws Q s) :
    Good fz t0 ws Q (disableFsync k s) := by
  unfold disableFsync
  repeat' first
    | with_reducible assumption
    | with_reducible apply driveFsync_good
    | with_reducible apply State_modFsync_good

theorem standbyOff_good {s : State} (h : Good fz t0 ws Q s) :
    Good fz t0 ws Q (standbyOff s) := by
  unfold standbyOff
  try dsimp only
  repeat' first
    | with_reducible assumption
    | intro _
    | with_reducible apply disableCamera_good
    | with_reducible apply disablePort_good
    | with_reducible apply disableFsync_good
    | with_reducible apply disableHalter_good
    | with_reducible apply Good.foldl

theorem loseLoft_good {s : State} (h : Good fz t0 ws Q s) :
    Good fz t0 ws Q (loseLoft s) := by
  unfold loseLoft
  repeat' first
    | with_reducible assumption
    | intro _
    | with_reducible apply State_modLoft_good
    | with_reducible apply undefineRows_good

theorem trainAll_good {s : State} (h : Good fz t0 ws Q s) :
    Good fz t0 ws Q (trainAll s) := by
  unfold trainAll
  try dsimp only
  repeat' first
    | with_reducible assumption
    | intro _
    | with_reducible apply State_modDram_good
    | (show List.length _ = List.length _; simp [lmod]; done)

theorem execPowerStateChangeEnd_good {t : Instant} {s : State} (h : Good fz t0 ws Q s) :
    ∀ u, execPowerStateChangeEnd t s = .next u → Good fz t0 ws Q u := by
  unfold execPowerStateChangeEnd
  try dsimp only
  repeat' with_reducible refine event_good ?_ ?_
  all_goals repeat' first
    | with_reducible assumption
    | intro _
    | with_reducible apply setPower_good
    | with_reducible apply settle_good
    | with_reducible apply finish_good
    | with_reducible apply loseLoft_good
    | with_reducible apply standbyOff_good
    | with_reducible apply trainAll_good
    | with_reducible apply State_modPower_good
    | split

/-! ### BootRows -/



/-- The fuses, external memory and the queue are as they were. -/
def SameChip (s t : State) : Prop := t.part = s.part ∧ t.dram = s.dram ∧ t.pending = s.pending

theorem driveFsync_chip {s t : State} {k : Nat} {b : Bool} (h : SameChip s t) : SameChip s (driveFsync k b t) := by
  unfold driveFsync
  split <;> exact h

theorem setAlerts_chip {s t : State} {x y : BitVec 6} (h : SameChip s t) : SameChip s (setAlerts x y t) := by
  unfold setAlerts
  dsimp only
  split <;> exact h

theorem drivePins_chip {s t : State} {u : Nat} {x y z : Bool} (h : SameChip s t) : SameChip s (drivePins u x y z t) := by
  unfold drivePins
  dsimp only
  split <;> split <;> split <;> exact h

theorem SameChip.foldl {s t : State} {α : Type} {f : State → α → State}
    (hf : ∀ t x, SameChip s t → SameChip s (f t x)) {l : List α} (h : SameChip s t) : SameChip s (l.foldl f t) := by
  induction l generalizing t with
  | nil => exact h
  | cons x l ih => exact ih (hf t x h)

theorem resetPins_chip (k : Bool) (s : State) : SameChip s (resetPins k s) := by
  have h : SameChip s (resetHalterPins 1 (resetHalterPins 0 s)) := by
    unfold resetHalterPins
    exact drivePins_chip (drivePins_chip ⟨rfl, rfl, rfl⟩)
  unfold resetPins
  dsimp only
  generalize resetHalterPins 1 (resetHalterPins 0 s) = t at h ⊢
  have h2 : SameChip s ((List.range 8).foldl (fun s k => driveFsync k false s) t) :=
    SameChip.foldl (fun _ _ h => driveFsync_chip h) h
  generalize (List.range 8).foldl (fun s k => driveFsync k false s) t = t at h2 ⊢
  unfold idleLinks
  refine SameChip.foldl (f := fun s p => emit (.link p .idle) s) (fun _ _ h => h) ?_
  split
  · exact h2
  · exact setAlerts_chip h2

theorem pinsOk_trip {h : Halter} (b : Bool) (hh : h.pinsOk false = true) : h.pinsOk b = true := by
  simp only [Halter.pinsOk, Bool.false_and, Bool.false_or] at hh
  simp [Halter.pinsOk, hh]

theorem reset_shape : State.reset.shape :=
  ⟨rfl, rfl, rfl, rfl, rfl, rfl, rfl, rfl, rfl, List.length_replicate, rfl, rfl⟩

theorem reset_apart : contractsApart State.reset.contracts [] :=
  have h : ∀ x y : Fin 4, x ≠ y → contractsClash (State.reset.contracts.getD x (.reset x))
      (State.reset.contracts.getD y (.reset y)) = false := by decide
  ⟨fun x y hx hy hn => h ⟨x, hx⟩ ⟨y, hy⟩ fun hh => hn (Fin.mk.inj hh),
    fun _ _ _ h => absurd h List.not_mem_nil, fun _ _ _ _ h => absurd h List.not_mem_nil⟩

theorem reset_pins (b : Bool) : ∀ h ∈ State.reset.halters, h.pinsOk b = true := by
  intro h hh
  refine pinsOk_trip b ?_
  have : ∀ h ∈ State.reset.halters, h.pinsOk false = true := by decide
  exact this h hh

/-- A device held in reset is good whatever went before, as long as its fuses are. -/
theorem blankDevice_good {p : Part} {a : Instant} {w : List Instr} {Q : List Contract → List Effect → Prop} {s t : State}
    (h : Good p a w Q s) (ht : t.part = s.part) (hq : t.pending = s.pending) :
    Good p 0 w contractsApart (blankDevice t) :=
  { loftMem := Mem.undefine_wf _ _ _ Mem.empty_wf
    dramMem := Mem.undefine_wf _ _ _ Mem.empty_wf
    pins := reset_pins _
    apart := reset_apart
    time := Nat.zero_le _
    grade := (congrArg Part.grade ht).trans h.grade
    serial := (congrArg Part.serial ht).trans h.serial
    keyHash := (congrArg Part.keyHash ht).trans h.keyHash
    rollback := le_of_le_of_eq h.rollback (congrArg Part.rollback ht).symm
    shape := reset_shape
    queue := hq.trans h.queue }

theorem holdReset_good {p : Part} {a : Instant} {w : List Instr} {Q : List Contract → List Effect → Prop} {s t : State}
    (h : Good p a w Q s) (ht : t.part = s.part) (hq : t.pending = s.pending) :
    Good p 0 w contractsApart (holdReset t) := by
  unfold holdReset
  exact blankDevice_good h ((resetPins_chip false t).1.trans ht) ((resetPins_chip false t).2.2.trans hq)

theorem slowBack_keeps {p : Part} {a : Instant} {w : List Instr} {Q : List Contract → List Effect → Prop} {b : Bool} {s : State}
    (h : Good p a w Q s) : Good p a w Q (slowBack b s) := by
  unfold slowBack
  exact Good.ite (Good.foldl (fun _ _ h => emit_good h) h) h

theorem changePower_good {p : Part} {a : Instant} {w : List Instr} {aon core io v : Bool} {s : State} (h : Good p a w contractsApart s) :
    Good p 0 w contractsApart (changePower aon core io v s) := by
  unfold changePower
  dsimp only
  refine slowBack_keeps ?_
  split
  · rename_i hp
    have hg : Good p 0 w contractsApart { s with
        pins := { s.pins with pwrgdAon := aon, pwrgdCore := core, pwrgdIo := io, vddIo18 := v } } :=
      h.zero.upd rfl rfl rfl rfl rfl rfl rfl rfl rfl fun hh => hh
    simp only [Bool.and_eq_true] at hp
    obtain ⟨⟨rfl, rfl⟩, rfl⟩ := hp
    unfold releaseTrip
    simpa using hg
  · have hb : ∀ b, Good p 0 w contractsApart { holdReset { s with
        pins := { s.pins with pwrgdAon := aon, pwrgdCore := core, pwrgdIo := io, vddIo18 := v } } with
        pins := { (holdReset { s with pins := { s.pins with pwrgdAon := aon, pwrgdCore := core, pwrgdIo := io,
                                                            vddIo18 := v } }).pins with thermtrip := b } } := by
      intro b
      have := holdReset_good (t := { s with
        pins := { s.pins with pwrgdAon := aon, pwrgdCore := core, pwrgdIo := io, vddIo18 := v } }) h rfl rfl
      exact { this with pins := reset_pins b }
    unfold releaseTrip
    split
    · exact emit_good (hb false)
    · exact holdReset_good h rfl rfl

theorem execPowerGoodChange_good {p : Part} {a : Instant} {w : List Instr} {t : Instant} {aon core io v te : Bool} {s : State}
    (h : Good p a w contractsApart s) :
    ∀ u, execPowerGoodChange t aon core io v te s = .next u → Good p 0 w contractsApart u := by
  unfold execPowerGoodChange
  split
  · exact fault_good
  · exact next_good (changePower_good (advance_good h))

theorem execPerstNAssert_good {p : Part} {a : Instant} {w : List Instr} {t : Instant} {s : State} (h : Good p a w contractsApart s) :
    ∀ u, execPerstNAssert t s = .next u → Good p 0 w contractsApart u := by
  unfold execPerstNAssert
  refine next_good ?_
  exact Good.ite (holdReset_good (advance_good h) rfl rfl) (advance_good h).zero

theorem startRom_good {s : State} (h : Good fz t0 ws Q s) :
    Good fz t0 ws Q (startRom s) := by
  unfold startRom
  try dsimp only
  repeat' first
    | with_reducible assumption
    | intro _
    | with_reducible apply startTraining_good
    | with_reducible apply Good.ite
    | with_reducible apply Good.foldl
    | (with_reducible refine Good.parts ?_ rfl rfl rfl rfl rfl rfl rfl rfl rfl rfl; with_reducible assumption)

theorem releaseReset_good {p : Part} {a : Instant} {w : List Instr} {Q : List Contract → List Effect → Prop} {sel : BitVec 2} {pw : Bool}
    {s : State} (h : Good p a w Q s) : Good p 0 w Q (releaseReset sel pw s) := by
  unfold releaseReset
  split
  · exact startRom_good { h.zero with time := Nat.zero_le _ }
  · exact h.zero

theorem execPerstNRelease_good {p : Part} {a : Instant} {w : List Instr} {Q : List Contract → List Effect → Prop} {t : Instant}
    {sel : BitVec 2} {pw te : Bool} {s : State} (h : Good p a w Q s) :
    ∀ u, execPerstNRelease t sel pw te s = .next u → Good p 0 w Q u := by
  unfold execPerstNRelease
  split
  · exact fault_good
  · exact next_good (releaseReset_good (advance_good h))

theorem warmReset_good {p : Part} {a : Instant} {w : List Instr} {Q : List Contract → List Effect → Prop} {sel : BitVec 2} {s : State}
    (h : Good p a w Q s) : Good p 0 w contractsApart (warmReset sel s) := by
  unfold warmReset
  dsimp only
  obtain ⟨hp, hd, hq⟩ : SameChip s (raiseAlert alertFwDown (resetPins true s)) := by
    unfold raiseAlert
    exact setAlerts_chip (resetPins_chip true s)
  have hb := blankDevice_good h hp hq
  refine startRom_good { hb with dramMem := ?_, shape := ?_ }
  swap
  · exact ⟨rfl, rfl, rfl, rfl, rfl, rfl, rfl, rfl, rfl, List.length_replicate, rfl, rfl⟩
  show (raiseAlert alertFwDown (resetPins true s)).dram.mem.wf = true
  rw [hd]
  exact h.dramMem

theorem execWarmReset_good {p : Part} {a : Instant} {w : List Instr} {t : Instant} {sel : BitVec 2} {s : State}
    (h : Good p a w contractsApart s) : ∀ u, execWarmReset t sel s = .next u → Good p 0 w contractsApart u := by
  intro u hu
  unfold execWarmReset event at hu
  have h' : Good p a w contractsApart (advance t s) := advance_good h
  split at hu <;> cases hu
  · exact Good.ite (warmReset_good h') h'.zero
  · exact h'.zero

theorem selfTestRow_good {row : Nat} {s : State} (h : Good fz t0 ws Q s) :
    Good fz t0 ws Q (selfTestRow row s) := by
  unfold selfTestRow
  try dsimp only
  repeat' first
    | with_reducible assumption
    | intro _
    | with_reducible apply State_modLoft_good
    | (with_reducible refine Good.parts ?_ rfl rfl rfl rfl rfl rfl rfl rfl rfl rfl; with_reducible assumption)
    | split

theorem execLoftSelfTestEnd_good {t : Instant} {failingSpares failingRows : List Nat} {s : State} (h : Good fz t0 ws Q
    s) :
    ∀ u, execLoftSelfTestEnd t failingSpares failingRows s = .next u → Good fz t0 ws Q u := by
  unfold execLoftSelfTestEnd
  try dsimp only
  repeat' with_reducible refine event_good ?_ ?_
  all_goals repeat' first
    | with_reducible assumption
    | intro _
    | with_reducible apply selfTestRow_good
    | with_reducible apply undefineRows_good
    | with_reducible apply Good.ite
    | with_reducible apply Good.foldl
    | (with_reducible refine Good.parts ?_ rfl rfl rfl rfl rfl rfl rfl rfl rfl rfl; with_reducible assumption)

theorem checkDram_good {s : State} (h : Good fz t0 ws Q s) :
    Good fz t0 ws Q (checkDram s) := by
  unfold checkDram
  repeat' first
    | with_reducible assumption
    | with_reducible apply setFw_good
    | with_reducible apply Good.ite

theorem execDramTrainingEnd_good {t : Instant} {ok : Bool} {gibPerChannel : Nat} {s : State} (h : Good fz t0 ws Q s) :
    ∀ u, execDramTrainingEnd t ok gibPerChannel s = .next u → Good fz t0 ws Q u := by
  unfold execDramTrainingEnd
  try dsimp only
  repeat' first
    | with_reducible refine event_good ?_ ?_
    | split
  all_goals repeat' first
    | with_reducible assumption
    | intro _
    | with_reducible apply checkDram_good
    | with_reducible apply setFw_good
    | with_reducible apply trainAll_good
    | with_reducible apply Good.ite
    | (with_reducible refine Good.parts ?_ rfl rfl rfl rfl rfl rfl rfl rfl rfl rfl; with_reducible assumption)

theorem takeSubsystem_good {d : List Byte} {s : State} (h : Good fz t0 ws Q s) :
    Good fz t0 ws Q (takeSubsystem d s) := by
  unfold takeSubsystem
  try dsimp only
  repeat' first
    | with_reducible assumption
    | with_reducible apply Good.ite
    | (with_reducible refine Good.parts ?_ rfl rfl rfl rfl rfl rfl rfl rfl rfl rfl; with_reducible assumption)

theorem startAcrega_good {p : List Byte} {from_ : Option Nat} {s : State} (h : Good fz t0 ws Q s) :
    Good fz t0 ws Q (startAcrega p from_ s) := by
  unfold startAcrega
  try dsimp only
  repeat' first
    | with_reducible apply checkDram_good
    | (with_reducible refine Good.parts ?_ rfl rfl rfl rfl rfl rfl rfl rfl rfl rfl; with_reducible assumption)

theorem rejectSlot_good {k : Nat} {s : State} (h : Good fz t0 ws Q s) :
    Good fz t0 ws Q (rejectSlot k s) := by
  unfold rejectSlot
  try dsimp only
  repeat' first
    | with_reducible apply setFw_good
    | with_reducible apply Good.ite
    | (with_reducible refine Good.parts ?_ rfl rfl rfl rfl rfl rfl rfl rfl rfl rfl; with_reducible assumption)

theorem tryFlash_good {k : Nat} {d : List Byte} {s : State} (h : Good fz t0 ws Q s) :
    Good fz t0 ws Q (tryFlash k d s) := by
  unfold tryFlash
  try dsimp only
  repeat' first
    | with_reducible apply startAcrega_good
    | with_reducible apply takeSubsystem_good
    | with_reducible apply rejectSlot_good
    | with_reducible apply Good.ite
    | (with_reducible refine Good.parts ?_ rfl rfl rfl rfl rfl rfl rfl rfl rfl rfl; with_reducible assumption)

theorem takePushEntry_good {s : State} (h : Good fz t0 ws Q s) :
    Good fz t0 ws Q (takePushEntry s) := by
  unfold takePushEntry
  repeat' first
    | with_reducible assumption
    | with_reducible apply State_modRing_good

theorem tryHost_good {p : List Byte} {s : State} (h : Good fz t0 ws Q s) :
    Good fz t0 ws Q (tryHost p s) := by
  unfold tryHost
  try dsimp only
  repeat' first
    | with_reducible assumption
    | with_reducible apply takePushEntry_good
    | with_reducible apply startAcrega_good
    | with_reducible apply setFw_good
    | with_reducible apply Good.ite
    | (with_reducible refine Good.parts ?_ rfl rfl rfl rfl rfl rfl rfl rfl rfl rfl; with_reducible apply takePushEntry_good)

theorem execBootCandidateRead_good {t : Instant} {source : BootSource} {package : List Byte} {s : State} (h : Good fz
    t0 ws Q s) :
    ∀ u, execBootCandidateRead t source package s = .next u → Good fz t0 ws Q u := by
  unfold execBootCandidateRead
  repeat' first
    | with_reducible refine event_good ?_ ?_
    | split
  all_goals repeat' first
    | with_reducible assumption
    | intro _
    | with_reducible apply tryHost_good
    | with_reducible apply tryFlash_good
    | with_reducible apply Good.ite

theorem execBootPush_good {t : Instant} {port : Fin 4} {package : List Byte} {s : State} (h : Good fz t0 ws Q s) :
    ∀ u, execBootPush t port package s = .next u → Good fz t0 ws Q u := by
  unfold execBootPush
  repeat' with_reducible refine event_good ?_ ?_
  all_goals repeat' first
    | with_reducible assumption
    | intro _
    | with_reducible apply startAcrega_good
    | with_reducible apply Good.ite

theorem execPcieEndpointReady_good {t : Instant} {s : State} (h : Good fz t0 ws Q s) :
    ∀ u, execPcieEndpointReady t s = .next u → Good fz t0 ws Q u := by
  unfold execPcieEndpointReady
  try dsimp only
  repeat' with_reducible refine event_good ?_ ?_
  all_goals repeat' first
    | with_reducible assumption
    | intro _
    | (with_reducible refine Good.parts ?_ rfl rfl rfl rfl rfl rfl rfl rfl rfl rfl; with_reducible assumption)

theorem blowFuses_good {p : Part} {a : Instant} {w : List Instr} {Q : List Contract → List Effect → Prop} {ok : Bool} {s : State}
    (h : Good p a w Q s) : Good p a w Q (blowFuses ok s).1 := by
  unfold blowFuses
  dsimp only
  split
  · exact h
  · rename_i hv
    split
    · exact { h with rollback := Nat.le_trans h.rollback (Nat.le_of_not_le hv) }
    · exact drawn_good { h with rollback := Nat.le_trans h.rollback (Nat.le_add_right _ _) }

theorem postBadRows_good {s : State} (h : Good fz t0 ws Q s) :
    Good fz t0 ws Q (postBadRows s) := by
  unfold postBadRows
  try dsimp only
  repeat' first
    | with_reducible assumption
    | intro _
    | with_reducible apply postAll_good
    | with_reducible apply raiseAlert_good
    | with_reducible apply Good.ite
    | with_reducible apply Good.foldl
    | (with_reducible refine Good.parts ?_ rfl rfl rfl rfl rfl rfl rfl rfl rfl rfl; with_reducible assumption)

theorem trainConfigured_good {s : State} (h : Good fz t0 ws Q s) :
    Good fz t0 ws Q (trainConfigured s) := by
  unfold trainConfigured
  repeat' first
    | with_reducible assumption
    | intro _
    | with_reducible apply startTraining_good
    | with_reducible apply Good.ite
    | with_reducible apply Good.foldl

theorem becomeReady_good {s : State} (h : Good fz t0 ws Q s) :
    Good fz t0 ws Q (becomeReady s) := by
  unfold becomeReady
  try dsimp only
  repeat' first
    | with_reducible assumption
    | intro _
    | with_reducible apply postBadRows_good
    | with_reducible apply trainConfigured_good
    | with_reducible apply setFw_good
    | with_reducible apply adminReady_good
    | with_reducible apply Good.foldl

theorem execAcregaReady_good {t : Instant} {qf qe : Nat} {fuseOk : Bool} {s : State} (h : Good fz t0 ws Q s) :
    ∀ u, execAcregaReady t qf qe fuseOk s = .next u → Good fz t0 ws Q u := by
  unfold execAcregaReady
  try dsimp only
  repeat' first
    | with_reducible refine event_good ?_ ?_
    | split
  all_goals repeat' first
    | with_reducible assumption
    | intro _
    | with_reducible apply blowFuses_good
    | with_reducible apply becomeReady_good
    | with_reducible apply State_modTick_good
    | with_reducible apply setFw_good
    | with_reducible apply Good.ite

theorem execJtagInstruction_good {t : Instant} {instr : JtagInstr} {s : State} (h : Good fz t0 ws Q s) :
    ∀ u, execJtagInstruction t instr s = .next u → Good fz t0 ws Q u := by
  unfold execJtagInstruction
  try dsimp only
  repeat' first
    | with_reducible refine next_good ?_
    | split
  all_goals repeat' first
    | with_reducible assumption
    | (with_reducible refine Good.parts ?_ rfl rfl rfl rfl rfl rfl rfl rfl rfl rfl; with_reducible apply advance_good)

/-! ### DebugRows -/

theorem execDebugPeek_good {t : Instant} {r : RingRef} {e : Entry} {s : State} (h : Good fz t0 ws Q s) :
    ∀ u, execDebugPeek t r e s = .next u → Good fz t0 ws Q u := by
  unfold execDebugPeek
  try dsimp only
  repeat' first
    | with_reducible refine command_good ?_ ?_
    | split
  all_goals repeat' first
    | with_reducible assumption
    | intro _
    | with_reducible apply finish_good

theorem debugWrite_good {x0 off : Nat} {value mask : BitVec 32} {s : State} (h : Good fz t0 ws Q s) :
    Good fz t0 ws Q (debugWrite x0 off value mask s) := by
  unfold debugWrite
  repeat' first
    | with_reducible assumption
    | with_reducible apply Good.ite
    | (with_reducible refine Good.parts ?_ rfl rfl rfl rfl rfl rfl rfl rfl rfl rfl; with_reducible assumption)

theorem execDebugPoke_good {t : Instant} {r : RingRef} {e : Entry} {s : State} (h : Good fz t0 ws Q s) :
    ∀ u, execDebugPoke t r e s = .next u → Good fz t0 ws Q u := by
  unfold execDebugPoke
  try dsimp only
  repeat' with_reducible refine command_good ?_ ?_
  all_goals repeat' first
    | with_reducible assumption
    | intro _
    | with_reducible apply done_good
    | with_reducible apply debugWrite_good

/-! ### DeviceCommands -/

theorem execIdentify_good {t : Instant} {r : RingRef} {e : Entry} {s : State} (h : Good fz t0 ws Q s) :
    ∀ u, execIdentify t r e s = .next u → Good fz t0 ws Q u := by
  unfold execIdentify
  repeat' with_reducible refine command_good ?_ ?_
  all_goals repeat' first
    | with_reducible assumption
    | intro _
    | with_reducible apply finish_good

theorem execRingCreate_good {t : Instant} {r : RingRef} {e : Entry} {s : State} (h : Good fz t0 ws Q s) :
    ∀ u, execRingCreate t r e s = .next u → Good fz t0 ws Q u := by
  unfold execRingCreate
  try dsimp only
  split
  · exact next_good (advance_good h)
  refine command_good ?_ h
  intro q_ s_ h_
  try dsimp only
  repeat' first
    | with_reducible assumption
    | intro _
    | with_reducible apply advance_good
    | with_reducible apply State_modFn_good
    | with_reducible apply done_good
    | with_reducible apply Good.ite
    | split
    | (with_reducible refine Good.parts ?_ rfl rfl rfl rfl rfl rfl rfl rfl rfl rfl; with_reducible assumption)

theorem ringStop_good {e : Entry} {delete : Bool} {seq : Nat} {s : State} (h : Good fz t0 ws Q s) :
    Good fz t0 ws Q (ringStop e delete seq s) := by
  unfold ringStop
  repeat' first
    | with_reducible assumption
    | with_reducible apply State_modRing_good

theorem execRingReset_good {t : Instant} {r : RingRef} {e : Entry} {s : State} (h : Good fz t0 ws Q s) :
    ∀ u, execRingReset t r e s = .next u → Good fz t0 ws Q u := by
  unfold execRingReset
  repeat' first
    | with_reducible refine command_good ?_ ?_
    | with_reducible refine next_good ?_
    | split
  all_goals repeat' first
    | with_reducible assumption
    | intro _
    | with_reducible apply ringStop_good
    | with_reducible apply advance_good

theorem execRingDelete_good {t : Instant} {r : RingRef} {e : Entry} {s : State} (h : Good fz t0 ws Q s) :
    ∀ u, execRingDelete t r e s = .next u → Good fz t0 ws Q u := by
  unfold execRingDelete
  repeat' first
    | with_reducible refine command_good ?_ ?_
    | with_reducible refine next_good ?_
    | split
  all_goals repeat' first
    | with_reducible assumption
    | intro _
    | with_reducible apply ringStop_good
    | with_reducible apply advance_good

theorem execArbSet_good {t : Instant} {r : RingRef} {e : Entry} {s : State} (h : Good fz t0 ws Q s) :
    ∀ u, execArbSet t r e s = .next u → Good fz t0 ws Q u := by
  unfold execArbSet
  repeat' with_reducible refine command_good ?_ ?_
  all_goals repeat' first
    | with_reducible assumption
    | intro _
    | with_reducible apply done_good
    | with_reducible apply State_modFn_good
    | with_reducible apply Good.ite
    | with_reducible apply Good.foldl

theorem emptySlot_good {s : State} (h : Good fz t0 ws Q s) :
    Good fz t0 ws Q (emptySlot s) := by
  unfold emptySlot
  try dsimp only
  repeat' first
    | with_reducible assumption
    | intro _
    | with_reducible apply Good.ite
    | split
    | (with_reducible refine Good.parts ?_ rfl rfl rfl rfl rfl rfl rfl rfl rfl rfl; with_reducible assumption)
    | (with_reducible refine Good.parts ?_ rfl rfl rfl rfl rfl rfl rfl rfl rfl (by simp only [lmod, List.length_modify, List.length_map, List.length_set]); with_reducible assumption)

theorem execFwUpdate_good {t : Instant} {r : RingRef} {e : Entry} {buf : Option (List Byte)} {s : State} (h : Good fz t0 ws Q s) :
    ∀ u, execFwUpdate t r e buf s = .next u → Good fz t0 ws Q u := by
  unfold execFwUpdate
  try dsimp only
  split
  · exact next_good (advance_good h)
  refine bufCommandAfter_good (fun _ h => emptySlot_good h) ?_ h
  intro q_ s_ h_
  try dsimp only
  repeat' first
    | with_reducible assumption
    | intro _
    | with_reducible apply advance_good
    | with_reducible apply emptySlot_good
    | with_reducible apply Good.ite
    | split
    | (with_reducible refine Good.parts ?_ rfl rfl rfl rfl rfl rfl rfl rfl rfl rfl; with_reducible assumption)

theorem execFlashWriteEnd_good {t : Instant} {ok : Bool} {s : State} (h : Good fz t0 ws Q s) :
    ∀ u, execFlashWriteEnd t ok s = .next u → Good fz t0 ws Q u := by
  unfold execFlashWriteEnd
  try dsimp only
  repeat' first
    | with_reducible refine event_good ?_ ?_
    | split
  all_goals repeat' first
    | with_reducible assumption
    | intro _
    | with_reducible apply settle_good
    | with_reducible apply finish_good
    | with_reducible apply Good.ite
    | (with_reducible refine Good.parts ?_ rfl rfl rfl rfl rfl rfl rfl rfl rfl rfl; with_reducible assumption)
    | split

theorem execFwRestart_good {t : Instant} {r : RingRef} {e : Entry} {s : State} (h : Good fz t0 ws Q s) :
    ∀ u, execFwRestart t r e s = .next u → Good fz t0 ws Q u := by
  unfold execFwRestart
  try dsimp only
  repeat' with_reducible refine command_good ?_ ?_
  all_goals repeat' first
    | with_reducible assumption
    | intro _
    | (with_reducible refine Good.parts ?_ rfl rfl rfl rfl rfl rfl rfl rfl rfl rfl; with_reducible apply done_good)

theorem execDeviceReset_good {t : Instant} {r : RingRef} {e : Entry} {s : State} (h : Good fz t0 ws Q s) :
    ∀ u, execDeviceReset t r e s = .next u → Good fz t0 ws Q u := by
  unfold execDeviceReset
  try dsimp only
  repeat' with_reducible refine command_good ?_ ?_
  all_goals repeat' first
    | with_reducible assumption
    | intro _
    | (with_reducible refine Good.parts ?_ rfl rfl rfl rfl rfl rfl rfl rfl rfl rfl; with_reducible apply done_good)

theorem execPowerStateSet_good {t : Instant} {r : RingRef} {e : Entry} {s : State} (h : Good fz t0 ws Q s) :
    ∀ u, execPowerStateSet t r e s = .next u → Good fz t0 ws Q u := by
  unfold execPowerStateSet
  try dsimp only
  repeat' with_reducible refine command_good ?_ ?_
  all_goals repeat' first
    | with_reducible assumption
    | intro _
    | with_reducible apply done_good
    | with_reducible apply deferredOk_good
    | with_reducible apply State_modPower_good
    | with_reducible apply Good.ite

theorem conflict_free {s : State} {n : Nat} {c : Contract} (h : contractConflict s n c = false) :
    (∀ m, m < 4 → m ≠ n → contractsClash c (s.contract m) = false) ∧
    ∀ m d, Effect.partition m d ∈ s.deferred → m ≠ n → contractsClash d c = false := by
  unfold contractConflict at h
  simp only [Bool.or_eq_false_iff, List.any_eq_false, List.mem_range, Bool.and_eq_true, decide_eq_true_eq, not_and,
    Bool.not_eq_true] at h
  refine ⟨fun m hm hn => h.1 m hm hn, fun m d hm hn => ?_⟩
  have := h.2 _ hm
  simp only [Bool.and_eq_false_iff, decide_eq_false_iff_not] at this
  rw [contractsClash_comm]
  exact this.resolve_left fun hx => hx hn

/-- A contract that clashes with none takes the place of a tenant's, now or at the next opening. -/
theorem newContract_good {p : Part} {a : Instant} {w : List Instr} {q n : Nat} {c : Contract} {s : State}
    (h : Good p a w contractsApart s) (hc : contractConflict s n c = false) :
    Good p a w contractsApart (deferStar q (.partition n c) (setContract n c) s) := by
  obtain ⟨h1, h2⟩ := conflict_free hc
  unfold deferStar
  refine Good.ite (deferredOk_good { h with apart := ?_ }) (done_good (setContract_good h h1 h2))
  obtain ⟨g1, g2, g3⟩ := h.apart
  refine ⟨g1, fun m d b hm hb hn => ?_, fun m d k f hm hk hn => ?_⟩
  · rcases List.mem_append.1 hm with hm | hm
    · exact g2 m d b hm hb hn
    · cases List.mem_singleton.1 hm
      exact h1 b hb fun hh => hn hh.symm
  · rcases List.mem_append.1 hm with hm | hm
    · rcases List.mem_append.1 hk with hk | hk
      · exact g3 m d k f hm hk hn
      · cases List.mem_singleton.1 hk
        exact h2 m d hm hn
    · cases List.mem_singleton.1 hm
      rcases List.mem_append.1 hk with hk | hk
      · rw [contractsClash_comm]
        exact h2 k f hk fun hh => hn hh.symm
      · cases List.mem_singleton.1 hk
        exact absurd rfl hn

theorem execPartitionSet_good {p : Part} {a : Instant} {w : List Instr} {t : Instant} {r : RingRef} {e : Entry}
    {buf : Option (List Byte)} {s : State} (h : Good p a w contractsApart s) :
    ∀ u, execPartitionSet t r e buf s = .next u → Good p a w contractsApart u := by
  unfold execPartitionSet
  refine bufCommand_checked (fun q s h hx => newContract_good h ?_) h
  cases buf with
  | none => exact absurd (hx (true, .hostDmaError) (by simp)) (by simp)
  | some d =>
    have h1 := hx (badIf (!contractOk s (fit 256 d))) (by simp)
    have h2 := hx (contractOk s (fit 256 d) &&
      contractConflict s (fld (fit 256 d) 0 1) (parseContract (fit 256 d)), .conflict) (by simp)
    simp only [badIf, Bool.not_eq_false'] at h1
    simpa [h1] using h2

theorem execPartitionGet_good {t : Instant} {r : RingRef} {e : Entry} {ok : Bool} {s : State} (h : Good fz t0 ws Q s)
    :
    ∀ u, execPartitionGet t r e ok s = .next u → Good fz t0 ws Q u := by
  unfold execPartitionGet
  try dsimp only
  repeat' with_reducible refine command_good ?_ ?_
  all_goals repeat' first
    | with_reducible assumption
    | intro _
    | with_reducible apply writeBuffer_good

theorem execPartitionReset_good {p : Part} {a : Instant} {w : List Instr} {t : Instant} {r : RingRef} {e : Entry}
    {s : State} (h : Good p a w contractsApart s) :
    ∀ u, execPartitionReset t r e s = .next u → Good p a w contractsApart u := by
  unfold execPartitionReset
  refine command_checked (fun q s h hx => newContract_good h ?_) h
  have h1 := hx (badTenant e) (by simp)
  have h2 := hx (decide (efld e 16 1 < 4) && contractConflict s (efld e 16 1) (.reset (efld e 16 1)), .conflict) (by simp)
  simp only [badTenant, badIf, decide_eq_false_iff_not] at h1
  have h3 : efld e 16 1 < 4 := by omega
  simpa [h3] using h2

/-! ### HostRows -/

theorem execSqTailDoorbell_good {t : Instant} {r : RingRef} {value : BitVec 32} {whole : Bool} {s : State} (h : Good
    fz t0 ws Q s) :
    ∀ u, execSqTailDoorbell t r value whole s = .next u → Good fz t0 ws Q u := by
  unfold execSqTailDoorbell
  repeat' first
    | with_reducible refine hostRow_good ?_ ?_
    | split
  all_goals repeat' first
    | with_reducible assumption
    | intro _
    | with_reducible apply writeTail_good
    | with_reducible apply partDoorbell_good

theorem execCqHeadDoorbell_good {t : Instant} {r : RingRef} {value : BitVec 32} {whole : Bool} {s : State} (h : Good
    fz t0 ws Q s) :
    ∀ u, execCqHeadDoorbell t r value whole s = .next u → Good fz t0 ws Q u := by
  unfold execCqHeadDoorbell
  repeat' first
    | with_reducible refine hostRow_good ?_ ?_
    | split
  all_goals repeat' first
    | with_reducible assumption
    | intro _
    | with_reducible apply writeHead_good
    | with_reducible apply partDoorbell_good

theorem execResultHeadDoorbell_good {t : Instant} {fn : Fin 4} {ring : Fin 64} {value : BitVec 32} {s : State} (h :
    Good fz t0 ws Q s) :
    ∀ u, execResultHeadDoorbell t fn ring value s = .next u → Good fz t0 ws Q u := by
  unfold execResultHeadDoorbell
  repeat' with_reducible refine hostRow_good ?_ ?_
  all_goals repeat' first
    | with_reducible assumption
    | intro _
    | with_reducible apply writeResultHead_good

theorem execDeviceTimeLoRead_good {t : Instant} {read : RegisterRead} {s : State} (h : Good fz t0 ws Q s) :
    ∀ u, execDeviceTimeLoRead t read s = .next u → Good fz t0 ws Q u := by
  unfold execDeviceTimeLoRead
  try dsimp only
  refine hostRow_good ?_ h
  intro s_ h_
  try dsimp only
  repeat' first
    | with_reducible assumption
    | intro _
    | with_reducible apply emit_good
    | with_reducible apply readBar0_good

theorem execAdminEnable_good {t : Instant} {fn : Fin 4} {s : State} (h : Good fz t0 ws Q s) :
    ∀ u, execAdminEnable t fn s = .next u → Good fz t0 ws Q u := by
  unfold execAdminEnable
  repeat' with_reducible refine hostRow_good ?_ ?_
  all_goals repeat' first
    | with_reducible assumption
    | intro _
    | with_reducible apply enableAdmin_good

theorem execAdminDisable_good {t : Instant} {fn : Fin 4} {s : State} (h : Good fz t0 ws Q s) :
    ∀ u, execAdminDisable t fn s = .next u → Good fz t0 ws Q u := by
  unfold execAdminDisable
  repeat' with_reducible refine hostRow_good ?_ ?_
  all_goals repeat' first
    | with_reducible assumption
    | intro _
    | with_reducible apply disableAdmin_good

theorem execIntCauseClear_good {t : Instant} {fn : Fin 4} {mask : BitVec 32} {s : State} (h : Good fz t0 ws Q s) :
    ∀ u, execIntCauseClear t fn mask s = .next u → Good fz t0 ws Q u := by
  unfold execIntCauseClear
  repeat' with_reducible refine hostRow_good ?_ ?_
  all_goals repeat' first
    | with_reducible assumption
    | intro _
    | with_reducible apply writeBar0_good

theorem execAlertStatusClear_good {t : Instant} {fn : Fin 4} {mask : BitVec 32} {s : State} (h : Good fz t0 ws Q s) :
    ∀ u, execAlertStatusClear t fn mask s = .next u → Good fz t0 ws Q u := by
  unfold execAlertStatusClear
  repeat' with_reducible refine hostRow_good ?_ ?_
  all_goals repeat' first
    | with_reducible assumption
    | intro _
    | with_reducible apply writeBar0_good

theorem execRegisterWrite_good {t : Instant} {fn : Fin 4} {offset : BitVec 20} {value : BitVec 32} {len : Nat} {s : State} (h : Good fz t0 ws Q s) :
    ∀ u, execRegisterWrite t fn offset value len s = .next u → Good fz t0 ws Q u := by
  unfold execRegisterWrite
  try dsimp only
  refine hostRow_good ?_ h
  intro s_ h_
  try dsimp only
  repeat' first
    | with_reducible assumption
    | intro _
    | with_reducible apply partDoorbell_good
    | with_reducible apply writeBar0_good
    | with_reducible apply Good.ite
    | with_reducible apply Good.foldl
    | split

theorem execBar2Write_good {t : Instant} {fn : Fin 4} {x2 : BitVec 29} {x3 : List Byte} {s : State} (h : Good fz t0 ws
    Q s) :
    ∀ u, execBar2Write t fn x2 x3 s = .next u → Good fz t0 ws Q u := by
  unfold execBar2Write
  repeat' with_reducible refine hostRow_good ?_ ?_
  all_goals repeat' first
    | with_reducible assumption
    | intro _
    | with_reducible apply State_modFn_good

theorem execMsixUnmask_good {t : Instant} {fn : Fin 4} {vector : Fin 32} {s : State} (h : Good fz t0 ws Q s) :
    ∀ u, execMsixUnmask t fn vector s = .next u → Good fz t0 ws Q u := by
  unfold execMsixUnmask
  repeat' with_reducible refine hostRow_good ?_ ?_
  all_goals repeat' first
    | with_reducible assumption
    | intro _
    | with_reducible apply unmask_good

theorem dropResultRings_good {tenant : Nat} {which : Nat → Bool} {s : State} (h : Good fz t0 ws Q s) :
    Good fz t0 ws Q (dropResultRings tenant which s) := by
  unfold dropResultRings
  repeat' first
    | with_reducible assumption
    | with_reducible apply State_modEgress_good

theorem execFunctionLevelReset_good {t : Instant} {fn : Fin 4} {s : State} (h : Good fz t0 ws Q s) :
    ∀ u, execFunctionLevelReset t fn s = .next u → Good fz t0 ws Q u := by
  unfold execFunctionLevelReset
  try dsimp only
  repeat' with_reducible refine hostRow_good ?_ ?_
  all_goals repeat' first
    | with_reducible assumption
    | intro _
    | with_reducible apply settle_good
    | with_reducible apply dropResultRings_good
    | (with_reducible refine Good.parts ?_ rfl rfl rfl rfl rfl rfl rfl rfl rfl rfl; with_reducible apply State_modFn_good)

theorem execBusMasterEnableClear_good {t : Instant} {fn : Fin 4} {s : State} (h : Good fz t0 ws Q s) :
    ∀ u, execBusMasterEnableClear t fn s = .next u → Good fz t0 ws Q u := by
  unfold execBusMasterEnableClear
  repeat' with_reducible refine hostRow_good ?_ ?_
  all_goals repeat' first
    | with_reducible assumption
    | intro _
    | with_reducible apply State_modFn_good

theorem execBusMasterEnableSet_good {t : Instant} {host : BusMaster} {s : State} (h : Good fz t0 ws Q s) :
    ∀ u, execBusMasterEnableSet t host s = .next u → Good fz t0 ws Q u := by
  unfold execBusMasterEnableSet
  try dsimp only
  refine hostRow_good ?_ h
  intro s_ h_
  try dsimp only
  repeat' first
    | with_reducible assumption
    | intro _
    | with_reducible apply State_modFn_good
    | with_reducible apply settle_good
    | with_reducible apply release_good
    | (with_reducible refine Good.parts ?_ rfl rfl rfl rfl rfl rfl rfl rfl rfl rfl; with_reducible assumption)

theorem execPcieLinkDown_good {t : Instant} {s : State} (h : Good fz t0 ws Q s) :
    ∀ u, execPcieLinkDown t s = .next u → Good fz t0 ws Q u := by
  unfold execPcieLinkDown
  repeat' with_reducible refine event_good ?_ ?_
  all_goals repeat' first
    | with_reducible assumption
    | intro _
    | with_reducible apply State_modEgress_good
    | with_reducible apply raiseAlert_good
    | (with_reducible refine Good.parts ?_ rfl rfl rfl rfl rfl rfl rfl rfl rfl rfl; with_reducible assumption)

theorem execFetchGrant_good {t : Instant} {s : State} (h : Good fz t0 ws Q s) :
    ∀ u, execFetchGrant t s = .next u → Good fz t0 ws Q u := by
  unfold execFetchGrant
  repeat' with_reducible refine event_good ?_ ?_
  all_goals repeat' first
    | with_reducible assumption
    | intro _
    | with_reducible apply fetch_good
    | with_reducible apply Good.ite
    | (with_reducible refine Good.parts ?_ rfl rfl rfl rfl rfl rfl rfl rfl rfl rfl; with_reducible assumption)
    | split

theorem execSqEntryFetched_good {t : Instant} {r : RingRef} {entry : Option Entry} {s : State} (h : Good fz t0 ws Q s) :
    ∀ u, execSqEntryFetched t r entry s = .next u → Good fz t0 ws Q u := by
  unfold execSqEntryFetched
  try dsimp only
  refine event_good ?_ h
  intro s_ h_
  try dsimp only
  repeat' first
    | with_reducible assumption
    | intro _
    | with_reducible apply State_modRing_good
    | with_reducible apply flushEvents_good
    | with_reducible apply ringError_good
    | with_reducible apply settle_good
    | with_reducible apply Good.ite
    | split
    | (with_reducible refine Good.parts ?_ rfl rfl rfl rfl rfl rfl rfl rfl rfl rfl; with_reducible assumption)

theorem execCqModerationTimer_good {t : Instant} {r : RingRef} {s : State} (h : Good fz t0 ws Q s) :
    ∀ u, execCqModerationTimer t r s = .next u → Good fz t0 ws Q u := by
  unfold execCqModerationTimer
  repeat' with_reducible refine event_good ?_ ?_
  all_goals repeat' first
    | with_reducible assumption
    | intro _
    | with_reducible apply sendVector_good
    | with_reducible apply State_modRing_good
    | with_reducible apply Good.ite
    | split

theorem execFwRestartBegin_good {t : Instant} {s : State} (h : Good fz t0 ws Q s) :
    ∀ u, execFwRestartBegin t s = .next u → Good fz t0 ws Q u := by
  unfold execFwRestartBegin
  repeat' with_reducible refine event_good ?_ ?_
  all_goals repeat' first
    | with_reducible assumption
    | intro _
    | with_reducible apply beginRestart_good
    | with_reducible apply Good.ite

theorem execFwRestartEnd_good {t : Instant} {s : State} (h : Good fz t0 ws Q s) :
    ∀ u, execFwRestartEnd t s = .next u → Good fz t0 ws Q u := by
  unfold execFwRestartEnd
  try dsimp only
  refine event_good ?_ h
  intro s_ h_
  try dsimp only
  repeat' first
    | with_reducible assumption
    | intro _
    | with_reducible apply flushEvents_good
    | with_reducible apply postAll_good
    | with_reducible apply adminReady_good
    | with_reducible apply settle_good
    | with_reducible apply setFw_good
    | with_reducible apply failFw_good
    | with_reducible apply busyAll_good
    | with_reducible apply Good.ite
    | with_reducible apply Good.foldl
    | split
    | (with_reducible refine Good.parts ?_ rfl rfl rfl rfl rfl rfl rfl rfl rfl rfl; with_reducible assumption)

theorem execFwRestartTimeout_good {t : Instant} {s : State} (h : Good fz t0 ws Q s) :
    ∀ u, execFwRestartTimeout t s = .next u → Good fz t0 ws Q u := by
  unfold execFwRestartTimeout
  repeat' with_reducible refine event_good ?_ ?_
  all_goals repeat' first
    | with_reducible assumption
    | intro _
    | with_reducible apply failFw_good
    | with_reducible apply Good.ite
    | split

theorem execAcregaWatchdogExpiry_good {t : Instant} {s : State} (h : Good fz t0 ws Q s) :
    ∀ u, execAcregaWatchdogExpiry t s = .next u → Good fz t0 ws Q u := by
  unfold execAcregaWatchdogExpiry
  repeat' with_reducible refine event_good ?_ ?_
  all_goals repeat' first
    | with_reducible assumption
    | intro _
    | with_reducible apply crash_good

theorem execControlMemoryError_good {t : Instant} {s : State} (h : Good fz t0 ws Q s) :
    ∀ u, execControlMemoryError t s = .next u → Good fz t0 ws Q u := by
  unfold execControlMemoryError
  repeat' with_reducible refine event_good ?_ ?_
  all_goals repeat' first
    | with_reducible assumption
    | intro _
    | with_reducible apply crash_good

end Sys2Proof.Machine
end

