-- ==== Sys2Proof/Laws/KeepResult.lean ====
section
/-!
SUPPORT. Every operation keeps a good state good: results, Tally, the drain, the Drover and Halter rows, movements, telemetry.
-/
namespace Sys2Proof.Machine

set_option maxRecDepth 2000
set_option linter.unusedSimpArgs false
set_option linter.unusedTactic false
set_option linter.unreachableTactic false

variable {fz : Part} {t0 : Instant} {ws : List Instr} {Q : List Contract → List Effect → Prop}

/-! ### ResultRows -/

theorem execResultRingCreate_good {t : Instant} {r : RingRef} {e : Entry} {s : State} (h : Good fz t0 ws Q s) :
    ∀ u, execResultRingCreate t r e s = .next u → Good fz t0 ws Q u := by
  unfold execResultRingCreate
  try dsimp only
  repeat' with_reducible refine command_good ?_ ?_
  all_goals repeat' first
    | with_reducible assumption
    | intro _
    | with_reducible apply done_good
    | with_reducible apply State_modEgress_good

theorem execResultRingDelete_good {t : Instant} {r : RingRef} {e : Entry} {s : State} (h : Good fz t0 ws Q s) :
    ∀ u, execResultRingDelete t r e s = .next u → Good fz t0 ws Q u := by
  unfold execResultRingDelete
  try dsimp only
  repeat' with_reducible refine command_good ?_ ?_
  all_goals repeat' first
    | with_reducible assumption
    | intro _
    | with_reducible apply done_good
    | with_reducible apply dropResultRings_good

theorem grantPage_good {n m : Nat} {flaws : List (Nat × Flips)} {s : State} (h : Good fz t0 ws Q s) :
    Good fz t0 ws Q (grantPage n m flaws s) := by
  unfold grantPage
  try dsimp only
  repeat' first
    | with_reducible assumption
    | intro _
    | with_reducible apply State_modEgress_good
    | with_reducible apply findFlaws_good
    | with_reducible apply detectRows_good
    | with_reducible apply State_modResultRing_good
    | with_reducible apply start_good
    | with_reducible apply Good.ite
    | split
    | (with_reducible refine Good.parts ?_ rfl rfl rfl rfl rfl rfl rfl rfl rfl rfl; with_reducible assumption)

theorem tryPage_good {n m : Nat} {flaws : List (Nat × Flips)} {s : State} (h : Good fz t0 ws Q s) :
    Good fz t0 ws Q (tryPage n m flaws s) := by
  unfold tryPage
  try dsimp only
  repeat' first
    | with_reducible assumption
    | intro _
    | with_reducible apply State_modEgress_good
    | with_reducible apply passStalls_good
    | with_reducible apply grantPage_good
    | with_reducible apply grantRow_good
    | with_reducible apply grantPage_good
    | with_reducible apply Good.ite
    | split
    | (with_reducible refine Good.parts ?_ rfl rfl rfl rfl rfl rfl rfl rfl rfl rfl; with_reducible assumption)

theorem execEgressPageGrant_good {t : Instant} {flaws : List (Nat × Flips)} {credits : Bool} {s : State} (h : Good fz t0 ws Q s) :
    ∀ u, execEgressPageGrant t flaws credits s = .next u → Good fz t0 ws Q u := by
  unfold execEgressPageGrant
  try dsimp only
  refine event_good ?_ h
  intro s_ h_
  try dsimp only
  repeat' first
    | with_reducible assumption
    | intro _
    | with_reducible apply sendQueued_good
    | with_reducible apply tryPage_good
    | with_reducible apply Good.ite
    | split
    | (with_reducible refine Good.parts ?_ rfl rfl rfl rfl rfl rfl rfl rfl rfl rfl; with_reducible assumption)

theorem execEgressDescriptor_good {t : Instant} {tenant : Fin 4} {ring : Fin 64} {credits : Bool} {s : State} (h :
    Good fz t0 ws Q s) :
    ∀ u, execEgressDescriptor t tenant ring credits s = .next u → Good fz t0 ws Q u := by
  unfold execEgressDescriptor
  repeat' with_reducible refine event_good ?_ ?_
  all_goals repeat' first
    | with_reducible assumption
    | intro _
    | with_reducible apply queueDescriptor_good
    | with_reducible apply sendQueued_good
    | with_reducible apply Good.ite
    | split

theorem execResultModerationTimer_good {t : Instant} {tenant : Fin 4} {ring : Fin 64} {s : State} (h : Good fz t0 ws Q
    s) :
    ∀ u, execResultModerationTimer t tenant ring s = .next u → Good fz t0 ws Q u := by
  unfold execResultModerationTimer
  repeat' with_reducible refine event_good ?_ ?_
  all_goals repeat' first
    | with_reducible assumption
    | intro _
    | with_reducible apply sendVector_good
    | with_reducible apply State_modResultRing_good
    | with_reducible apply Good.ite
    | split

theorem flushRing_good {n m : Nat} {s : State} (h : Good fz t0 ws Q s) :
    Good fz t0 ws Q (flushRing n m s) := by
  unfold flushRing
  try dsimp only
  repeat' first
    | with_reducible assumption
    | with_reducible apply State_modResultRing_good
    | with_reducible apply queueDescriptor_good
    | with_reducible apply Good.ite
    | split

theorem flushEgress_good {s : State} (h : Good fz t0 ws Q s) :
    Good fz t0 ws Q (flushEgress s) := by
  unfold flushEgress
  repeat' first
    | with_reducible assumption
    | intro _
    | with_reducible apply flushRing_good
    | with_reducible apply Good.foldl

/-! ### TallyRows -/

theorem execTallyConfig_good {t : Instant} {r : RingRef} {e : Entry} {buf : Option (List Byte)} {s : State} (h : Good fz t0 ws contractsApart s) :
    ∀ u, execTallyConfig t r e buf s = .next u → Good fz t0 ws contractsApart u := by
  unfold execTallyConfig
  try dsimp only
  refine bufCommand_good ?_ h
  intro q_ s_ h_
  try dsimp only
  repeat' first
    | with_reducible assumption
    | intro _
    | with_reducible apply defer_good
    | with_reducible apply deferredOk_good
    | split
    | (with_reducible refine Good.parts ?_ rfl rfl rfl rfl rfl rfl rfl rfl rfl rfl; with_reducible assumption)
    | contradiction

theorem mem_dropLast {α : Type} {f : α → Bool} {l : List α} {x : α} (h : x ∈ dropLast f l) : x ∈ l :=
  List.mem_reverse.1 (List.mem_of_mem_eraseP (List.mem_reverse.1 h))

theorem execTallyControl_good {p : Part} {a : Instant} {w : List Instr} {t : Instant} {r : RingRef} {e : Entry} {s : State}
    (h : Good p a w contractsApart s) : ∀ u, execTallyControl t r e s = .next u → Good p a w contractsApart u := by
  unfold execTallyControl
  refine command_good (fun q s h => ?_) h
  try dsimp only
  split
  · exact deferredOk_good (defer_good h fun _ _ hh => by cases hh)
  · split
    · exact done_good (h.fewer (fun n c hm => mem_dropLast hm) rfl rfl rfl rfl rfl rfl rfl rfl fun hh => hh)
    · exact deferredOk_good (defer_good h fun _ _ hh => by cases hh)

theorem applyTallyConfig_good {c : TallyConfig} {s : State} (h : Good fz t0 ws Q s) :
    Good fz t0 ws Q (applyTallyConfig c s) := by
  unfold applyTallyConfig
  try dsimp only
  repeat' first
    | with_reducible assumption
    | with_reducible apply tracePort_good
    | with_reducible apply State_modTally_good

theorem applyTallyStart_good {s : State} (h : Good fz t0 ws Q s) :
    Good fz t0 ws Q (applyTallyStart s) := by
  unfold applyTallyStart
  repeat' first
    | with_reducible assumption
    | with_reducible apply State_modTally_good

theorem padStream_good {s : State} (h : Good fz t0 ws Q s) :
    Good fz t0 ws Q (padStream s) := by
  unfold padStream
  try dsimp only
  repeat' first
    | with_reducible assumption
    | with_reducible apply tracePort_good
    | with_reducible apply State_modTally_good

theorem applyTallyStop_good {s : State} (h : Good fz t0 ws Q s) :
    Good fz t0 ws Q (applyTallyStop s) := by
  unfold applyTallyStop
  repeat' first
    | with_reducible assumption
    | with_reducible apply padStream_good
    | with_reducible apply State_modTally_good

theorem openingSync_good {s : State} (h : Good fz t0 ws Q s) :
    Good fz t0 ws Q (openingSync s) := by
  unfold openingSync
  repeat' first
    | with_reducible assumption
    | with_reducible apply tracePort_good
    | with_reducible apply tallySync_good
    | with_reducible apply Good.ite

theorem slotPad_good {s : State} (h : Good fz t0 ws Q s) :
    Good fz t0 ws Q (slotPad s) := by
  unfold slotPad
  repeat' first
    | with_reducible assumption
    | with_reducible apply padStream_good
    | with_reducible apply Good.ite
    | split

theorem tallyPhase_good {arg : Nat} {s : State} (h : Good fz t0 ws Q s) :
    Good fz t0 ws Q (tallyPhase arg s) := by
  unfold tallyPhase
  repeat' first
    | with_reducible assumption
    | with_reducible apply tallyDrover_good

theorem sendRing_good {x : Nat} {d : List Byte} {s : State} (h : Good fz t0 ws Q s) :
    Good fz t0 ws Q (sendRing x d s).1 := by
  unfold sendRing
  try dsimp only
  repeat' first
    | with_reducible assumption
    | intro _
    | with_reducible apply sendRequest_good

theorem execTallyRingWrite_good {t : Instant} {last : Fin 8} {s : State} (h : Good fz t0 ws Q s) :
    ∀ u, execTallyRingWrite t last s = .next u → Good fz t0 ws Q u := by
  unfold execTallyRingWrite
  try dsimp only
  refine event_good ?_ h
  intro s_ h_
  try dsimp only
  repeat' first
    | with_reducible assumption
    | intro _
    | with_reducible apply State_modTally_good
    | with_reducible apply tracePort_good
    | with_reducible apply sendRing_good
    | with_reducible apply Good.ite
    | split
    | (with_reducible refine Good.parts ?_ rfl rfl rfl rfl rfl rfl rfl rfl rfl rfl; with_reducible assumption)

theorem execTallyOverflowResume_good {t : Instant} {s : State} (h : Good fz t0 ws Q s) :
    ∀ u, execTallyOverflowResume t s = .next u → Good fz t0 ws Q u := by
  unfold execTallyOverflowResume
  try dsimp only
  repeat' with_reducible refine event_good ?_ ?_
  all_goals repeat' first
    | with_reducible assumption
    | intro _
    | with_reducible apply tallyBytes_good
    | with_reducible apply tracePort_good
    | with_reducible apply State_modTally_good
    | with_reducible apply tallySync_good
    | with_reducible apply Good.ite
    | split

/-! ### DrainOps -/

theorem setPhase_good {p : Phase} {s : State} (h : Good fz t0 ws Q s) :
    Good fz t0 ws Q (setPhase p s) := by
  unfold setPhase
  repeat' first
    | with_reducible assumption
    | with_reducible apply State_modTick_good

theorem stopDispatch_good {s : State} (h : Good fz t0 ws Q s) :
    Good fz t0 ws Q (stopDispatch s) := by
  unfold stopDispatch
  try dsimp only
  repeat' first
    | with_reducible assumption
    | intro _
    | with_reducible apply State_modGraph_good
    | with_reducible apply postGraph_good
    | with_reducible apply setPhase_good
    | with_reducible apply tallyPhase_good
    | with_reducible apply Good.ite
    | with_reducible apply Good.foldl
    | split

theorem guillotineStep_good {s : State} (h : Good fz t0 ws Q s) :
    Good fz t0 ws Q (guillotineStep s) := by
  unfold guillotineStep
  repeat' first
    | with_reducible assumption
    | with_reducible apply discardRequests_good
    | with_reducible apply guillotineAll_good
    | with_reducible apply setPhase_good
    | with_reducible apply tallyPhase_good
    | with_reducible apply cutFrames_good

theorem quiesceStep_good {s : State} (h : Good fz t0 ws Q s) :
    Good fz t0 ws Q (quiesceStep s) := by
  unfold quiesceStep
  try dsimp only
  repeat' first
    | with_reducible assumption
    | with_reducible apply postAll_good
    | with_reducible apply rerouteSwitch_good
    | with_reducible apply applyEpoch_good
    | with_reducible apply flushLinks_good
    | with_reducible apply setPhase_good
    | with_reducible apply quiesceFabric_good
    | with_reducible apply Good.ite

theorem flushStep_good {s : State} (h : Good fz t0 ws Q s) :
    Good fz t0 ws Q (flushStep s) := by
  unfold flushStep
  repeat' first
    | with_reducible assumption
    | with_reducible apply setPhase_good
    | with_reducible apply resetTethers_good
    | with_reducible apply flushEgress_good

theorem postCorrections_good {s : State} (h : Good fz t0 ws Q s) :
    Good fz t0 ws Q (postCorrections s) := by
  unfold postCorrections
  try dsimp only
  repeat' first
    | with_reducible assumption
    | intro _
    | with_reducible apply postAll_good
    | with_reducible apply Good.ite
    | with_reducible apply Good.foldl

theorem postSlip_good {s : State} (h : Good fz t0 ws Q s) :
    Good fz t0 ws Q (postSlip s) := by
  unfold postSlip
  try dsimp only
  repeat' first
    | with_reducible assumption
    | with_reducible apply postAll_good
    | with_reducible apply countFabric_good
    | with_reducible apply Good.ite

theorem gather_good {s : State} (h : Good fz t0 ws Q s) :
    Good fz t0 ws Q (gather s) := by
  unfold gather
  repeat' first
    | with_reducible assumption
    | with_reducible apply postCorrections_good
    | with_reducible apply State_modFabric_good
    | with_reducible apply postSlip_good
    | with_reducible apply postPortErrors_good
    | with_reducible apply Good.ite

theorem selfTests_good {fails : BitVec 2} {s : State} (h : Good fz t0 ws Q s) :
    Good fz t0 ws Q (selfTests fails s) := by
  unfold selfTests
  repeat' first
    | with_reducible assumption
    | intro _
    | with_reducible apply enterStop_good
    | with_reducible apply Good.ite
    | with_reducible apply Good.foldl

theorem maintenanceStep_good {failing : List Nat} {fails : BitVec 2} {drift : Bool} {s : State} (h : Good fz t0 ws Q
    s) :
    Good fz t0 ws Q (maintenanceStep failing fails drift s) := by
  unfold maintenanceStep
  try dsimp only
  repeat' first
    | with_reducible assumption
    | with_reducible apply recalSlot_good
    | with_reducible apply retrainStep_good
    | with_reducible apply rerouteSlot_good
    | with_reducible apply slotPad_good
    | with_reducible apply selfTests_good
    | with_reducible apply slotClocks_good
    | with_reducible apply setPhase_good
    | with_reducible apply gather_good
    | with_reducible apply testSuspects_good
    | with_reducible apply tallyPhase_good
    | with_reducible apply State_modPower_good
    | with_reducible apply Good.ite

theorem drainStep_good {k : Nat} {s : State} (h : Good fz t0 ws Q s) :
    Good fz t0 ws Q (drainStep k s) := by
  unfold drainStep
  repeat' first
    | with_reducible assumption
    | with_reducible apply stopDispatch_good
    | with_reducible apply quiesceStep_good
    | with_reducible apply guillotineStep_good
    | with_reducible apply flushStep_good
    | with_reducible apply maintenanceStep_good
    | split

theorem asOf_good {at_ : Instant} {f : State → State} {s : State} (hf : ∀ s, Good fz 0 ws Q s → Good fz 0 ws Q (f s))
    (h : Good fz t0 ws Q s) : Good fz t0 ws Q (asOf at_ f s) := by
  have h1 := hf { s with now := min at_ s.now } { h.zero with time := Nat.zero_le _ }
  exact { h1 with time := h.time }

theorem drainTo_good {k : Nat} {s : State} (h : Good fz t0 ws Q s) :
    Good fz t0 ws Q (drainTo k s) := by
  unfold drainTo
  try dsimp only
  repeat' first
    | with_reducible assumption
    | intro _
    | with_reducible apply drainStep_good
    | with_reducible apply asOf_good
    | with_reducible apply Good.ite
    | with_reducible apply Good.foldl
    | split
    | (with_reducible refine Good.parts ?_ rfl rfl rfl rfl rfl rfl rfl rfl rfl rfl; with_reducible assumption)

theorem drainRow_good {k : Nat} {at_ : Window → Instant} {f : State → State} {s : State} (k2 : ∀ s_, Good fz t0 ws Q
    s_ → Good fz t0 ws Q (f s_)) (h : Good fz t0 ws Q s) :
    Good fz t0 ws Q (drainRow k at_ f s) := by
  unfold drainRow
  repeat' first
    | with_reducible assumption
    | with_reducible apply k2
    | with_reducible apply drainTo_good
    | with_reducible apply Good.ite
    | split

theorem execDrainStart_good {t : Instant} {s : State} (h : Good fz t0 ws Q s) :
    ∀ u, execDrainStart t s = .next u → Good fz t0 ws Q u := by
  unfold execDrainStart
  repeat' with_reducible refine event_good ?_ ?_
  all_goals repeat' first
    | with_reducible assumption
    | intro _
    | with_reducible apply stopDispatch_good
    | with_reducible apply drainRow_good

theorem execGuillotine_good {t : Instant} {s : State} (h : Good fz t0 ws Q s) :
    ∀ u, execGuillotine t s = .next u → Good fz t0 ws Q u := by
  unfold execGuillotine
  repeat' with_reducible refine event_good ?_ ?_
  all_goals repeat' first
    | with_reducible assumption
    | intro _
    | with_reducible apply drainRow_good
    | with_reducible apply guillotineStep_good

theorem execFabricQuiesceEnd_good {t : Instant} {s : State} (h : Good fz t0 ws Q s) :
    ∀ u, execFabricQuiesceEnd t s = .next u → Good fz t0 ws Q u := by
  unfold execFabricQuiesceEnd
  repeat' with_reducible refine event_good ?_ ?_
  all_goals repeat' first
    | with_reducible assumption
    | intro _
    | with_reducible apply quiesceStep_good
    | with_reducible apply drainRow_good

theorem execEgressFlushEnd_good {t : Instant} {s : State} (h : Good fz t0 ws Q s) :
    ∀ u, execEgressFlushEnd t s = .next u → Good fz t0 ws Q u := by
  unfold execEgressFlushEnd
  repeat' with_reducible refine event_good ?_ ?_
  all_goals repeat' first
    | with_reducible assumption
    | intro _
    | with_reducible apply drainRow_good
    | with_reducible apply flushStep_good

theorem execMaintenanceSlot_good {t : Instant} {failing : List Nat} {selfTest : BitVec 2} {drift : Bool} {s : State}
    (h : Good fz t0 ws Q s) :
    ∀ u, execMaintenanceSlot t failing selfTest drift s = .next u → Good fz t0 ws Q u := by
  unfold execMaintenanceSlot
  repeat' with_reducible refine event_good ?_ ?_
  all_goals repeat' first
    | with_reducible assumption
    | intro _
    | with_reducible apply drainRow_good
    | with_reducible apply maintenanceStep_good

/-! ### DroverRows -/

theorem execNodeDispatch_good {t : Instant} {g : GraphRef} {node : Nat} {s : State} (h : Good fz t0 ws Q s) :
    ∀ u, execNodeDispatch t g node s = .next u → Good fz t0 ws Q u := by
  unfold execNodeDispatch
  try dsimp only
  refine event_good ?_ h
  intro s_ h_
  try dsimp only
  repeat' first
    | with_reducible assumption
    | intro _
    | with_reducible apply dispatch_good
    | with_reducible apply startUnits_good
    | with_reducible apply Good.ite
    | with_reducible apply Good.foldl
    | split
    | (with_reducible refine Good.parts ?_ rfl rfl rfl rfl rfl rfl rfl rfl rfl rfl; with_reducible assumption)

theorem markParity_good {g i : Nat} {parity : Bool} {s : State} (h : Good fz t0 ws Q s) :
    Good fz t0 ws Q (markParity g i parity s) := by
  unfold markParity
  repeat' first
    | with_reducible assumption
    | with_reducible apply markNode_good
    | with_reducible apply Good.ite

theorem endWorked_good {g i : Nat} {parity : Bool} {s : State} (h : Good fz t0 ws Q s) :
    Good fz t0 ws Q (endWorked g i parity s) := by
  unfold endWorked
  try dsimp only
  repeat' first
    | with_reducible assumption
    | intro _
    | with_reducible apply nodeDone_good
    | with_reducible apply observeNode_good
    | with_reducible apply workNode_good
    | with_reducible apply dropPackets_good
    | with_reducible apply markParity_good
    | with_reducible apply Good.ite
    | split

theorem finishWork_good {g i : Nat} {parity : Bool} {s : State} (h : Good fz t0 ws Q s) :
    Good fz t0 ws Q (finishWork g i parity s) := by
  unfold finishWork
  try dsimp only
  repeat' first
    | with_reducible assumption
    | intro _
    | with_reducible apply passStalls_good
    | with_reducible apply streamStep_good
    | with_reducible apply endWorked_good
    | with_reducible apply endWorked_good
    | with_reducible apply nodeRows_good
    | with_reducible apply waitsRefill_good
    | with_reducible apply Good.ite
    | split

theorem execNodeEnd_good {t : Instant} {g : GraphRef} {node : Nat} {parity : Bool} {s : State} (h : Good fz t0 ws Q s) :
    ∀ u, execNodeEnd t g node parity s = .next u → Good fz t0 ws Q u := by
  unfold execNodeEnd
  try dsimp only
  refine event_good ?_ h
  intro s_ h_
  try dsimp only
  repeat' first
    | with_reducible assumption
    | intro _
    | with_reducible apply nodeDone_good
    | with_reducible apply finishWork_good
    | with_reducible apply Good.ite
    | split
    | (with_reducible refine Good.parts ?_ rfl rfl rfl rfl rfl rfl rfl rfl rfl rfl; with_reducible assumption)

theorem leaseStop_good {g i entry : Nat} {s : State} (h : Good fz t0 ws Q s) :
    Good fz t0 ws Q (leaseStop g i entry s) := by
  unfold leaseStop
  try dsimp only
  repeat' first
    | with_reducible assumption
    | with_reducible apply stopNode_good
    | with_reducible apply postInst_good
    | with_reducible apply sweepInsts_good
    | with_reducible apply skipRest_good
    | with_reducible apply Good.ite

theorem execLeaseEnd_good {t : Instant} {tenant : Fin 4} {entry : Fin 16} {s : State} (h : Good fz t0 ws Q s) :
    ∀ u, execLeaseEnd t tenant entry s = .next u → Good fz t0 ws Q u := by
  unfold execLeaseEnd
  repeat' with_reducible refine event_good ?_ ?_
  all_goals repeat' first
    | with_reducible assumption
    | intro _
    | with_reducible apply leaseStop_good
    | with_reducible apply Good.ite
    | with_reducible apply Good.foldl
    | split

theorem waitTimeout_good {g i : Nat} {body : List Byte} {s : State} (h : Good fz t0 ws Q s) :
    Good fz t0 ws Q (waitTimeout g i body s) := by
  unfold waitTimeout
  try dsimp only
  repeat' first
    | with_reducible assumption
    | with_reducible apply postInst_good
    | with_reducible apply traceNode_good
    | with_reducible apply settleTethers_good
    | with_reducible apply endCore_good
    | with_reducible apply skipRest_good
    | with_reducible apply Good.ite

theorem execTetherWaitTimeout_good {t : Instant} {g : GraphRef} {node : Nat} {s : State} (h : Good fz t0 ws Q s) :
    ∀ u, execTetherWaitTimeout t g node s = .next u → Good fz t0 ws Q u := by
  unfold execTetherWaitTimeout
  try dsimp only
  repeat' with_reducible refine event_good ?_ ?_
  all_goals repeat' first
    | with_reducible assumption
    | intro _
    | with_reducible apply waitTimeout_good
    | with_reducible apply Good.ite
    | split

theorem execNeOverrun_good {t : Instant} {g : GraphRef} {node : Nat} {s : State} (h : Good fz t0 ws Q s) :
    ∀ u, execNeOverrun t g node s = .next u → Good fz t0 ws Q u := by
  unfold execNeOverrun
  try dsimp only
  repeat' with_reducible refine event_good ?_ ?_
  all_goals repeat' first
    | with_reducible assumption
    | intro _
    | with_reducible apply immediateFault_good
    | with_reducible apply Good.ite
    | (with_reducible refine Good.parts ?_ rfl rfl rfl rfl rfl rfl rfl rfl rfl rfl; with_reducible apply store_good)
    | split

theorem execReplayResume_good {t : Instant} {g : GraphRef} {set : Nat} {s : State} (h : Good fz t0 ws Q s) :
    ∀ u, execReplayResume t g set s = .next u → Good fz t0 ws Q u := by
  unfold execReplayResume
  repeat' with_reducible refine event_good ?_ ?_
  all_goals repeat' first
    | with_reducible assumption
    | intro _
    | with_reducible apply State_modInst_good
    | with_reducible apply Good.ite
    | split

theorem execDroverCheck_good {t : Instant} {double : Bool} {s : State} (h : Good fz t0 ws Q s) :
    ∀ u, execDroverCheck t double s = .next u → Good fz t0 ws Q u := by
  unfold execDroverCheck
  repeat' first
    | with_reducible refine event_good ?_ ?_
    | split
  all_goals repeat' first
    | with_reducible assumption
    | intro _
    | with_reducible apply State_modDrover_good
    | with_reducible apply droverDouble_good
    | with_reducible rfl

/-! ### HalterRows -/

theorem ignoreTile_good {x0 : Nat} {s : State} (h : Good fz t0 ws Q s) :
    Good fz t0 ws Q (ignoreTile x0 s) := by
  unfold ignoreTile
  try dsimp only
  repeat' first
    | with_reducible assumption
    | intro _
    | with_reducible apply State_modHalter_good
    | (show Halter.pinsOk _ _ = true; assumption)

theorem meetTile_good {x0 : Nat} {from_ : NodeRef} {packet : List Byte} {s : State} (h : Good fz t0 ws Q s) :
    Good fz t0 ws Q (meetTile x0 from_ packet s) := by
  unfold meetTile
  try dsimp only
  repeat' first
    | with_reducible assumption
    | intro _
    | with_reducible apply State_modHalter_good
    | with_reducible apply takeTile_good
    | with_reducible apply ignoreTile_good
    | with_reducible apply Good.ite
    | split
    | (with_reducible refine Good.parts ?_ rfl rfl rfl rfl rfl rfl rfl rfl rfl rfl; with_reducible assumption)
    | (with_reducible refine Good.parts ?_ rfl rfl rfl rfl rfl rfl rfl rfl rfl (by simp only [lmod, List.length_modify, List.length_map, List.length_set]); with_reducible assumption)
    | (show Halter.pinsOk _ _ = true; assumption)

theorem deadlineWatch_good {x0 : Nat} {s : State} (h : Good fz t0 ws Q s) :
    Good fz t0 ws Q (deadlineWatch x0 s) := by
  unfold deadlineWatch
  try dsimp only
  repeat' first
    | with_reducible assumption
    | intro _
    | with_reducible apply enterStop_good
    | with_reducible apply Good.ite
    | split
    | (with_reducible refine Good.parts ?_ rfl rfl rfl rfl rfl rfl rfl rfl rfl rfl; with_reducible assumption)

theorem gapWatch_good {x0 : Nat} {s : State} (h : Good fz t0 ws Q s) :
    Good fz t0 ws Q (gapWatch x0 s) := by
  unfold gapWatch
  try dsimp only
  repeat' first
    | with_reducible assumption
    | intro _
    | with_reducible apply enterStop_good
    | with_reducible apply Good.ite
    | split

theorem tileGapWatch_good {x0 pair : Nat} {s : State} (h : Good fz t0 ws Q s) :
    Good fz t0 ws Q (tileGapWatch x0 pair s) := by
  unfold tileGapWatch
  try dsimp only
  repeat' first
    | with_reducible assumption
    | intro _
    | with_reducible apply State_modHalter_good
    | with_reducible apply enterStop_good
    | with_reducible apply Good.ite
    | split
    | (with_reducible refine Good.parts ?_ rfl rfl rfl rfl rfl rfl rfl rfl rfl rfl; with_reducible assumption)
    | (with_reducible refine Good.parts ?_ rfl rfl rfl rfl rfl rfl rfl rfl rfl (by simp only [lmod, List.length_modify, List.length_map, List.length_set]); with_reducible assumption)
    | (show Halter.pinsOk _ _ = true; assumption)

theorem watchdogs_good {x0 : Nat} {s : State} (h : Good fz t0 ws Q s) :
    Good fz t0 ws Q (watchdogs x0 s) := by
  unfold watchdogs
  try dsimp only
  repeat' first
    | with_reducible assumption
    | intro _
    | with_reducible apply deadlineWatch_good
    | with_reducible apply gapWatch_good
    | with_reducible apply tileGapWatch_good
    | with_reducible apply Good.foldl

theorem execHalterTile_good {t : Instant} {unit : Fin 2} {from_ : NodeRef} {pair : Fin 4} {tx ty : Nat} {s : State} (h : Good fz t0 ws Q s) :
    ∀ u, execHalterTile t unit from_ pair tx ty s = .next u → Good fz t0 ws Q u := by
  unfold execHalterTile
  try dsimp only
  refine event_good ?_ h
  intro s_ h_
  try dsimp only
  repeat' first
    | with_reducible assumption
    | intro _
    | with_reducible apply State_modRun_good
    | with_reducible apply meetTile_good
    | with_reducible apply watchdogs_good
    | with_reducible apply Good.ite
    | split
    | (with_reducible refine Good.parts ?_ rfl rfl rfl rfl rfl rfl rfl rfl rfl rfl; with_reducible assumption)

theorem execHalterAckQualified_good {t : Instant} {unit : Fin 2} {edge : Nat} {s : State} (h : Good fz t0 ws Q s) :
    ∀ u, execHalterAckQualified t unit edge s = .next u → Good fz t0 ws Q u := by
  unfold execHalterAckQualified
  try dsimp only
  repeat' with_reducible refine event_good ?_ ?_
  all_goals repeat' first
    | with_reducible assumption
    | intro _
    | with_reducible apply leaveStop_good
    | with_reducible apply State_modHalter_good
    | with_reducible apply postHalter_good
    | with_reducible apply Good.ite
    | (show Halter.pinsOk _ _ = true; assumption)

theorem execHalterDeadline_good {t : Instant} {unit : Fin 2} {s : State} (h : Good fz t0 ws Q s) :
    ∀ u, execHalterDeadline t unit s = .next u → Good fz t0 ws Q u := by
  unfold execHalterDeadline
  try dsimp only
  refine event_good ?_ h
  intro s_ h_
  try dsimp only
  repeat' first
    | with_reducible assumption
    | intro _
    | with_reducible apply deadlineWatch_good
    | with_reducible apply Good.ite
    | split

theorem execHalterGap_good {t : Instant} {unit : Fin 2} {s : State} (h : Good fz t0 ws Q s) :
    ∀ u, execHalterGap t unit s = .next u → Good fz t0 ws Q u := by
  unfold execHalterGap
  try dsimp only
  refine event_good ?_ h
  intro s_ h_
  try dsimp only
  repeat' first
    | with_reducible assumption
    | intro _
    | with_reducible apply gapWatch_good
    | with_reducible apply Good.ite
    | split

theorem execHalterTileGap_good {t : Instant} {unit : Fin 2} {pair : Fin 4} {s : State} (h : Good fz t0 ws Q s) :
    ∀ u, execHalterTileGap t unit pair s = .next u → Good fz t0 ws Q u := by
  unfold execHalterTileGap
  try dsimp only
  refine event_good ?_ h
  intro s_ h_
  try dsimp only
  repeat' first
    | with_reducible assumption
    | intro _
    | with_reducible apply tileGapWatch_good
    | with_reducible apply Good.ite
    | split

theorem execHalterPinMismatch_good {t : Instant} {unit : Fin 2} {s : State} (h : Good fz t0 ws Q s) :
    ∀ u, execHalterPinMismatch t unit s = .next u → Good fz t0 ws Q u := by
  unfold execHalterPinMismatch
  repeat' with_reducible refine event_good ?_ ?_
  all_goals repeat' first
    | with_reducible assumption
    | intro _
    | with_reducible apply enterStop_good

theorem execHalterHeartbeatEdge_good {p : Part} {a : Instant} {w : List Instr} {Q : List Contract → List Effect → Prop} {t : Instant} {u : Fin 2} {s : State} (h : Good p a w Q s) :
    ∀ v, execHalterHeartbeatEdge t u s = .next v → Good p a w Q v := by
  intro v hv
  unfold execHalterHeartbeatEdge event at hv
  have h' : Good p a w Q (advance t s) := advance_good h
  split at hv
  · rename_i hl
    have ht : (advance t s).pins.thermtrip = false := by
      simp only [State.alive, Bool.and_eq_true, Bool.not_eq_true'] at hl
      exact hl.2
    cases hv
    dsimp only
    split
    · split
      · rename_i e he hn
        refine drivePins_before h' fun hu ho => ?_
        rw [halter_at hu] at he ⊢
        rw [ht] at ho ⊢
        simp only [Halter.pinsOk, Bool.false_and, Bool.false_or] at ho ⊢
        split at ho
        · simp [he] at ho
        · rename_i hd
          simp only [hd, if_false]
          simpa using ho
      · exact h'
    · exact h'
  · cases hv
    exact h'

theorem execHalterConfig_good {t : Instant} {r : RingRef} {e : Entry} {buf : Option (List Byte)} {s : State} (h : Good fz t0 ws contractsApart s) :
    ∀ u, execHalterConfig t r e buf s = .next u → Good fz t0 ws contractsApart u := by
  unfold execHalterConfig
  try dsimp only
  refine bufCommand_good ?_ h
  intro q_ s_ h_
  try dsimp only
  repeat' first
    | with_reducible assumption
    | intro _
    | with_reducible apply defer_good
    | with_reducible apply deferredOk_good
    | split
    | (with_reducible refine Good.parts ?_ rfl rfl rfl rfl rfl rfl rfl rfl rfl rfl; with_reducible assumption)
    | contradiction

theorem execHalterEnable_good {t : Instant} {r : RingRef} {e : Entry} {s : State} (h : Good fz t0 ws contractsApart s)
    :
    ∀ u, execHalterEnable t r e s = .next u → Good fz t0 ws contractsApart u := by
  unfold execHalterEnable
  try dsimp only
  repeat' with_reducible refine command_good ?_ ?_
  all_goals repeat' first
    | with_reducible assumption
    | intro _
    | with_reducible apply defer_good
    | with_reducible apply deferredOk_good
    | contradiction

/-! ### Movements -/

theorem redefine_good {x n : Nat} {s : State} (h : Good fz t0 ws Q s) :
    Good fz t0 ws Q (redefine x n s) := by
  unfold redefine
  try dsimp only
  repeat' first
    | with_reducible assumption
    | intro _
    | with_reducible apply State_modLoft_good

theorem endMemWrite_good {seq x n : Nat} {data : Option (List Byte)} {s : State} (h : Good fz t0 ws Q s) :
    Good fz t0 ws Q (endMemWrite seq x n data s) := by
  unfold endMemWrite
  try dsimp only
  repeat' first
    | with_reducible assumption
    | with_reducible apply redefine_good
    | with_reducible apply putRows_good
    | with_reducible apply finish_good
    | with_reducible apply undefineRange_good
    | with_reducible apply writeDram_good
    | with_reducible apply Good.ite
    | split

theorem sectorRuns_good {p : Part} {a : Instant} {w : List Instr} {Q : List Contract → List Effect → Prop} : ∀ {n x : Nat} {fs : List SectorCheck} {s : State}, Good p a w Q s → Good p a w Q (sectorRuns x n fs s).1
  | 0, _, _, _, h => h
  | n + 1, _, _, _, h => by
    simp only [sectorRuns]
    exact sectorRuns_good (readSector_good h)

theorem writeRuns_good {p : Part} {a : Instant} {w : List Instr} {Q : List Contract → List Effect → Prop} {f : Nat} {addr : BitVec 64} {runs : List (Bool × List Byte)}
    {s : State} (h : Good p a w Q s) : Good p a w Q (writeRuns f addr runs s) := by
  unfold writeRuns
  induction runs generalizing addr s with
  | nil => exact h
  | cons r l ih => exact ih (hostWriteEp_good h)

theorem endMemRead_good {seq f x n : Nat} {buf : BitVec 64} {seen ok : Bool} {flaws : List (Nat × Flips)} {sectors : List (Nat × SectorCheck)} {s : State} (h : Good fz t0 ws Q s) :
    Good fz t0 ws Q (endMemRead seq f x n buf seen ok flaws sectors s) := by
  unfold endMemRead
  try dsimp only
  repeat' first
    | with_reducible assumption
    | intro _
    | with_reducible apply hostWrite_good
    | with_reducible apply finish_good
    | with_reducible apply findFlaws_good
    | with_reducible apply detectRows_good
    | with_reducible apply beginMove_good
    | with_reducible apply sectorRuns_good
    | with_reducible apply writeRuns_good
    | with_reducible apply Good.ite
    | split

theorem loadSectors_good {p : Part} {a : Instant} {w : List Instr} {Q : List Contract → List Effect → Prop} :
    ∀ {n x : Nat} {fs : List SectorCheck} {s : State}, Good p a w Q s → Good p a w Q (loadSectors x n fs s).1
  | 0, _, _, _, h => h
  | n + 1, _, _, _, h => by
    simp only [loadSectors]
    split
    · exact readSector_good h
    · exact loadSectors_good (readSector_good h)

theorem endResidentLoad_good {seq k : Nat} {sectors : List (Nat × SectorCheck)} {s : State} (h : Good fz t0 ws Q s) :
    Good fz t0 ws Q (endResidentLoad seq k sectors s) := by
  unfold endResidentLoad
  try dsimp only
  repeat' first
    | with_reducible assumption
    | intro _
    | with_reducible apply State_modLoft_good
    | with_reducible apply finish_good
    | with_reducible apply putRows_good
    | with_reducible apply undefineRows_good
    | with_reducible apply loadSectors_good
    | with_reducible apply Good.ite
    | split
    | (with_reducible refine Good.parts ?_ rfl rfl rfl rfl rfl rfl rfl rfl rfl rfl; with_reducible assumption)

theorem readMoveBuffer_good {m : Move} {c : Option Cmd} {s : State} (h : Good fz t0 ws Q s) :
    Good fz t0 ws Q (readMoveBuffer m c s) := by
  unfold readMoveBuffer
  try dsimp only
  repeat' first
    | with_reducible assumption
    | intro _
    | with_reducible apply emitRead_good
    | with_reducible apply Good.ite
    | split
    | (with_reducible refine Good.parts ?_ rfl rfl rfl rfl rfl rfl rfl rfl rfl rfl; with_reducible assumption)

theorem endMove_good {seq : Nat} {m : Move} {data : Option (List Byte)} {flaws : List (Nat × Flips)}
    {sectors : List (Nat × SectorCheck)} {s : State} (h : Good fz t0 ws Q s) :
    Good fz t0 ws Q (endMove seq m data flaws sectors s) := by
  unfold endMove
  dsimp only
  have hm : Good fz t0 ws Q { readMoveBuffer m (tget s.cmds seq) s with moves := tdel s.moves seq } :=
    Good.parts (readMoveBuffer_good h) rfl rfl rfl rfl rfl rfl rfl rfl rfl rfl
  cases m with
  | memWrite x n => exact endMemWrite_good hm
  | memRead x n buf seen => exact endMemRead_good hm
  | residentLoad k => exact endResidentLoad_good hm
  | graphLoad n slot len => exact endGraphLoad_good hm

theorem execDataMovementEnd_good {t : Instant} {id : Nat} {data : Option (List Byte)} {flaws : List (Nat × Flips)} {sectors : List (Nat × SectorCheck)} {s : State} (h : Good fz t0 ws Q s) :
    ∀ u, execDataMovementEnd t id data flaws sectors s = .next u → Good fz t0 ws Q u := by
  unfold execDataMovementEnd
  try dsimp only
  refine event_good ?_ h
  intro s_ h_
  try dsimp only
  repeat' first
    | with_reducible assumption
    | intro _
    | with_reducible apply settle_good
    | with_reducible apply passStalls_good
    | with_reducible apply endMove_good
    | with_reducible apply Good.ite
    | split
    | (with_reducible refine Good.parts ?_ rfl rfl rfl rfl rfl rfl rfl rfl rfl rfl; with_reducible assumption)

/-! ### Telemetry -/

theorem execTelemetryRead_good {t : Instant} {r : RingRef} {e : Entry} {ok : Bool} {s : State} (h : Good fz t0 ws Q s)
    :
    ∀ u, execTelemetryRead t r e ok s = .next u → Good fz t0 ws Q u := by
  unfold execTelemetryRead
  try dsimp only
  repeat' with_reducible refine command_good ?_ ?_
  all_goals repeat' first
    | with_reducible assumption
    | intro _
    | with_reducible apply tracePort_good
    | with_reducible apply writeBuffer_good

end Sys2Proof.Machine
end

