-- ==== Sys2Proof/Laws/KeepTick.lean ====
section
/-!
SUPPORT. Every operation keeps a good state good: ticks.
-/
namespace Sys2Proof.Machine

set_option maxRecDepth 2000
set_option linter.unusedSimpArgs false
set_option linter.unusedTactic false
set_option linter.unreachableTactic false

variable {fz : Part} {t0 : Instant} {ws : List Instr} {Q : List Contract → List Effect → Prop}

/-! ### TickOps -/

theorem postTick_good {cause : Nat} {s : State} (h : Good fz t0 ws Q s) :
    Good fz t0 ws Q (postTick cause s) := by
  unfold postTick
  repeat' first
    | with_reducible assumption
    | with_reducible apply postAll_good
    | with_reducible apply State_modTick_good
    | with_reducible apply Good.ite

theorem tickFault_good {f : TickFault} {s : State} (h : Good fz t0 ws Q s) :
    Good fz t0 ws Q (tickFault f s) := by
  unfold tickFault
  repeat' first
    | with_reducible assumption
    | with_reducible apply postTick_good

theorem postTicks_good {l : List Nat} {s : State} (h : Good fz t0 ws Q s) :
    Good fz t0 ws Q (postTicks l s) := by
  unfold postTicks
  repeat' first
    | with_reducible assumption
    | intro _
    | with_reducible apply postTick_good
    | with_reducible apply Good.foldl

theorem systemArm_good {opened : Bool} {g : Nat} {s : State} (h : Good fz t0 ws Q s) :
    Good fz t0 ws Q (systemArm opened g s) := by
  unfold systemArm
  try dsimp only
  repeat' first
    | with_reducible assumption
    | intro _
    | with_reducible apply State_modGraph_good
    | with_reducible apply postGraph_good
    | with_reducible apply stcPassed_good
    | with_reducible apply Good.ite
    | split
    | (with_reducible refine Good.parts ?_ rfl rfl rfl rfl rfl rfl rfl rfl rfl rfl; with_reducible assumption)
    | with_reducible rfl
    | (show List.length _ = List.length _; simp [lmod]; done)

theorem applyEffect_good {p : Part} {a : Instant} {w : List Instr} {Q : List Contract → List Effect → Prop} {e : Effect} {s : State} (h : Good p a w Q s)
    (he : ∀ n c, e ≠ .partition n c) : Good p a w Q (applyEffect e s) := by
  unfold applyEffect
  try dsimp only
  split
  · exact absurd rfl (he _ _)
  all_goals
    repeat' first
      | with_reducible assumption
      | exact fun _ hh => hh
      | intro _
      | with_reducible apply postGraph_good
      | with_reducible apply State_modGraph_good
      | with_reducible apply State_modLoft_good
      | with_reducible apply State_modFsync_good
      | with_reducible apply State_modI2c_good
      | with_reducible apply postHalter_good
      | with_reducible apply State_modHalter_good
      | with_reducible apply enterStop_good
      | with_reducible apply disableHalter_good
      | with_reducible apply applyTallyConfig_good
      | with_reducible apply applyTallyStart_good
      | with_reducible apply applyTallyStop_good
      | with_reducible apply systemArm_good
      | with_reducible apply Good.ite
      | (show Halter.pinsOk _ _ = true; assumption)
      | split

theorem applyEffects_good {p : Part} {a : Instant} {w : List Instr} : ∀ {es : List Effect} {s : State},
    Good p a w (fun cs ds => ds = [] ∧ contractsApart cs es) s →
    Good p a w contractsApart (es.foldl (fun s e => applyEffect e s) s)
  | [], _, h => h.imp fun hq => by rw [hq.1]; exact hq.2
  | e :: es, s, h => by
    refine applyEffects_good (es := es) ?_
    by_cases he : ∃ n c, e = .partition n c
    · obtain ⟨n, c, rfl⟩ := he
      obtain ⟨hd, ha⟩ := h.apart
      refine { h with
        apart := ⟨hd, ?_⟩
        shape := by simpa [State.shape, applyEffect, setContract] using h.shape }
      refine apart_set (apart_fewer ha fun _ _ => List.mem_cons_of_mem _) (fun m hm hn => ?_) fun m d hm hn => ?_
      · exact ha.2.1 n c m List.mem_cons_self hm (fun h => hn h.symm)
      · exact ha.2.2 m d n c (List.mem_cons_of_mem _ hm) List.mem_cons_self hn
    · refine (applyEffect_good h fun n c hc => he ⟨n, c, hc⟩).imp fun hq => ⟨hq.1, ?_⟩
      exact apart_fewer hq.2 fun _ _ => List.mem_cons_of_mem _

theorem applyDeferred_good {p : Part} {a : Instant} {w : List Instr} {s : State} (h : Good p a w contractsApart s) :
    Good p a w contractsApart (applyDeferred s) := by
  unfold applyDeferred
  have ht : Good p a w contractsApart (s.deferred.foldl (fun s e => applyEffect e s) { s with deferred := [] }) :=
    applyEffects_good { h with apart := ⟨rfl, h.apart⟩ }
  refine ht.fewer (fun n c hm => ?_) rfl rfl rfl rfl rfl rfl rfl rfl id
  simp [armWaits] at hm

theorem systemArms_good {p : Part} {a : Instant} {w : List Instr} {opened : Bool} {s : State}
    (h : Good p a w contractsApart s) : Good p a w contractsApart (systemArms opened s) := by
  unfold systemArms
  have ht : Good p a w contractsApart
      (s.deferred.foldl (fun s e => match e with | .systemArm g => systemArm opened g s | _ => s) s) := by
    repeat' first
      | with_reducible assumption
      | intro _
      | with_reducible apply systemArm_good
      | with_reducible apply Good.foldl
      | split
  exact ht.fewer (fun n c hm => (List.mem_filter.1 hm).1) rfl rfl rfl rfl rfl rfl rfl rfl id

theorem freshWindow_good {s : State} (h : Good fz t0 ws Q s) :
    Good fz t0 ws Q (freshWindow s) := by
  unfold freshWindow
  try dsimp only
  repeat' (with_reducible refine Good.parts ?_ rfl rfl rfl rfl rfl rfl rfl rfl rfl (by simp only [lmod, List.length_modify, List.length_map, List.length_set]); with_reducible assumption)

theorem openLinks_good {s : State} (h : Good fz t0 ws Q s) :
    Good fz t0 ws Q (openLinks s) := by
  unfold openLinks
  repeat' (with_reducible refine Good.parts ?_ rfl rfl rfl rfl rfl rfl rfl rfl rfl (by simp only [lmod, List.length_modify, List.length_map, List.length_set]); with_reducible assumption)

theorem activations_good {s : State} (h : Good fz t0 ws Q s) :
    Good fz t0 ws Q (activations s) := by
  unfold activations
  try dsimp only
  repeat' first
    | with_reducible assumption
    | intro _
    | with_reducible apply State_modGraph_good
    | with_reducible apply activate_good
    | with_reducible apply Good.ite
    | with_reducible apply Good.foldl
    | split

theorem skipForHeat_good {s : State} (h : Good fz t0 ws Q s) :
    Good fz t0 ws Q (skipForHeat s) := by
  unfold skipForHeat
  repeat' first
    | with_reducible assumption
    | with_reducible apply State_modTick_good
    | with_reducible apply State_modPower_good
    | with_reducible apply Good.ite

theorem openWindow_good {t0_ : Instant} {evs : List Nat} {upset : BitVec 2} {s : State} (h : Good fz t0 ws contractsApart s) :
    Good fz t0 ws contractsApart (openWindow t0_ evs upset s) := by
  unfold openWindow
  try dsimp only
  repeat' first
    | with_reducible assumption
    | intro _
    | with_reducible apply State_modTick_good
    | with_reducible apply halterOpening_good
    | with_reducible apply sweepInsts_good
    | with_reducible apply resetTethers_good
    | with_reducible apply openContexts_good
    | with_reducible apply clearFabric_good
    | with_reducible apply applyEpoch_good
    | with_reducible apply clearLinks_good
    | with_reducible apply openFsync_good
    | with_reducible apply openXfers_good
    | with_reducible apply openingHeat_good
    | with_reducible apply openingSync_good
    | with_reducible apply postTicks_good
    | with_reducible apply applyDeferred_good
    | with_reducible apply freshWindow_good
    | with_reducible apply openLinks_good
    | with_reducible apply activations_good
    | with_reducible apply skipForHeat_good
    | with_reducible apply Mem.zero_wf
    | with_reducible apply Good.ite
    | split
    | (with_reducible refine Good.parts ?_ rfl rfl rfl rfl rfl rfl rfl rfl rfl rfl; with_reducible assumption)

theorem closedTick_good {evs : List Nat} {s : State} (h : Good fz t0 ws contractsApart s) :
    Good fz t0 ws contractsApart (closedTick evs s) := by
  unfold closedTick
  try dsimp only
  repeat' first
    | with_reducible assumption
    | with_reducible apply systemArms_good
    | with_reducible apply startTrainings_good
    | with_reducible apply applyEpoch_good
    | with_reducible apply postTicks_good
    | with_reducible apply openLinks_good
    | with_reducible apply Good.ite

theorem closeWindow_good {s : State} (h : Good fz t0 ws Q s) :
    Good fz t0 ws Q (closeWindow s) := by
  unfold closeWindow
  repeat' first
    | with_reducible assumption
    | with_reducible apply drainTo_good
    | with_reducible apply State_modTick_good

theorem takeParams_good {p : Part} {a : Instant} {w : List Instr} {Q : List Contract → List Effect → Prop} {s : State}
    (h : Good p a w Q s) : Good p a w Q (takeParams s) := by
  unfold takeParams
  split
  · rename_i q _
    have hm : Good p a w Q (s.modTick fun t => { t with prm := q, newParams := none }) := State_modTick_good h
    exact hm.upd rfl rfl rfl rfl rfl rfl rfl rfl rfl fun hs => shape_of_counts (by simp [State.counts, State.modTick]) hs
  · exact h

theorem finishSwitch_good {sw : Switch} {s : State} (h : Good fz t0 ws Q s) :
    Good fz t0 ws Q (finishSwitch sw s) := by
  unfold finishSwitch
  repeat' first
    | with_reducible assumption
    | with_reducible apply State_modTick_good

theorem endHoldover_good {s : State} (h : Good fz t0 ws Q s) :
    Good fz t0 ws Q (endHoldover s).1 := by
  unfold endHoldover
  try dsimp only
  repeat' first
    | with_reducible assumption
    | with_reducible apply State_modTick_good

theorem switchAtTick_good {x0 : Instant} {fromNew paused : Bool} {s : State} (h : Good fz t0 ws Q s) :
    Good fz t0 ws Q (switchAtTick x0 fromNew paused s).1 := by
  unfold switchAtTick
  try dsimp only
  repeat' first
    | with_reducible assumption
    | with_reducible apply finishSwitch_good
    | with_reducible apply endHoldover_good
    | with_reducible apply State_modTick_good
    | split

theorem tickAt_good {x0 : Instant} {fromNew : Bool} {stc : Option (BitVec 32)} {evs : List Nat} {upset : BitVec 2} {s
    : State} (h : Good fz t0 ws contractsApart s) :
    Good fz t0 ws contractsApart (tickAt x0 fromNew stc evs upset s) := by
  unfold tickAt
  try dsimp only
  repeat' first
    | with_reducible assumption
    | with_reducible apply takeParams_good
    | with_reducible apply openWindow_good
    | with_reducible apply sendTicks_good
    | with_reducible apply State_modTick_good
    | with_reducible apply switchAtTick_good
    | with_reducible apply closedTick_good
    | with_reducible apply closeWindow_good
    | with_reducible apply Good.ite
    | (with_reducible refine Good.parts ?_ rfl rfl rfl rfl rfl rfl rfl rfl rfl rfl; with_reducible apply emit_good)

theorem synthesise_good {x0 : Instant} {fromNew : Bool} {upset : BitVec 2} {s : State} (h : Good fz t0 ws
    contractsApart s) :
    Good fz t0 ws contractsApart (synthesise x0 fromNew upset s) := by
  unfold synthesise
  try dsimp only
  repeat' first
    | with_reducible assumption
    | with_reducible apply tickAt_good
    | with_reducible apply State_modTick_good

theorem windowsStop_good {s : State} (h : Good fz t0 ws Q s) :
    Good fz t0 ws Q (windowsStop s) := by
  unfold windowsStop
  repeat' first
    | with_reducible assumption
    | with_reducible apply startTrainings_good
    | with_reducible apply openLinks_good

theorem enterLost_good {s : State} (h : Good fz t0 ws Q s) :
    Good fz t0 ws Q (enterLost s) := by
  unfold enterLost
  try dsimp only
  repeat' first
    | with_reducible assumption
    | with_reducible apply takeParams_good
    | with_reducible apply tickFault_good
    | with_reducible apply postTicks_good
    | with_reducible apply State_modTick_good
    | with_reducible apply windowsStop_good
    | with_reducible apply raiseAlert_good
    | with_reducible apply closeWindow_good

theorem reacquire_good {x0 : Instant} {stc : Option (BitVec 32)} {upset : BitVec 2} {s : State} (h : Good fz t0 ws
    contractsApart s) :
    Good fz t0 ws contractsApart (reacquire x0 stc upset s) := by
  unfold reacquire
  try dsimp only
  repeat' first
    | with_reducible assumption
    | with_reducible apply tickAt_good
    | with_reducible apply State_modTick_good

theorem enterStopped_good {s : State} (h : Good fz t0 ws Q s) :
    Good fz t0 ws Q (enterStopped s) := by
  unfold enterStopped
  repeat' first
    | with_reducible assumption
    | with_reducible apply State_modTick_good
    | with_reducible apply windowsStop_good
    | with_reducible apply changeClocks_good

/-! ### TickRows -/

theorem execInternalTick_good {t : Instant} {upset : BitVec 2} {s : State} (h : Good fz t0 ws contractsApart s) :
    ∀ u, execInternalTick t upset s = .next u → Good fz t0 ws contractsApart u := by
  unfold execInternalTick
  repeat' with_reducible refine event_good ?_ ?_
  all_goals repeat' first
    | with_reducible assumption
    | intro _
    | with_reducible apply tickAt_good
    | with_reducible apply Good.ite
    | split

theorem followSwitch_good {sw : Switch} {c : Instant} {s : State} (h : Good fz t0 ws Q s) :
    Good fz t0 ws Q (followSwitch sw c s) := by
  unfold followSwitch
  try dsimp only
  repeat' first
    | with_reducible assumption
    | with_reducible apply State_modTick_good

theorem qualifyEdge_good {f : State → State} {s : State} (k0 : ∀ s_, Good fz t0 ws Q s_ → Good fz t0 ws Q (f s_)) (h :
    Good fz t0 ws Q s) :
    Good fz t0 ws Q (qualifyEdge f s) := by
  unfold qualifyEdge
  try dsimp only
  repeat' first
    | with_reducible assumption
    | with_reducible apply k0
    | with_reducible apply State_modTick_good
    | with_reducible apply Good.ite

theorem ownEdge_good {upset : BitVec 2} {s : State} (h : Good fz t0 ws contractsApart s) :
    Good fz t0 ws contractsApart (ownEdge upset s) := by
  unfold ownEdge
  try dsimp only
  repeat' first
    | with_reducible assumption
    | intro _
    | with_reducible apply qualifyEdge_good
    | with_reducible apply tickAt_good
    | with_reducible apply tickFault_good
    | with_reducible apply endHoldover_good
    | with_reducible apply reacquire_good
    | with_reducible apply State_modTick_good
    | with_reducible apply Good.ite

theorem takeEdge_good {upset : BitVec 2} {s : State} (h : Good fz t0 ws contractsApart s) :
    Good fz t0 ws contractsApart (takeEdge upset s) := by
  unfold takeEdge
  try dsimp only
  repeat' first
    | with_reducible assumption
    | with_reducible apply tickAt_good
    | with_reducible apply followSwitch_good
    | with_reducible apply ownEdge_good
    | with_reducible apply Good.ite
    | split

theorem execTickInEdge_good {t : Instant} {upset : BitVec 2} {s : State} (h : Good fz t0 ws contractsApart s) :
    ∀ u, execTickInEdge t upset s = .next u → Good fz t0 ws contractsApart u := by
  unfold execTickInEdge
  repeat' with_reducible refine event_good ?_ ?_
  all_goals repeat' first
    | with_reducible assumption
    | intro _
    | with_reducible apply takeEdge_good

theorem bandExpiry_good {upset : BitVec 2} {s : State} (h : Good fz t0 ws contractsApart s) :
    Good fz t0 ws contractsApart (bandExpiry upset s) := by
  unfold bandExpiry
  try dsimp only
  repeat' first
    | with_reducible assumption
    | with_reducible apply enterLost_good
    | with_reducible apply synthesise_good
    | with_reducible apply Good.ite
    | split

theorem execTickInBandExpiry_good {t : Instant} {upset : BitVec 2} {s : State} (h : Good fz t0 ws contractsApart s) :
    ∀ u, execTickInBandExpiry t upset s = .next u → Good fz t0 ws contractsApart u := by
  unfold execTickInBandExpiry
  repeat' with_reducible refine event_good ?_ ?_
  all_goals repeat' first
    | with_reducible assumption
    | intro _
    | with_reducible apply bandExpiry_good

theorem execTickQualifyTimeout_good {t : Instant} {s : State} (h : Good fz t0 ws Q s) :
    ∀ u, execTickQualifyTimeout t s = .next u → Good fz t0 ws Q u := by
  unfold execTickQualifyTimeout
  repeat' with_reducible refine event_good ?_ ?_
  all_goals repeat' first
    | with_reducible assumption
    | intro _
    | with_reducible apply tickFault_good
    | with_reducible apply enterStopped_good
    | with_reducible apply State_modTick_good
    | with_reducible apply Good.ite
    | split

theorem takeDepth_good {depth : Nat} {s : State} (h : Good fz t0 ws Q s) :
    Good fz t0 ws Q (takeDepth depth s) := by
  unfold takeDepth
  repeat' first
    | with_reducible assumption
    | with_reducible apply State_modTick_good

theorem confirmTick_good {stc : BitVec 32} {s : State} (h : Good fz t0 ws contractsApart s) :
    Good fz t0 ws contractsApart (confirmTick stc s) := by
  unfold confirmTick
  try dsimp only
  repeat' first
    | with_reducible assumption
    | with_reducible apply systemArms_good
    | with_reducible apply endHoldover_good
    | with_reducible apply postTicks_good
    | with_reducible apply State_modTick_good

theorem steerBy_good {port : Nat} {c : Instant} {stc : BitVec 32} {depth : Nat} {s : State} (h : Good fz t0 ws contractsApart s) :
    Good fz t0 ws contractsApart (steerBy port c stc depth s) := by
  unfold steerBy
  repeat' first
    | with_reducible assumption
    | with_reducible apply confirmTick_good
    | with_reducible apply countLink_good
    | with_reducible apply tickFault_good
    | with_reducible apply State_modTick_good
    | with_reducible apply takeDepth_good
    | with_reducible apply Good.ite

theorem qualifyBlock_good {c : Instant} {f : State → State} {s : State} (k1 : ∀ s_, Good fz t0 ws Q s_ → Good fz t0 ws
    Q (f s_)) (h : Good fz t0 ws Q s) :
    Good fz t0 ws Q (qualifyBlock c f s) := by
  unfold qualifyBlock
  repeat' first
    | with_reducible assumption
    | with_reducible apply k1
    | with_reducible apply State_modTick_good
    | with_reducible apply Good.ite

theorem takeBlock_good {port : Nat} {stc : BitVec 32} {depth : Nat} {upset : BitVec 2} {s : State} (h : Good fz t0 ws
    contractsApart s) :
    Good fz t0 ws contractsApart (takeBlock port stc depth upset s) := by
  unfold takeBlock
  try dsimp only
  repeat' first
    | with_reducible assumption
    | intro _
    | with_reducible apply tickAt_good
    | with_reducible apply followSwitch_good
    | with_reducible apply steerBy_good
    | with_reducible apply reacquire_good
    | with_reducible apply State_modTick_good
    | with_reducible apply takeDepth_good
    | with_reducible apply qualifyBlock_good
    | with_reducible apply Good.ite
    | split

theorem execPlinkTickBlock_good {t : Instant} {port : Fin 4} {stc : BitVec 32} {depth : Fin 16} {x4 : Bool} {upset :
    BitVec 2} {s : State} (h : Good fz t0 ws contractsApart s) :
    ∀ u, execPlinkTickBlock t port stc depth x4 upset s = .next u → Good fz t0 ws contractsApart u := by
  unfold execPlinkTickBlock
  repeat' with_reducible refine event_good ?_ ?_
  all_goals repeat' first
    | with_reducible assumption
    | intro _
    | with_reducible apply State_modLink_good
    | with_reducible apply takeBlock_good
    | with_reducible apply Good.ite

theorem followerTick_good {d : Instant} {fromNew : Bool} {upset : BitVec 2} {s : State} (h : Good fz t0 ws
    contractsApart s) :
    Good fz t0 ws contractsApart (followerTick d fromNew upset s) := by
  unfold followerTick
  try dsimp only
  repeat' first
    | with_reducible assumption
    | with_reducible apply tickAt_good
    | with_reducible apply endHoldover_good
    | with_reducible apply enterLost_good
    | with_reducible apply State_modTick_good
    | with_reducible apply Good.ite
    | split

theorem execFollowerTick_good {t : Instant} {upset : BitVec 2} {s : State} (h : Good fz t0 ws contractsApart s) :
    ∀ u, execFollowerTick t upset s = .next u → Good fz t0 ws contractsApart u := by
  unfold execFollowerTick
  repeat' with_reducible refine event_good ?_ ?_
  all_goals repeat' first
    | with_reducible assumption
    | intro _
    | with_reducible apply followerTick_good
    | with_reducible apply Good.ite
    | split

theorem execFollowerConfirmExpiry_good {t : Instant} {s : State} (h : Good fz t0 ws Q s) :
    ∀ u, execFollowerConfirmExpiry t s = .next u → Good fz t0 ws Q u := by
  unfold execFollowerConfirmExpiry
  try dsimp only
  repeat' with_reducible refine event_good ?_ ?_
  all_goals repeat' first
    | with_reducible assumption
    | intro _
    | with_reducible apply postTicks_good
    | with_reducible apply State_modTick_good
    | with_reducible apply Good.ite

theorem setPrm_good {prm : TickParams} {s : State} (h : Good fz t0 ws Q s) :
    Good fz t0 ws Q (setPrm prm s) := by
  unfold setPrm
  repeat' first
    | with_reducible assumption
    | with_reducible apply takeParams_good
    | with_reducible apply State_modTick_good
    | with_reducible apply Good.ite

theorem beginSwitch_good {src : TickSource} {port : Nat} {s : State} (h : Good fz t0 ws Q s) :
    Good fz t0 ws Q (beginSwitch src port s) := by
  unfold beginSwitch
  try dsimp only
  repeat' first
    | with_reducible assumption
    | with_reducible apply State_modTick_good

theorem deferConfig_good {seq : Nat} {src : TickSource} {port : Nat} {prm : TickParams} {s : State} (h : Good fz t0 ws
    Q s) :
    Good fz t0 ws Q (deferConfig seq src port prm s) := by
  unfold deferConfig
  try dsimp only
  repeat' first
    | with_reducible assumption
    | with_reducible apply done_good
    | with_reducible apply State_modTick_good
    | with_reducible apply deferredOk_good
    | with_reducible apply beginSwitch_good
    | with_reducible apply Good.ite

theorem applyConfig_good {seq : Nat} {src : TickSource} {port : Nat} {prm : TickParams} {s : State} (h : Good fz t0 ws
    Q s) :
    Good fz t0 ws Q (applyConfig seq src port prm s) := by
  unfold applyConfig
  try dsimp only
  repeat' first
    | with_reducible assumption
    | with_reducible apply postAll_good
    | with_reducible apply done_good
    | with_reducible apply enterStopped_good
    | with_reducible apply State_modTick_good
    | with_reducible apply setPrm_good
    | with_reducible apply Good.ite

theorem execTickConfig_good {t : Instant} {r : RingRef} {e : Entry} {s : State} (h : Good fz t0 ws Q s) :
    ∀ u, execTickConfig t r e s = .next u → Good fz t0 ws Q u := by
  unfold execTickConfig
  try dsimp only
  repeat' with_reducible refine command_good ?_ ?_
  all_goals repeat' first
    | with_reducible assumption
    | intro _
    | with_reducible apply applyConfig_good
    | with_reducible apply deferConfig_good
    | with_reducible apply Good.ite

theorem execTickStart_good {t : Instant} {r : RingRef} {e : Entry} {s : State} (h : Good fz t0 ws Q s) :
    ∀ u, execTickStart t r e s = .next u → Good fz t0 ws Q u := by
  unfold execTickStart
  repeat' with_reducible refine command_good ?_ ?_
  all_goals repeat' first
    | with_reducible assumption
    | intro _
    | with_reducible apply done_good
    | with_reducible apply State_modTick_good

theorem execPause_good {t : Instant} {r : RingRef} {e : Entry} {s : State} (h : Good fz t0 ws Q s) :
    ∀ u, execPause t r e s = .next u → Good fz t0 ws Q u := by
  unfold execPause
  repeat' with_reducible refine command_good ?_ ?_
  all_goals repeat' first
    | with_reducible assumption
    | intro _
    | with_reducible apply done_good
    | with_reducible apply State_modTick_good
    | with_reducible apply deferredOk_good
    | with_reducible apply Good.ite

theorem execResume_good {t : Instant} {r : RingRef} {e : Entry} {s : State} (h : Good fz t0 ws Q s) :
    ∀ u, execResume t r e s = .next u → Good fz t0 ws Q u := by
  unfold execResume
  repeat' with_reducible refine command_good ?_ ?_
  all_goals repeat' first
    | with_reducible assumption
    | intro _
    | with_reducible apply done_good
    | with_reducible apply State_modTick_good
    | with_reducible apply deferredOk_good
    | with_reducible apply Good.ite

theorem haltNow_good {s : State} (h : Good fz t0 ws Q s) :
    Good fz t0 ws Q (haltNow s) := by
  unfold haltNow
  try dsimp only
  repeat' first
    | with_reducible assumption
    | with_reducible apply State_modTick_good
    | with_reducible apply haltAll_good
    | with_reducible apply Good.ite

theorem execHalt_good {t : Instant} {r : RingRef} {e : Entry} {s : State} (h : Good fz t0 ws Q s) :
    ∀ u, execHalt t r e s = .next u → Good fz t0 ws Q u := by
  unfold execHalt
  repeat' with_reducible refine command_good ?_ ?_
  all_goals repeat' first
    | with_reducible assumption
    | intro _
    | with_reducible apply done_good
    | with_reducible apply haltNow_good
    | with_reducible apply State_modTick_good
    | split

theorem execTickStatus_good {t : Instant} {r : RingRef} {e : Entry} {ok : Bool} {s : State} (h : Good fz t0 ws Q s) :
    ∀ u, execTickStatus t r e ok s = .next u → Good fz t0 ws Q u := by
  unfold execTickStatus
  repeat' with_reducible refine command_good ?_ ?_
  all_goals repeat' first
    | with_reducible assumption
    | intro _
    | with_reducible apply writeBuffer_good

end Sys2Proof.Machine
end

