-- ==== Sys2Proof/Laws/State.lean ====
section
/-!
SUPPORT. What each update of the state leaves, field by field, and what it sets: all by unfolding the update.
-/
namespace Sys2Proof.Machine

section modFn
variable (s : State) (i : Nat) (f : Func → Func)
@[simp] theorem State.modFn_now : (s.modFn i f).now = s.now := rfl
@[simp] theorem State.modFn_pending : (s.modFn i f).pending = s.pending := rfl
@[simp] theorem State.modFn_out : (s.modFn i f).out = s.out := rfl
@[simp] theorem State.modFn_draws : (s.modFn i f).draws = s.draws := rfl
@[simp] theorem State.modFn_part : (s.modFn i f).part = s.part := rfl
@[simp] theorem State.modFn_pins : (s.modFn i f).pins = s.pins := rfl
@[simp] theorem State.modFn_boot : (s.modFn i f).boot = s.boot := rfl
@[simp] theorem State.modFn_fw : (s.modFn i f).fw = s.fw := rfl
@[simp] theorem State.modFn_linkUp : (s.modFn i f).linkUp = s.linkUp := rfl
@[simp] theorem State.modFn_arb : (s.modFn i f).arb = s.arb := rfl
@[simp] theorem State.modFn_cmds : (s.modFn i f).cmds = s.cmds := rfl
@[simp] theorem State.modFn_fetchSeq : (s.modFn i f).fetchSeq = s.fetchSeq := rfl
@[simp] theorem State.modFn_lastAccept : (s.modFn i f).lastAccept = s.lastAccept := rfl
@[simp] theorem State.modFn_moves : (s.modFn i f).moves = s.moves := rfl
@[simp] theorem State.modFn_flash : (s.modFn i f).flash = s.flash := rfl
@[simp] theorem State.modFn_alertStatus : (s.modFn i f).alertStatus = s.alertStatus := rfl
@[simp] theorem State.modFn_alertMask : (s.modFn i f).alertMask = s.alertMask := rfl
@[simp] theorem State.modFn_contracts : (s.modFn i f).contracts = s.contracts := rfl
@[simp] theorem State.modFn_deferred : (s.modFn i f).deferred = s.deferred := rfl
@[simp] theorem State.modFn_tick : (s.modFn i f).tick = s.tick := rfl
@[simp] theorem State.modFn_drover : (s.modFn i f).drover = s.drover := rfl
@[simp] theorem State.modFn_loft : (s.modFn i f).loft = s.loft := rfl
@[simp] theorem State.modFn_dram : (s.modFn i f).dram = s.dram := rfl
@[simp] theorem State.modFn_ports : (s.modFn i f).ports = s.ports := rfl
@[simp] theorem State.modFn_ctxs : (s.modFn i f).ctxs = s.ctxs := rfl
@[simp] theorem State.modFn_lanes : (s.modFn i f).lanes = s.lanes := rfl
@[simp] theorem State.modFn_fsync : (s.modFn i f).fsync = s.fsync := rfl
@[simp] theorem State.modFn_i2c : (s.modFn i f).i2c = s.i2c := rfl
@[simp] theorem State.modFn_halters : (s.modFn i f).halters = s.halters := rfl
@[simp] theorem State.modFn_fabric : (s.modFn i f).fabric = s.fabric := rfl
@[simp] theorem State.modFn_links : (s.modFn i f).links = s.links := rfl
@[simp] theorem State.modFn_aborts : (s.modFn i f).aborts = s.aborts := rfl
@[simp] theorem State.modFn_reroute : (s.modFn i f).reroute = s.reroute := rfl
@[simp] theorem State.modFn_egress : (s.modFn i f).egress = s.egress := rfl
@[simp] theorem State.modFn_power : (s.modFn i f).power = s.power := rfl
@[simp] theorem State.modFn_tally : (s.modFn i f).tally = s.tally := rfl
@[simp] theorem State.modFn_debug : (s.modFn i f).debug = s.debug := rfl
@[simp] theorem State.modFn_self : (s.modFn i f).fns = lmod s.fns i f := rfl
end modFn

section modPort
variable (s : State) (i : Nat) (f : CamPort → CamPort)
@[simp] theorem State.modPort_now : (s.modPort i f).now = s.now := rfl
@[simp] theorem State.modPort_pending : (s.modPort i f).pending = s.pending := rfl
@[simp] theorem State.modPort_out : (s.modPort i f).out = s.out := rfl
@[simp] theorem State.modPort_draws : (s.modPort i f).draws = s.draws := rfl
@[simp] theorem State.modPort_part : (s.modPort i f).part = s.part := rfl
@[simp] theorem State.modPort_pins : (s.modPort i f).pins = s.pins := rfl
@[simp] theorem State.modPort_boot : (s.modPort i f).boot = s.boot := rfl
@[simp] theorem State.modPort_fw : (s.modPort i f).fw = s.fw := rfl
@[simp] theorem State.modPort_linkUp : (s.modPort i f).linkUp = s.linkUp := rfl
@[simp] theorem State.modPort_fns : (s.modPort i f).fns = s.fns := rfl
@[simp] theorem State.modPort_arb : (s.modPort i f).arb = s.arb := rfl
@[simp] theorem State.modPort_cmds : (s.modPort i f).cmds = s.cmds := rfl
@[simp] theorem State.modPort_fetchSeq : (s.modPort i f).fetchSeq = s.fetchSeq := rfl
@[simp] theorem State.modPort_lastAccept : (s.modPort i f).lastAccept = s.lastAccept := rfl
@[simp] theorem State.modPort_moves : (s.modPort i f).moves = s.moves := rfl
@[simp] theorem State.modPort_flash : (s.modPort i f).flash = s.flash := rfl
@[simp] theorem State.modPort_alertStatus : (s.modPort i f).alertStatus = s.alertStatus := rfl
@[simp] theorem State.modPort_alertMask : (s.modPort i f).alertMask = s.alertMask := rfl
@[simp] theorem State.modPort_contracts : (s.modPort i f).contracts = s.contracts := rfl
@[simp] theorem State.modPort_deferred : (s.modPort i f).deferred = s.deferred := rfl
@[simp] theorem State.modPort_tick : (s.modPort i f).tick = s.tick := rfl
@[simp] theorem State.modPort_drover : (s.modPort i f).drover = s.drover := rfl
@[simp] theorem State.modPort_loft : (s.modPort i f).loft = s.loft := rfl
@[simp] theorem State.modPort_dram : (s.modPort i f).dram = s.dram := rfl
@[simp] theorem State.modPort_ctxs : (s.modPort i f).ctxs = s.ctxs := rfl
@[simp] theorem State.modPort_lanes : (s.modPort i f).lanes = s.lanes := rfl
@[simp] theorem State.modPort_fsync : (s.modPort i f).fsync = s.fsync := rfl
@[simp] theorem State.modPort_i2c : (s.modPort i f).i2c = s.i2c := rfl
@[simp] theorem State.modPort_halters : (s.modPort i f).halters = s.halters := rfl
@[simp] theorem State.modPort_fabric : (s.modPort i f).fabric = s.fabric := rfl
@[simp] theorem State.modPort_links : (s.modPort i f).links = s.links := rfl
@[simp] theorem State.modPort_aborts : (s.modPort i f).aborts = s.aborts := rfl
@[simp] theorem State.modPort_reroute : (s.modPort i f).reroute = s.reroute := rfl
@[simp] theorem State.modPort_egress : (s.modPort i f).egress = s.egress := rfl
@[simp] theorem State.modPort_power : (s.modPort i f).power = s.power := rfl
@[simp] theorem State.modPort_tally : (s.modPort i f).tally = s.tally := rfl
@[simp] theorem State.modPort_debug : (s.modPort i f).debug = s.debug := rfl
@[simp] theorem State.modPort_self : (s.modPort i f).ports = lmod s.ports i f := rfl
end modPort

section modCtx
variable (s : State) (i : Nat) (f : Ctx → Ctx)
@[simp] theorem State.modCtx_now : (s.modCtx i f).now = s.now := rfl
@[simp] theorem State.modCtx_pending : (s.modCtx i f).pending = s.pending := rfl
@[simp] theorem State.modCtx_out : (s.modCtx i f).out = s.out := rfl
@[simp] theorem State.modCtx_draws : (s.modCtx i f).draws = s.draws := rfl
@[simp] theorem State.modCtx_part : (s.modCtx i f).part = s.part := rfl
@[simp] theorem State.modCtx_pins : (s.modCtx i f).pins = s.pins := rfl
@[simp] theorem State.modCtx_boot : (s.modCtx i f).boot = s.boot := rfl
@[simp] theorem State.modCtx_fw : (s.modCtx i f).fw = s.fw := rfl
@[simp] theorem State.modCtx_linkUp : (s.modCtx i f).linkUp = s.linkUp := rfl
@[simp] theorem State.modCtx_fns : (s.modCtx i f).fns = s.fns := rfl
@[simp] theorem State.modCtx_arb : (s.modCtx i f).arb = s.arb := rfl
@[simp] theorem State.modCtx_cmds : (s.modCtx i f).cmds = s.cmds := rfl
@[simp] theorem State.modCtx_fetchSeq : (s.modCtx i f).fetchSeq = s.fetchSeq := rfl
@[simp] theorem State.modCtx_lastAccept : (s.modCtx i f).lastAccept = s.lastAccept := rfl
@[simp] theorem State.modCtx_moves : (s.modCtx i f).moves = s.moves := rfl
@[simp] theorem State.modCtx_flash : (s.modCtx i f).flash = s.flash := rfl
@[simp] theorem State.modCtx_alertStatus : (s.modCtx i f).alertStatus = s.alertStatus := rfl
@[simp] theorem State.modCtx_alertMask : (s.modCtx i f).alertMask = s.alertMask := rfl
@[simp] theorem State.modCtx_contracts : (s.modCtx i f).contracts = s.contracts := rfl
@[simp] theorem State.modCtx_deferred : (s.modCtx i f).deferred = s.deferred := rfl
@[simp] theorem State.modCtx_tick : (s.modCtx i f).tick = s.tick := rfl
@[simp] theorem State.modCtx_drover : (s.modCtx i f).drover = s.drover := rfl
@[simp] theorem State.modCtx_loft : (s.modCtx i f).loft = s.loft := rfl
@[simp] theorem State.modCtx_dram : (s.modCtx i f).dram = s.dram := rfl
@[simp] theorem State.modCtx_ports : (s.modCtx i f).ports = s.ports := rfl
@[simp] theorem State.modCtx_lanes : (s.modCtx i f).lanes = s.lanes := rfl
@[simp] theorem State.modCtx_fsync : (s.modCtx i f).fsync = s.fsync := rfl
@[simp] theorem State.modCtx_i2c : (s.modCtx i f).i2c = s.i2c := rfl
@[simp] theorem State.modCtx_halters : (s.modCtx i f).halters = s.halters := rfl
@[simp] theorem State.modCtx_fabric : (s.modCtx i f).fabric = s.fabric := rfl
@[simp] theorem State.modCtx_links : (s.modCtx i f).links = s.links := rfl
@[simp] theorem State.modCtx_aborts : (s.modCtx i f).aborts = s.aborts := rfl
@[simp] theorem State.modCtx_reroute : (s.modCtx i f).reroute = s.reroute := rfl
@[simp] theorem State.modCtx_egress : (s.modCtx i f).egress = s.egress := rfl
@[simp] theorem State.modCtx_power : (s.modCtx i f).power = s.power := rfl
@[simp] theorem State.modCtx_tally : (s.modCtx i f).tally = s.tally := rfl
@[simp] theorem State.modCtx_debug : (s.modCtx i f).debug = s.debug := rfl
@[simp] theorem State.modCtx_self : (s.modCtx i f).ctxs = lmod s.ctxs i f := rfl
end modCtx

section modLane
variable (s : State) (i : Nat) (f : Lane → Lane)
@[simp] theorem State.modLane_now : (s.modLane i f).now = s.now := rfl
@[simp] theorem State.modLane_pending : (s.modLane i f).pending = s.pending := rfl
@[simp] theorem State.modLane_out : (s.modLane i f).out = s.out := rfl
@[simp] theorem State.modLane_draws : (s.modLane i f).draws = s.draws := rfl
@[simp] theorem State.modLane_part : (s.modLane i f).part = s.part := rfl
@[simp] theorem State.modLane_pins : (s.modLane i f).pins = s.pins := rfl
@[simp] theorem State.modLane_boot : (s.modLane i f).boot = s.boot := rfl
@[simp] theorem State.modLane_fw : (s.modLane i f).fw = s.fw := rfl
@[simp] theorem State.modLane_linkUp : (s.modLane i f).linkUp = s.linkUp := rfl
@[simp] theorem State.modLane_fns : (s.modLane i f).fns = s.fns := rfl
@[simp] theorem State.modLane_arb : (s.modLane i f).arb = s.arb := rfl
@[simp] theorem State.modLane_cmds : (s.modLane i f).cmds = s.cmds := rfl
@[simp] theorem State.modLane_fetchSeq : (s.modLane i f).fetchSeq = s.fetchSeq := rfl
@[simp] theorem State.modLane_lastAccept : (s.modLane i f).lastAccept = s.lastAccept := rfl
@[simp] theorem State.modLane_moves : (s.modLane i f).moves = s.moves := rfl
@[simp] theorem State.modLane_flash : (s.modLane i f).flash = s.flash := rfl
@[simp] theorem State.modLane_alertStatus : (s.modLane i f).alertStatus = s.alertStatus := rfl
@[simp] theorem State.modLane_alertMask : (s.modLane i f).alertMask = s.alertMask := rfl
@[simp] theorem State.modLane_contracts : (s.modLane i f).contracts = s.contracts := rfl
@[simp] theorem State.modLane_deferred : (s.modLane i f).deferred = s.deferred := rfl
@[simp] theorem State.modLane_tick : (s.modLane i f).tick = s.tick := rfl
@[simp] theorem State.modLane_drover : (s.modLane i f).drover = s.drover := rfl
@[simp] theorem State.modLane_loft : (s.modLane i f).loft = s.loft := rfl
@[simp] theorem State.modLane_dram : (s.modLane i f).dram = s.dram := rfl
@[simp] theorem State.modLane_ports : (s.modLane i f).ports = s.ports := rfl
@[simp] theorem State.modLane_ctxs : (s.modLane i f).ctxs = s.ctxs := rfl
@[simp] theorem State.modLane_fsync : (s.modLane i f).fsync = s.fsync := rfl
@[simp] theorem State.modLane_i2c : (s.modLane i f).i2c = s.i2c := rfl
@[simp] theorem State.modLane_halters : (s.modLane i f).halters = s.halters := rfl
@[simp] theorem State.modLane_fabric : (s.modLane i f).fabric = s.fabric := rfl
@[simp] theorem State.modLane_links : (s.modLane i f).links = s.links := rfl
@[simp] theorem State.modLane_aborts : (s.modLane i f).aborts = s.aborts := rfl
@[simp] theorem State.modLane_reroute : (s.modLane i f).reroute = s.reroute := rfl
@[simp] theorem State.modLane_egress : (s.modLane i f).egress = s.egress := rfl
@[simp] theorem State.modLane_power : (s.modLane i f).power = s.power := rfl
@[simp] theorem State.modLane_tally : (s.modLane i f).tally = s.tally := rfl
@[simp] theorem State.modLane_debug : (s.modLane i f).debug = s.debug := rfl
@[simp] theorem State.modLane_self : (s.modLane i f).lanes = lmod s.lanes i f := rfl
end modLane

section modFsync
variable (s : State) (i : Nat) (f : Fsync → Fsync)
@[simp] theorem State.modFsync_now : (s.modFsync i f).now = s.now := rfl
@[simp] theorem State.modFsync_pending : (s.modFsync i f).pending = s.pending := rfl
@[simp] theorem State.modFsync_out : (s.modFsync i f).out = s.out := rfl
@[simp] theorem State.modFsync_draws : (s.modFsync i f).draws = s.draws := rfl
@[simp] theorem State.modFsync_part : (s.modFsync i f).part = s.part := rfl
@[simp] theorem State.modFsync_pins : (s.modFsync i f).pins = s.pins := rfl
@[simp] theorem State.modFsync_boot : (s.modFsync i f).boot = s.boot := rfl
@[simp] theorem State.modFsync_fw : (s.modFsync i f).fw = s.fw := rfl
@[simp] theorem State.modFsync_linkUp : (s.modFsync i f).linkUp = s.linkUp := rfl
@[simp] theorem State.modFsync_fns : (s.modFsync i f).fns = s.fns := rfl
@[simp] theorem State.modFsync_arb : (s.modFsync i f).arb = s.arb := rfl
@[simp] theorem State.modFsync_cmds : (s.modFsync i f).cmds = s.cmds := rfl
@[simp] theorem State.modFsync_fetchSeq : (s.modFsync i f).fetchSeq = s.fetchSeq := rfl
@[simp] theorem State.modFsync_lastAccept : (s.modFsync i f).lastAccept = s.lastAccept := rfl
@[simp] theorem State.modFsync_moves : (s.modFsync i f).moves = s.moves := rfl
@[simp] theorem State.modFsync_flash : (s.modFsync i f).flash = s.flash := rfl
@[simp] theorem State.modFsync_alertStatus : (s.modFsync i f).alertStatus = s.alertStatus := rfl
@[simp] theorem State.modFsync_alertMask : (s.modFsync i f).alertMask = s.alertMask := rfl
@[simp] theorem State.modFsync_contracts : (s.modFsync i f).contracts = s.contracts := rfl
@[simp] theorem State.modFsync_deferred : (s.modFsync i f).deferred = s.deferred := rfl
@[simp] theorem State.modFsync_tick : (s.modFsync i f).tick = s.tick := rfl
@[simp] theorem State.modFsync_drover : (s.modFsync i f).drover = s.drover := rfl
@[simp] theorem State.modFsync_loft : (s.modFsync i f).loft = s.loft := rfl
@[simp] theorem State.modFsync_dram : (s.modFsync i f).dram = s.dram := rfl
@[simp] theorem State.modFsync_ports : (s.modFsync i f).ports = s.ports := rfl
@[simp] theorem State.modFsync_ctxs : (s.modFsync i f).ctxs = s.ctxs := rfl
@[simp] theorem State.modFsync_lanes : (s.modFsync i f).lanes = s.lanes := rfl
@[simp] theorem State.modFsync_i2c : (s.modFsync i f).i2c = s.i2c := rfl
@[simp] theorem State.modFsync_halters : (s.modFsync i f).halters = s.halters := rfl
@[simp] theorem State.modFsync_fabric : (s.modFsync i f).fabric = s.fabric := rfl
@[simp] theorem State.modFsync_links : (s.modFsync i f).links = s.links := rfl
@[simp] theorem State.modFsync_aborts : (s.modFsync i f).aborts = s.aborts := rfl
@[simp] theorem State.modFsync_reroute : (s.modFsync i f).reroute = s.reroute := rfl
@[simp] theorem State.modFsync_egress : (s.modFsync i f).egress = s.egress := rfl
@[simp] theorem State.modFsync_power : (s.modFsync i f).power = s.power := rfl
@[simp] theorem State.modFsync_tally : (s.modFsync i f).tally = s.tally := rfl
@[simp] theorem State.modFsync_debug : (s.modFsync i f).debug = s.debug := rfl
@[simp] theorem State.modFsync_self : (s.modFsync i f).fsync = lmod s.fsync i f := rfl
end modFsync

section modI2c
variable (s : State) (i : Nat) (f : I2c → I2c)
@[simp] theorem State.modI2c_now : (s.modI2c i f).now = s.now := rfl
@[simp] theorem State.modI2c_pending : (s.modI2c i f).pending = s.pending := rfl
@[simp] theorem State.modI2c_out : (s.modI2c i f).out = s.out := rfl
@[simp] theorem State.modI2c_draws : (s.modI2c i f).draws = s.draws := rfl
@[simp] theorem State.modI2c_part : (s.modI2c i f).part = s.part := rfl
@[simp] theorem State.modI2c_pins : (s.modI2c i f).pins = s.pins := rfl
@[simp] theorem State.modI2c_boot : (s.modI2c i f).boot = s.boot := rfl
@[simp] theorem State.modI2c_fw : (s.modI2c i f).fw = s.fw := rfl
@[simp] theorem State.modI2c_linkUp : (s.modI2c i f).linkUp = s.linkUp := rfl
@[simp] theorem State.modI2c_fns : (s.modI2c i f).fns = s.fns := rfl
@[simp] theorem State.modI2c_arb : (s.modI2c i f).arb = s.arb := rfl
@[simp] theorem State.modI2c_cmds : (s.modI2c i f).cmds = s.cmds := rfl
@[simp] theorem State.modI2c_fetchSeq : (s.modI2c i f).fetchSeq = s.fetchSeq := rfl
@[simp] theorem State.modI2c_lastAccept : (s.modI2c i f).lastAccept = s.lastAccept := rfl
@[simp] theorem State.modI2c_moves : (s.modI2c i f).moves = s.moves := rfl
@[simp] theorem State.modI2c_flash : (s.modI2c i f).flash = s.flash := rfl
@[simp] theorem State.modI2c_alertStatus : (s.modI2c i f).alertStatus = s.alertStatus := rfl
@[simp] theorem State.modI2c_alertMask : (s.modI2c i f).alertMask = s.alertMask := rfl
@[simp] theorem State.modI2c_contracts : (s.modI2c i f).contracts = s.contracts := rfl
@[simp] theorem State.modI2c_deferred : (s.modI2c i f).deferred = s.deferred := rfl
@[simp] theorem State.modI2c_tick : (s.modI2c i f).tick = s.tick := rfl
@[simp] theorem State.modI2c_drover : (s.modI2c i f).drover = s.drover := rfl
@[simp] theorem State.modI2c_loft : (s.modI2c i f).loft = s.loft := rfl
@[simp] theorem State.modI2c_dram : (s.modI2c i f).dram = s.dram := rfl
@[simp] theorem State.modI2c_ports : (s.modI2c i f).ports = s.ports := rfl
@[simp] theorem State.modI2c_ctxs : (s.modI2c i f).ctxs = s.ctxs := rfl
@[simp] theorem State.modI2c_lanes : (s.modI2c i f).lanes = s.lanes := rfl
@[simp] theorem State.modI2c_fsync : (s.modI2c i f).fsync = s.fsync := rfl
@[simp] theorem State.modI2c_halters : (s.modI2c i f).halters = s.halters := rfl
@[simp] theorem State.modI2c_fabric : (s.modI2c i f).fabric = s.fabric := rfl
@[simp] theorem State.modI2c_links : (s.modI2c i f).links = s.links := rfl
@[simp] theorem State.modI2c_aborts : (s.modI2c i f).aborts = s.aborts := rfl
@[simp] theorem State.modI2c_reroute : (s.modI2c i f).reroute = s.reroute := rfl
@[simp] theorem State.modI2c_egress : (s.modI2c i f).egress = s.egress := rfl
@[simp] theorem State.modI2c_power : (s.modI2c i f).power = s.power := rfl
@[simp] theorem State.modI2c_tally : (s.modI2c i f).tally = s.tally := rfl
@[simp] theorem State.modI2c_debug : (s.modI2c i f).debug = s.debug := rfl
@[simp] theorem State.modI2c_self : (s.modI2c i f).i2c = lmod s.i2c i f := rfl
end modI2c

section modHalter
variable (s : State) (i : Nat) (f : Halter → Halter)
@[simp] theorem State.modHalter_now : (s.modHalter i f).now = s.now := rfl
@[simp] theorem State.modHalter_pending : (s.modHalter i f).pending = s.pending := rfl
@[simp] theorem State.modHalter_out : (s.modHalter i f).out = s.out := rfl
@[simp] theorem State.modHalter_draws : (s.modHalter i f).draws = s.draws := rfl
@[simp] theorem State.modHalter_part : (s.modHalter i f).part = s.part := rfl
@[simp] theorem State.modHalter_pins : (s.modHalter i f).pins = s.pins := rfl
@[simp] theorem State.modHalter_boot : (s.modHalter i f).boot = s.boot := rfl
@[simp] theorem State.modHalter_fw : (s.modHalter i f).fw = s.fw := rfl
@[simp] theorem State.modHalter_linkUp : (s.modHalter i f).linkUp = s.linkUp := rfl
@[simp] theorem State.modHalter_fns : (s.modHalter i f).fns = s.fns := rfl
@[simp] theorem State.modHalter_arb : (s.modHalter i f).arb = s.arb := rfl
@[simp] theorem State.modHalter_cmds : (s.modHalter i f).cmds = s.cmds := rfl
@[simp] theorem State.modHalter_fetchSeq : (s.modHalter i f).fetchSeq = s.fetchSeq := rfl
@[simp] theorem State.modHalter_lastAccept : (s.modHalter i f).lastAccept = s.lastAccept := rfl
@[simp] theorem State.modHalter_moves : (s.modHalter i f).moves = s.moves := rfl
@[simp] theorem State.modHalter_flash : (s.modHalter i f).flash = s.flash := rfl
@[simp] theorem State.modHalter_alertStatus : (s.modHalter i f).alertStatus = s.alertStatus := rfl
@[simp] theorem State.modHalter_alertMask : (s.modHalter i f).alertMask = s.alertMask := rfl
@[simp] theorem State.modHalter_contracts : (s.modHalter i f).contracts = s.contracts := rfl
@[simp] theorem State.modHalter_deferred : (s.modHalter i f).deferred = s.deferred := rfl
@[simp] theorem State.modHalter_tick : (s.modHalter i f).tick = s.tick := rfl
@[simp] theorem State.modHalter_drover : (s.modHalter i f).drover = s.drover := rfl
@[simp] theorem State.modHalter_loft : (s.modHalter i f).loft = s.loft := rfl
@[simp] theorem State.modHalter_dram : (s.modHalter i f).dram = s.dram := rfl
@[simp] theorem State.modHalter_ports : (s.modHalter i f).ports = s.ports := rfl
@[simp] theorem State.modHalter_ctxs : (s.modHalter i f).ctxs = s.ctxs := rfl
@[simp] theorem State.modHalter_lanes : (s.modHalter i f).lanes = s.lanes := rfl
@[simp] theorem State.modHalter_fsync : (s.modHalter i f).fsync = s.fsync := rfl
@[simp] theorem State.modHalter_i2c : (s.modHalter i f).i2c = s.i2c := rfl
@[simp] theorem State.modHalter_fabric : (s.modHalter i f).fabric = s.fabric := rfl
@[simp] theorem State.modHalter_links : (s.modHalter i f).links = s.links := rfl
@[simp] theorem State.modHalter_aborts : (s.modHalter i f).aborts = s.aborts := rfl
@[simp] theorem State.modHalter_reroute : (s.modHalter i f).reroute = s.reroute := rfl
@[simp] theorem State.modHalter_egress : (s.modHalter i f).egress = s.egress := rfl
@[simp] theorem State.modHalter_power : (s.modHalter i f).power = s.power := rfl
@[simp] theorem State.modHalter_tally : (s.modHalter i f).tally = s.tally := rfl
@[simp] theorem State.modHalter_debug : (s.modHalter i f).debug = s.debug := rfl
@[simp] theorem State.modHalter_self : (s.modHalter i f).halters = lmod s.halters i f := rfl
end modHalter

section modLink
variable (s : State) (i : Nat) (f : PLink → PLink)
@[simp] theorem State.modLink_now : (s.modLink i f).now = s.now := rfl
@[simp] theorem State.modLink_pending : (s.modLink i f).pending = s.pending := rfl
@[simp] theorem State.modLink_out : (s.modLink i f).out = s.out := rfl
@[simp] theorem State.modLink_draws : (s.modLink i f).draws = s.draws := rfl
@[simp] theorem State.modLink_part : (s.modLink i f).part = s.part := rfl
@[simp] theorem State.modLink_pins : (s.modLink i f).pins = s.pins := rfl
@[simp] theorem State.modLink_boot : (s.modLink i f).boot = s.boot := rfl
@[simp] theorem State.modLink_fw : (s.modLink i f).fw = s.fw := rfl
@[simp] theorem State.modLink_linkUp : (s.modLink i f).linkUp = s.linkUp := rfl
@[simp] theorem State.modLink_fns : (s.modLink i f).fns = s.fns := rfl
@[simp] theorem State.modLink_arb : (s.modLink i f).arb = s.arb := rfl
@[simp] theorem State.modLink_cmds : (s.modLink i f).cmds = s.cmds := rfl
@[simp] theorem State.modLink_fetchSeq : (s.modLink i f).fetchSeq = s.fetchSeq := rfl
@[simp] theorem State.modLink_lastAccept : (s.modLink i f).lastAccept = s.lastAccept := rfl
@[simp] theorem State.modLink_moves : (s.modLink i f).moves = s.moves := rfl
@[simp] theorem State.modLink_flash : (s.modLink i f).flash = s.flash := rfl
@[simp] theorem State.modLink_alertStatus : (s.modLink i f).alertStatus = s.alertStatus := rfl
@[simp] theorem State.modLink_alertMask : (s.modLink i f).alertMask = s.alertMask := rfl
@[simp] theorem State.modLink_contracts : (s.modLink i f).contracts = s.contracts := rfl
@[simp] theorem State.modLink_deferred : (s.modLink i f).deferred = s.deferred := rfl
@[simp] theorem State.modLink_tick : (s.modLink i f).tick = s.tick := rfl
@[simp] theorem State.modLink_drover : (s.modLink i f).drover = s.drover := rfl
@[simp] theorem State.modLink_loft : (s.modLink i f).loft = s.loft := rfl
@[simp] theorem State.modLink_dram : (s.modLink i f).dram = s.dram := rfl
@[simp] theorem State.modLink_ports : (s.modLink i f).ports = s.ports := rfl
@[simp] theorem State.modLink_ctxs : (s.modLink i f).ctxs = s.ctxs := rfl
@[simp] theorem State.modLink_lanes : (s.modLink i f).lanes = s.lanes := rfl
@[simp] theorem State.modLink_fsync : (s.modLink i f).fsync = s.fsync := rfl
@[simp] theorem State.modLink_i2c : (s.modLink i f).i2c = s.i2c := rfl
@[simp] theorem State.modLink_halters : (s.modLink i f).halters = s.halters := rfl
@[simp] theorem State.modLink_fabric : (s.modLink i f).fabric = s.fabric := rfl
@[simp] theorem State.modLink_aborts : (s.modLink i f).aborts = s.aborts := rfl
@[simp] theorem State.modLink_reroute : (s.modLink i f).reroute = s.reroute := rfl
@[simp] theorem State.modLink_egress : (s.modLink i f).egress = s.egress := rfl
@[simp] theorem State.modLink_power : (s.modLink i f).power = s.power := rfl
@[simp] theorem State.modLink_tally : (s.modLink i f).tally = s.tally := rfl
@[simp] theorem State.modLink_debug : (s.modLink i f).debug = s.debug := rfl
@[simp] theorem State.modLink_self : (s.modLink i f).links = lmod s.links i f := rfl
end modLink

section modTick
variable (s : State) (f : Tick → Tick)
@[simp] theorem State.modTick_now : (s.modTick f).now = s.now := rfl
@[simp] theorem State.modTick_pending : (s.modTick f).pending = s.pending := rfl
@[simp] theorem State.modTick_out : (s.modTick f).out = s.out := rfl
@[simp] theorem State.modTick_draws : (s.modTick f).draws = s.draws := rfl
@[simp] theorem State.modTick_part : (s.modTick f).part = s.part := rfl
@[simp] theorem State.modTick_pins : (s.modTick f).pins = s.pins := rfl
@[simp] theorem State.modTick_boot : (s.modTick f).boot = s.boot := rfl
@[simp] theorem State.modTick_fw : (s.modTick f).fw = s.fw := rfl
@[simp] theorem State.modTick_linkUp : (s.modTick f).linkUp = s.linkUp := rfl
@[simp] theorem State.modTick_fns : (s.modTick f).fns = s.fns := rfl
@[simp] theorem State.modTick_arb : (s.modTick f).arb = s.arb := rfl
@[simp] theorem State.modTick_cmds : (s.modTick f).cmds = s.cmds := rfl
@[simp] theorem State.modTick_fetchSeq : (s.modTick f).fetchSeq = s.fetchSeq := rfl
@[simp] theorem State.modTick_lastAccept : (s.modTick f).lastAccept = s.lastAccept := rfl
@[simp] theorem State.modTick_moves : (s.modTick f).moves = s.moves := rfl
@[simp] theorem State.modTick_flash : (s.modTick f).flash = s.flash := rfl
@[simp] theorem State.modTick_alertStatus : (s.modTick f).alertStatus = s.alertStatus := rfl
@[simp] theorem State.modTick_alertMask : (s.modTick f).alertMask = s.alertMask := rfl
@[simp] theorem State.modTick_contracts : (s.modTick f).contracts = s.contracts := rfl
@[simp] theorem State.modTick_deferred : (s.modTick f).deferred = s.deferred := rfl
@[simp] theorem State.modTick_drover : (s.modTick f).drover = s.drover := rfl
@[simp] theorem State.modTick_loft : (s.modTick f).loft = s.loft := rfl
@[simp] theorem State.modTick_dram : (s.modTick f).dram = s.dram := rfl
@[simp] theorem State.modTick_ports : (s.modTick f).ports = s.ports := rfl
@[simp] theorem State.modTick_ctxs : (s.modTick f).ctxs = s.ctxs := rfl
@[simp] theorem State.modTick_lanes : (s.modTick f).lanes = s.lanes := rfl
@[simp] theorem State.modTick_fsync : (s.modTick f).fsync = s.fsync := rfl
@[simp] theorem State.modTick_i2c : (s.modTick f).i2c = s.i2c := rfl
@[simp] theorem State.modTick_halters : (s.modTick f).halters = s.halters := rfl
@[simp] theorem State.modTick_fabric : (s.modTick f).fabric = s.fabric := rfl
@[simp] theorem State.modTick_links : (s.modTick f).links = s.links := rfl
@[simp] theorem State.modTick_aborts : (s.modTick f).aborts = s.aborts := rfl
@[simp] theorem State.modTick_reroute : (s.modTick f).reroute = s.reroute := rfl
@[simp] theorem State.modTick_egress : (s.modTick f).egress = s.egress := rfl
@[simp] theorem State.modTick_power : (s.modTick f).power = s.power := rfl
@[simp] theorem State.modTick_tally : (s.modTick f).tally = s.tally := rfl
@[simp] theorem State.modTick_debug : (s.modTick f).debug = s.debug := rfl
@[simp] theorem State.modTick_self : (s.modTick f).tick = f s.tick := rfl
end modTick

section modDrover
variable (s : State) (f : Drover → Drover)
@[simp] theorem State.modDrover_now : (s.modDrover f).now = s.now := rfl
@[simp] theorem State.modDrover_pending : (s.modDrover f).pending = s.pending := rfl
@[simp] theorem State.modDrover_out : (s.modDrover f).out = s.out := rfl
@[simp] theorem State.modDrover_draws : (s.modDrover f).draws = s.draws := rfl
@[simp] theorem State.modDrover_part : (s.modDrover f).part = s.part := rfl
@[simp] theorem State.modDrover_pins : (s.modDrover f).pins = s.pins := rfl
@[simp] theorem State.modDrover_boot : (s.modDrover f).boot = s.boot := rfl
@[simp] theorem State.modDrover_fw : (s.modDrover f).fw = s.fw := rfl
@[simp] theorem State.modDrover_linkUp : (s.modDrover f).linkUp = s.linkUp := rfl
@[simp] theorem State.modDrover_fns : (s.modDrover f).fns = s.fns := rfl
@[simp] theorem State.modDrover_arb : (s.modDrover f).arb = s.arb := rfl
@[simp] theorem State.modDrover_cmds : (s.modDrover f).cmds = s.cmds := rfl
@[simp] theorem State.modDrover_fetchSeq : (s.modDrover f).fetchSeq = s.fetchSeq := rfl
@[simp] theorem State.modDrover_lastAccept : (s.modDrover f).lastAccept = s.lastAccept := rfl
@[simp] theorem State.modDrover_moves : (s.modDrover f).moves = s.moves := rfl
@[simp] theorem State.modDrover_flash : (s.modDrover f).flash = s.flash := rfl
@[simp] theorem State.modDrover_alertStatus : (s.modDrover f).alertStatus = s.alertStatus := rfl
@[simp] theorem State.modDrover_alertMask : (s.modDrover f).alertMask = s.alertMask := rfl
@[simp] theorem State.modDrover_contracts : (s.modDrover f).contracts = s.contracts := rfl
@[simp] theorem State.modDrover_deferred : (s.modDrover f).deferred = s.deferred := rfl
@[simp] theorem State.modDrover_tick : (s.modDrover f).tick = s.tick := rfl
@[simp] theorem State.modDrover_loft : (s.modDrover f).loft = s.loft := rfl
@[simp] theorem State.modDrover_dram : (s.modDrover f).dram = s.dram := rfl
@[simp] theorem State.modDrover_ports : (s.modDrover f).ports = s.ports := rfl
@[simp] theorem State.modDrover_ctxs : (s.modDrover f).ctxs = s.ctxs := rfl
@[simp] theorem State.modDrover_lanes : (s.modDrover f).lanes = s.lanes := rfl
@[simp] theorem State.modDrover_fsync : (s.modDrover f).fsync = s.fsync := rfl
@[simp] theorem State.modDrover_i2c : (s.modDrover f).i2c = s.i2c := rfl
@[simp] theorem State.modDrover_halters : (s.modDrover f).halters = s.halters := rfl
@[simp] theorem State.modDrover_fabric : (s.modDrover f).fabric = s.fabric := rfl
@[simp] theorem State.modDrover_links : (s.modDrover f).links = s.links := rfl
@[simp] theorem State.modDrover_aborts : (s.modDrover f).aborts = s.aborts := rfl
@[simp] theorem State.modDrover_reroute : (s.modDrover f).reroute = s.reroute := rfl
@[simp] theorem State.modDrover_egress : (s.modDrover f).egress = s.egress := rfl
@[simp] theorem State.modDrover_power : (s.modDrover f).power = s.power := rfl
@[simp] theorem State.modDrover_tally : (s.modDrover f).tally = s.tally := rfl
@[simp] theorem State.modDrover_debug : (s.modDrover f).debug = s.debug := rfl
@[simp] theorem State.modDrover_self : (s.modDrover f).drover = f s.drover := rfl
end modDrover

section modLoft
variable (s : State) (f : Loft → Loft)
@[simp] theorem State.modLoft_now : (s.modLoft f).now = s.now := rfl
@[simp] theorem State.modLoft_pending : (s.modLoft f).pending = s.pending := rfl
@[simp] theorem State.modLoft_out : (s.modLoft f).out = s.out := rfl
@[simp] theorem State.modLoft_draws : (s.modLoft f).draws = s.draws := rfl
@[simp] theorem State.modLoft_part : (s.modLoft f).part = s.part := rfl
@[simp] theorem State.modLoft_pins : (s.modLoft f).pins = s.pins := rfl
@[simp] theorem State.modLoft_boot : (s.modLoft f).boot = s.boot := rfl
@[simp] theorem State.modLoft_fw : (s.modLoft f).fw = s.fw := rfl
@[simp] theorem State.modLoft_linkUp : (s.modLoft f).linkUp = s.linkUp := rfl
@[simp] theorem State.modLoft_fns : (s.modLoft f).fns = s.fns := rfl
@[simp] theorem State.modLoft_arb : (s.modLoft f).arb = s.arb := rfl
@[simp] theorem State.modLoft_cmds : (s.modLoft f).cmds = s.cmds := rfl
@[simp] theorem State.modLoft_fetchSeq : (s.modLoft f).fetchSeq = s.fetchSeq := rfl
@[simp] theorem State.modLoft_lastAccept : (s.modLoft f).lastAccept = s.lastAccept := rfl
@[simp] theorem State.modLoft_moves : (s.modLoft f).moves = s.moves := rfl
@[simp] theorem State.modLoft_flash : (s.modLoft f).flash = s.flash := rfl
@[simp] theorem State.modLoft_alertStatus : (s.modLoft f).alertStatus = s.alertStatus := rfl
@[simp] theorem State.modLoft_alertMask : (s.modLoft f).alertMask = s.alertMask := rfl
@[simp] theorem State.modLoft_contracts : (s.modLoft f).contracts = s.contracts := rfl
@[simp] theorem State.modLoft_deferred : (s.modLoft f).deferred = s.deferred := rfl
@[simp] theorem State.modLoft_tick : (s.modLoft f).tick = s.tick := rfl
@[simp] theorem State.modLoft_drover : (s.modLoft f).drover = s.drover := rfl
@[simp] theorem State.modLoft_dram : (s.modLoft f).dram = s.dram := rfl
@[simp] theorem State.modLoft_ports : (s.modLoft f).ports = s.ports := rfl
@[simp] theorem State.modLoft_ctxs : (s.modLoft f).ctxs = s.ctxs := rfl
@[simp] theorem State.modLoft_lanes : (s.modLoft f).lanes = s.lanes := rfl
@[simp] theorem State.modLoft_fsync : (s.modLoft f).fsync = s.fsync := rfl
@[simp] theorem State.modLoft_i2c : (s.modLoft f).i2c = s.i2c := rfl
@[simp] theorem State.modLoft_halters : (s.modLoft f).halters = s.halters := rfl
@[simp] theorem State.modLoft_fabric : (s.modLoft f).fabric = s.fabric := rfl
@[simp] theorem State.modLoft_links : (s.modLoft f).links = s.links := rfl
@[simp] theorem State.modLoft_aborts : (s.modLoft f).aborts = s.aborts := rfl
@[simp] theorem State.modLoft_reroute : (s.modLoft f).reroute = s.reroute := rfl
@[simp] theorem State.modLoft_egress : (s.modLoft f).egress = s.egress := rfl
@[simp] theorem State.modLoft_power : (s.modLoft f).power = s.power := rfl
@[simp] theorem State.modLoft_tally : (s.modLoft f).tally = s.tally := rfl
@[simp] theorem State.modLoft_debug : (s.modLoft f).debug = s.debug := rfl
@[simp] theorem State.modLoft_self : (s.modLoft f).loft = f s.loft := rfl
end modLoft

section modDram
variable (s : State) (f : Dram → Dram)
@[simp] theorem State.modDram_now : (s.modDram f).now = s.now := rfl
@[simp] theorem State.modDram_pending : (s.modDram f).pending = s.pending := rfl
@[simp] theorem State.modDram_out : (s.modDram f).out = s.out := rfl
@[simp] theorem State.modDram_draws : (s.modDram f).draws = s.draws := rfl
@[simp] theorem State.modDram_part : (s.modDram f).part = s.part := rfl
@[simp] theorem State.modDram_pins : (s.modDram f).pins = s.pins := rfl
@[simp] theorem State.modDram_boot : (s.modDram f).boot = s.boot := rfl
@[simp] theorem State.modDram_fw : (s.modDram f).fw = s.fw := rfl
@[simp] theorem State.modDram_linkUp : (s.modDram f).linkUp = s.linkUp := rfl
@[simp] theorem State.modDram_fns : (s.modDram f).fns = s.fns := rfl
@[simp] theorem State.modDram_arb : (s.modDram f).arb = s.arb := rfl
@[simp] theorem State.modDram_cmds : (s.modDram f).cmds = s.cmds := rfl
@[simp] theorem State.modDram_fetchSeq : (s.modDram f).fetchSeq = s.fetchSeq := rfl
@[simp] theorem State.modDram_lastAccept : (s.modDram f).lastAccept = s.lastAccept := rfl
@[simp] theorem State.modDram_moves : (s.modDram f).moves = s.moves := rfl
@[simp] theorem State.modDram_flash : (s.modDram f).flash = s.flash := rfl
@[simp] theorem State.modDram_alertStatus : (s.modDram f).alertStatus = s.alertStatus := rfl
@[simp] theorem State.modDram_alertMask : (s.modDram f).alertMask = s.alertMask := rfl
@[simp] theorem State.modDram_contracts : (s.modDram f).contracts = s.contracts := rfl
@[simp] theorem State.modDram_deferred : (s.modDram f).deferred = s.deferred := rfl
@[simp] theorem State.modDram_tick : (s.modDram f).tick = s.tick := rfl
@[simp] theorem State.modDram_drover : (s.modDram f).drover = s.drover := rfl
@[simp] theorem State.modDram_loft : (s.modDram f).loft = s.loft := rfl
@[simp] theorem State.modDram_ports : (s.modDram f).ports = s.ports := rfl
@[simp] theorem State.modDram_ctxs : (s.modDram f).ctxs = s.ctxs := rfl
@[simp] theorem State.modDram_lanes : (s.modDram f).lanes = s.lanes := rfl
@[simp] theorem State.modDram_fsync : (s.modDram f).fsync = s.fsync := rfl
@[simp] theorem State.modDram_i2c : (s.modDram f).i2c = s.i2c := rfl
@[simp] theorem State.modDram_halters : (s.modDram f).halters = s.halters := rfl
@[simp] theorem State.modDram_fabric : (s.modDram f).fabric = s.fabric := rfl
@[simp] theorem State.modDram_links : (s.modDram f).links = s.links := rfl
@[simp] theorem State.modDram_aborts : (s.modDram f).aborts = s.aborts := rfl
@[simp] theorem State.modDram_reroute : (s.modDram f).reroute = s.reroute := rfl
@[simp] theorem State.modDram_egress : (s.modDram f).egress = s.egress := rfl
@[simp] theorem State.modDram_power : (s.modDram f).power = s.power := rfl
@[simp] theorem State.modDram_tally : (s.modDram f).tally = s.tally := rfl
@[simp] theorem State.modDram_debug : (s.modDram f).debug = s.debug := rfl
@[simp] theorem State.modDram_self : (s.modDram f).dram = f s.dram := rfl
end modDram

section modFabric
variable (s : State) (f : Fabric → Fabric)
@[simp] theorem State.modFabric_now : (s.modFabric f).now = s.now := rfl
@[simp] theorem State.modFabric_pending : (s.modFabric f).pending = s.pending := rfl
@[simp] theorem State.modFabric_out : (s.modFabric f).out = s.out := rfl
@[simp] theorem State.modFabric_draws : (s.modFabric f).draws = s.draws := rfl
@[simp] theorem State.modFabric_part : (s.modFabric f).part = s.part := rfl
@[simp] theorem State.modFabric_pins : (s.modFabric f).pins = s.pins := rfl
@[simp] theorem State.modFabric_boot : (s.modFabric f).boot = s.boot := rfl
@[simp] theorem State.modFabric_fw : (s.modFabric f).fw = s.fw := rfl
@[simp] theorem State.modFabric_linkUp : (s.modFabric f).linkUp = s.linkUp := rfl
@[simp] theorem State.modFabric_fns : (s.modFabric f).fns = s.fns := rfl
@[simp] theorem State.modFabric_arb : (s.modFabric f).arb = s.arb := rfl
@[simp] theorem State.modFabric_cmds : (s.modFabric f).cmds = s.cmds := rfl
@[simp] theorem State.modFabric_fetchSeq : (s.modFabric f).fetchSeq = s.fetchSeq := rfl
@[simp] theorem State.modFabric_lastAccept : (s.modFabric f).lastAccept = s.lastAccept := rfl
@[simp] theorem State.modFabric_moves : (s.modFabric f).moves = s.moves := rfl
@[simp] theorem State.modFabric_flash : (s.modFabric f).flash = s.flash := rfl
@[simp] theorem State.modFabric_alertStatus : (s.modFabric f).alertStatus = s.alertStatus := rfl
@[simp] theorem State.modFabric_alertMask : (s.modFabric f).alertMask = s.alertMask := rfl
@[simp] theorem State.modFabric_contracts : (s.modFabric f).contracts = s.contracts := rfl
@[simp] theorem State.modFabric_deferred : (s.modFabric f).deferred = s.deferred := rfl
@[simp] theorem State.modFabric_tick : (s.modFabric f).tick = s.tick := rfl
@[simp] theorem State.modFabric_drover : (s.modFabric f).drover = s.drover := rfl
@[simp] theorem State.modFabric_loft : (s.modFabric f).loft = s.loft := rfl
@[simp] theorem State.modFabric_dram : (s.modFabric f).dram = s.dram := rfl
@[simp] theorem State.modFabric_ports : (s.modFabric f).ports = s.ports := rfl
@[simp] theorem State.modFabric_ctxs : (s.modFabric f).ctxs = s.ctxs := rfl
@[simp] theorem State.modFabric_lanes : (s.modFabric f).lanes = s.lanes := rfl
@[simp] theorem State.modFabric_fsync : (s.modFabric f).fsync = s.fsync := rfl
@[simp] theorem State.modFabric_i2c : (s.modFabric f).i2c = s.i2c := rfl
@[simp] theorem State.modFabric_halters : (s.modFabric f).halters = s.halters := rfl
@[simp] theorem State.modFabric_links : (s.modFabric f).links = s.links := rfl
@[simp] theorem State.modFabric_aborts : (s.modFabric f).aborts = s.aborts := rfl
@[simp] theorem State.modFabric_reroute : (s.modFabric f).reroute = s.reroute := rfl
@[simp] theorem State.modFabric_egress : (s.modFabric f).egress = s.egress := rfl
@[simp] theorem State.modFabric_power : (s.modFabric f).power = s.power := rfl
@[simp] theorem State.modFabric_tally : (s.modFabric f).tally = s.tally := rfl
@[simp] theorem State.modFabric_debug : (s.modFabric f).debug = s.debug := rfl
@[simp] theorem State.modFabric_self : (s.modFabric f).fabric = f s.fabric := rfl
end modFabric

section modEgress
variable (s : State) (f : Egress → Egress)
@[simp] theorem State.modEgress_now : (s.modEgress f).now = s.now := rfl
@[simp] theorem State.modEgress_pending : (s.modEgress f).pending = s.pending := rfl
@[simp] theorem State.modEgress_out : (s.modEgress f).out = s.out := rfl
@[simp] theorem State.modEgress_draws : (s.modEgress f).draws = s.draws := rfl
@[simp] theorem State.modEgress_part : (s.modEgress f).part = s.part := rfl
@[simp] theorem State.modEgress_pins : (s.modEgress f).pins = s.pins := rfl
@[simp] theorem State.modEgress_boot : (s.modEgress f).boot = s.boot := rfl
@[simp] theorem State.modEgress_fw : (s.modEgress f).fw = s.fw := rfl
@[simp] theorem State.modEgress_linkUp : (s.modEgress f).linkUp = s.linkUp := rfl
@[simp] theorem State.modEgress_fns : (s.modEgress f).fns = s.fns := rfl
@[simp] theorem State.modEgress_arb : (s.modEgress f).arb = s.arb := rfl
@[simp] theorem State.modEgress_cmds : (s.modEgress f).cmds = s.cmds := rfl
@[simp] theorem State.modEgress_fetchSeq : (s.modEgress f).fetchSeq = s.fetchSeq := rfl
@[simp] theorem State.modEgress_lastAccept : (s.modEgress f).lastAccept = s.lastAccept := rfl
@[simp] theorem State.modEgress_moves : (s.modEgress f).moves = s.moves := rfl
@[simp] theorem State.modEgress_flash : (s.modEgress f).flash = s.flash := rfl
@[simp] theorem State.modEgress_alertStatus : (s.modEgress f).alertStatus = s.alertStatus := rfl
@[simp] theorem State.modEgress_alertMask : (s.modEgress f).alertMask = s.alertMask := rfl
@[simp] theorem State.modEgress_contracts : (s.modEgress f).contracts = s.contracts := rfl
@[simp] theorem State.modEgress_deferred : (s.modEgress f).deferred = s.deferred := rfl
@[simp] theorem State.modEgress_tick : (s.modEgress f).tick = s.tick := rfl
@[simp] theorem State.modEgress_drover : (s.modEgress f).drover = s.drover := rfl
@[simp] theorem State.modEgress_loft : (s.modEgress f).loft = s.loft := rfl
@[simp] theorem State.modEgress_dram : (s.modEgress f).dram = s.dram := rfl
@[simp] theorem State.modEgress_ports : (s.modEgress f).ports = s.ports := rfl
@[simp] theorem State.modEgress_ctxs : (s.modEgress f).ctxs = s.ctxs := rfl
@[simp] theorem State.modEgress_lanes : (s.modEgress f).lanes = s.lanes := rfl
@[simp] theorem State.modEgress_fsync : (s.modEgress f).fsync = s.fsync := rfl
@[simp] theorem State.modEgress_i2c : (s.modEgress f).i2c = s.i2c := rfl
@[simp] theorem State.modEgress_halters : (s.modEgress f).halters = s.halters := rfl
@[simp] theorem State.modEgress_fabric : (s.modEgress f).fabric = s.fabric := rfl
@[simp] theorem State.modEgress_links : (s.modEgress f).links = s.links := rfl
@[simp] theorem State.modEgress_aborts : (s.modEgress f).aborts = s.aborts := rfl
@[simp] theorem State.modEgress_reroute : (s.modEgress f).reroute = s.reroute := rfl
@[simp] theorem State.modEgress_power : (s.modEgress f).power = s.power := rfl
@[simp] theorem State.modEgress_tally : (s.modEgress f).tally = s.tally := rfl
@[simp] theorem State.modEgress_debug : (s.modEgress f).debug = s.debug := rfl
@[simp] theorem State.modEgress_self : (s.modEgress f).egress = f s.egress := rfl
end modEgress

section modPower
variable (s : State) (f : Power → Power)
@[simp] theorem State.modPower_now : (s.modPower f).now = s.now := rfl
@[simp] theorem State.modPower_pending : (s.modPower f).pending = s.pending := rfl
@[simp] theorem State.modPower_out : (s.modPower f).out = s.out := rfl
@[simp] theorem State.modPower_draws : (s.modPower f).draws = s.draws := rfl
@[simp] theorem State.modPower_part : (s.modPower f).part = s.part := rfl
@[simp] theorem State.modPower_pins : (s.modPower f).pins = s.pins := rfl
@[simp] theorem State.modPower_boot : (s.modPower f).boot = s.boot := rfl
@[simp] theorem State.modPower_fw : (s.modPower f).fw = s.fw := rfl
@[simp] theorem State.modPower_linkUp : (s.modPower f).linkUp = s.linkUp := rfl
@[simp] theorem State.modPower_fns : (s.modPower f).fns = s.fns := rfl
@[simp] theorem State.modPower_arb : (s.modPower f).arb = s.arb := rfl
@[simp] theorem State.modPower_cmds : (s.modPower f).cmds = s.cmds := rfl
@[simp] theorem State.modPower_fetchSeq : (s.modPower f).fetchSeq = s.fetchSeq := rfl
@[simp] theorem State.modPower_lastAccept : (s.modPower f).lastAccept = s.lastAccept := rfl
@[simp] theorem State.modPower_moves : (s.modPower f).moves = s.moves := rfl
@[simp] theorem State.modPower_flash : (s.modPower f).flash = s.flash := rfl
@[simp] theorem State.modPower_alertStatus : (s.modPower f).alertStatus = s.alertStatus := rfl
@[simp] theorem State.modPower_alertMask : (s.modPower f).alertMask = s.alertMask := rfl
@[simp] theorem State.modPower_contracts : (s.modPower f).contracts = s.contracts := rfl
@[simp] theorem State.modPower_deferred : (s.modPower f).deferred = s.deferred := rfl
@[simp] theorem State.modPower_tick : (s.modPower f).tick = s.tick := rfl
@[simp] theorem State.modPower_drover : (s.modPower f).drover = s.drover := rfl
@[simp] theorem State.modPower_loft : (s.modPower f).loft = s.loft := rfl
@[simp] theorem State.modPower_dram : (s.modPower f).dram = s.dram := rfl
@[simp] theorem State.modPower_ports : (s.modPower f).ports = s.ports := rfl
@[simp] theorem State.modPower_ctxs : (s.modPower f).ctxs = s.ctxs := rfl
@[simp] theorem State.modPower_lanes : (s.modPower f).lanes = s.lanes := rfl
@[simp] theorem State.modPower_fsync : (s.modPower f).fsync = s.fsync := rfl
@[simp] theorem State.modPower_i2c : (s.modPower f).i2c = s.i2c := rfl
@[simp] theorem State.modPower_halters : (s.modPower f).halters = s.halters := rfl
@[simp] theorem State.modPower_fabric : (s.modPower f).fabric = s.fabric := rfl
@[simp] theorem State.modPower_links : (s.modPower f).links = s.links := rfl
@[simp] theorem State.modPower_aborts : (s.modPower f).aborts = s.aborts := rfl
@[simp] theorem State.modPower_reroute : (s.modPower f).reroute = s.reroute := rfl
@[simp] theorem State.modPower_egress : (s.modPower f).egress = s.egress := rfl
@[simp] theorem State.modPower_tally : (s.modPower f).tally = s.tally := rfl
@[simp] theorem State.modPower_debug : (s.modPower f).debug = s.debug := rfl
@[simp] theorem State.modPower_self : (s.modPower f).power = f s.power := rfl
end modPower

section modTally
variable (s : State) (f : Tally → Tally)
@[simp] theorem State.modTally_now : (s.modTally f).now = s.now := rfl
@[simp] theorem State.modTally_pending : (s.modTally f).pending = s.pending := rfl
@[simp] theorem State.modTally_out : (s.modTally f).out = s.out := rfl
@[simp] theorem State.modTally_draws : (s.modTally f).draws = s.draws := rfl
@[simp] theorem State.modTally_part : (s.modTally f).part = s.part := rfl
@[simp] theorem State.modTally_pins : (s.modTally f).pins = s.pins := rfl
@[simp] theorem State.modTally_boot : (s.modTally f).boot = s.boot := rfl
@[simp] theorem State.modTally_fw : (s.modTally f).fw = s.fw := rfl
@[simp] theorem State.modTally_linkUp : (s.modTally f).linkUp = s.linkUp := rfl
@[simp] theorem State.modTally_fns : (s.modTally f).fns = s.fns := rfl
@[simp] theorem State.modTally_arb : (s.modTally f).arb = s.arb := rfl
@[simp] theorem State.modTally_cmds : (s.modTally f).cmds = s.cmds := rfl
@[simp] theorem State.modTally_fetchSeq : (s.modTally f).fetchSeq = s.fetchSeq := rfl
@[simp] theorem State.modTally_lastAccept : (s.modTally f).lastAccept = s.lastAccept := rfl
@[simp] theorem State.modTally_moves : (s.modTally f).moves = s.moves := rfl
@[simp] theorem State.modTally_flash : (s.modTally f).flash = s.flash := rfl
@[simp] theorem State.modTally_alertStatus : (s.modTally f).alertStatus = s.alertStatus := rfl
@[simp] theorem State.modTally_alertMask : (s.modTally f).alertMask = s.alertMask := rfl
@[simp] theorem State.modTally_contracts : (s.modTally f).contracts = s.contracts := rfl
@[simp] theorem State.modTally_deferred : (s.modTally f).deferred = s.deferred := rfl
@[simp] theorem State.modTally_tick : (s.modTally f).tick = s.tick := rfl
@[simp] theorem State.modTally_drover : (s.modTally f).drover = s.drover := rfl
@[simp] theorem State.modTally_loft : (s.modTally f).loft = s.loft := rfl
@[simp] theorem State.modTally_dram : (s.modTally f).dram = s.dram := rfl
@[simp] theorem State.modTally_ports : (s.modTally f).ports = s.ports := rfl
@[simp] theorem State.modTally_ctxs : (s.modTally f).ctxs = s.ctxs := rfl
@[simp] theorem State.modTally_lanes : (s.modTally f).lanes = s.lanes := rfl
@[simp] theorem State.modTally_fsync : (s.modTally f).fsync = s.fsync := rfl
@[simp] theorem State.modTally_i2c : (s.modTally f).i2c = s.i2c := rfl
@[simp] theorem State.modTally_halters : (s.modTally f).halters = s.halters := rfl
@[simp] theorem State.modTally_fabric : (s.modTally f).fabric = s.fabric := rfl
@[simp] theorem State.modTally_links : (s.modTally f).links = s.links := rfl
@[simp] theorem State.modTally_aborts : (s.modTally f).aborts = s.aborts := rfl
@[simp] theorem State.modTally_reroute : (s.modTally f).reroute = s.reroute := rfl
@[simp] theorem State.modTally_egress : (s.modTally f).egress = s.egress := rfl
@[simp] theorem State.modTally_power : (s.modTally f).power = s.power := rfl
@[simp] theorem State.modTally_debug : (s.modTally f).debug = s.debug := rfl
@[simp] theorem State.modTally_self : (s.modTally f).tally = f s.tally := rfl
end modTally

section modGraph
variable (s : State) (g : Nat) (f : Graph → Graph)
@[simp] theorem State.modGraph_now : (s.modGraph g f).now = s.now := rfl
@[simp] theorem State.modGraph_pending : (s.modGraph g f).pending = s.pending := rfl
@[simp] theorem State.modGraph_out : (s.modGraph g f).out = s.out := rfl
@[simp] theorem State.modGraph_draws : (s.modGraph g f).draws = s.draws := rfl
@[simp] theorem State.modGraph_part : (s.modGraph g f).part = s.part := rfl
@[simp] theorem State.modGraph_pins : (s.modGraph g f).pins = s.pins := rfl
@[simp] theorem State.modGraph_boot : (s.modGraph g f).boot = s.boot := rfl
@[simp] theorem State.modGraph_fw : (s.modGraph g f).fw = s.fw := rfl
@[simp] theorem State.modGraph_linkUp : (s.modGraph g f).linkUp = s.linkUp := rfl
@[simp] theorem State.modGraph_fns : (s.modGraph g f).fns = s.fns := rfl
@[simp] theorem State.modGraph_arb : (s.modGraph g f).arb = s.arb := rfl
@[simp] theorem State.modGraph_cmds : (s.modGraph g f).cmds = s.cmds := rfl
@[simp] theorem State.modGraph_fetchSeq : (s.modGraph g f).fetchSeq = s.fetchSeq := rfl
@[simp] theorem State.modGraph_lastAccept : (s.modGraph g f).lastAccept = s.lastAccept := rfl
@[simp] theorem State.modGraph_moves : (s.modGraph g f).moves = s.moves := rfl
@[simp] theorem State.modGraph_flash : (s.modGraph g f).flash = s.flash := rfl
@[simp] theorem State.modGraph_alertStatus : (s.modGraph g f).alertStatus = s.alertStatus := rfl
@[simp] theorem State.modGraph_alertMask : (s.modGraph g f).alertMask = s.alertMask := rfl
@[simp] theorem State.modGraph_contracts : (s.modGraph g f).contracts = s.contracts := rfl
@[simp] theorem State.modGraph_deferred : (s.modGraph g f).deferred = s.deferred := rfl
@[simp] theorem State.modGraph_tick : (s.modGraph g f).tick = s.tick := rfl
@[simp] theorem State.modGraph_loft : (s.modGraph g f).loft = s.loft := rfl
@[simp] theorem State.modGraph_dram : (s.modGraph g f).dram = s.dram := rfl
@[simp] theorem State.modGraph_ports : (s.modGraph g f).ports = s.ports := rfl
@[simp] theorem State.modGraph_ctxs : (s.modGraph g f).ctxs = s.ctxs := rfl
@[simp] theorem State.modGraph_lanes : (s.modGraph g f).lanes = s.lanes := rfl
@[simp] theorem State.modGraph_fsync : (s.modGraph g f).fsync = s.fsync := rfl
@[simp] theorem State.modGraph_i2c : (s.modGraph g f).i2c = s.i2c := rfl
@[simp] theorem State.modGraph_halters : (s.modGraph g f).halters = s.halters := rfl
@[simp] theorem State.modGraph_fabric : (s.modGraph g f).fabric = s.fabric := rfl
@[simp] theorem State.modGraph_links : (s.modGraph g f).links = s.links := rfl
@[simp] theorem State.modGraph_aborts : (s.modGraph g f).aborts = s.aborts := rfl
@[simp] theorem State.modGraph_reroute : (s.modGraph g f).reroute = s.reroute := rfl
@[simp] theorem State.modGraph_egress : (s.modGraph g f).egress = s.egress := rfl
@[simp] theorem State.modGraph_power : (s.modGraph g f).power = s.power := rfl
@[simp] theorem State.modGraph_tally : (s.modGraph g f).tally = s.tally := rfl
@[simp] theorem State.modGraph_debug : (s.modGraph g f).debug = s.debug := rfl
end modGraph

section modInst
variable (s : State) (g : Nat) (f : Inst → Inst)
@[simp] theorem State.modInst_now : (s.modInst g f).now = s.now := rfl
@[simp] theorem State.modInst_pending : (s.modInst g f).pending = s.pending := rfl
@[simp] theorem State.modInst_out : (s.modInst g f).out = s.out := rfl
@[simp] theorem State.modInst_draws : (s.modInst g f).draws = s.draws := rfl
@[simp] theorem State.modInst_part : (s.modInst g f).part = s.part := rfl
@[simp] theorem State.modInst_pins : (s.modInst g f).pins = s.pins := rfl
@[simp] theorem State.modInst_boot : (s.modInst g f).boot = s.boot := rfl
@[simp] theorem State.modInst_fw : (s.modInst g f).fw = s.fw := rfl
@[simp] theorem State.modInst_linkUp : (s.modInst g f).linkUp = s.linkUp := rfl
@[simp] theorem State.modInst_fns : (s.modInst g f).fns = s.fns := rfl
@[simp] theorem State.modInst_arb : (s.modInst g f).arb = s.arb := rfl
@[simp] theorem State.modInst_cmds : (s.modInst g f).cmds = s.cmds := rfl
@[simp] theorem State.modInst_fetchSeq : (s.modInst g f).fetchSeq = s.fetchSeq := rfl
@[simp] theorem State.modInst_lastAccept : (s.modInst g f).lastAccept = s.lastAccept := rfl
@[simp] theorem State.modInst_moves : (s.modInst g f).moves = s.moves := rfl
@[simp] theorem State.modInst_flash : (s.modInst g f).flash = s.flash := rfl
@[simp] theorem State.modInst_alertStatus : (s.modInst g f).alertStatus = s.alertStatus := rfl
@[simp] theorem State.modInst_alertMask : (s.modInst g f).alertMask = s.alertMask := rfl
@[simp] theorem State.modInst_contracts : (s.modInst g f).contracts = s.contracts := rfl
@[simp] theorem State.modInst_deferred : (s.modInst g f).deferred = s.deferred := rfl
@[simp] theorem State.modInst_tick : (s.modInst g f).tick = s.tick := rfl
@[simp] theorem State.modInst_loft : (s.modInst g f).loft = s.loft := rfl
@[simp] theorem State.modInst_dram : (s.modInst g f).dram = s.dram := rfl
@[simp] theorem State.modInst_ports : (s.modInst g f).ports = s.ports := rfl
@[simp] theorem State.modInst_ctxs : (s.modInst g f).ctxs = s.ctxs := rfl
@[simp] theorem State.modInst_lanes : (s.modInst g f).lanes = s.lanes := rfl
@[simp] theorem State.modInst_fsync : (s.modInst g f).fsync = s.fsync := rfl
@[simp] theorem State.modInst_i2c : (s.modInst g f).i2c = s.i2c := rfl
@[simp] theorem State.modInst_halters : (s.modInst g f).halters = s.halters := rfl
@[simp] theorem State.modInst_fabric : (s.modInst g f).fabric = s.fabric := rfl
@[simp] theorem State.modInst_links : (s.modInst g f).links = s.links := rfl
@[simp] theorem State.modInst_aborts : (s.modInst g f).aborts = s.aborts := rfl
@[simp] theorem State.modInst_reroute : (s.modInst g f).reroute = s.reroute := rfl
@[simp] theorem State.modInst_egress : (s.modInst g f).egress = s.egress := rfl
@[simp] theorem State.modInst_power : (s.modInst g f).power = s.power := rfl
@[simp] theorem State.modInst_tally : (s.modInst g f).tally = s.tally := rfl
@[simp] theorem State.modInst_debug : (s.modInst g f).debug = s.debug := rfl
end modInst

section modTether
variable (s : State) (n : Nat) (f : Tether → Tether)
@[simp] theorem State.modTether_now : (s.modTether n f).now = s.now := rfl
@[simp] theorem State.modTether_pending : (s.modTether n f).pending = s.pending := rfl
@[simp] theorem State.modTether_out : (s.modTether n f).out = s.out := rfl
@[simp] theorem State.modTether_draws : (s.modTether n f).draws = s.draws := rfl
@[simp] theorem State.modTether_part : (s.modTether n f).part = s.part := rfl
@[simp] theorem State.modTether_pins : (s.modTether n f).pins = s.pins := rfl
@[simp] theorem State.modTether_boot : (s.modTether n f).boot = s.boot := rfl
@[simp] theorem State.modTether_fw : (s.modTether n f).fw = s.fw := rfl
@[simp] theorem State.modTether_linkUp : (s.modTether n f).linkUp = s.linkUp := rfl
@[simp] theorem State.modTether_fns : (s.modTether n f).fns = s.fns := rfl
@[simp] theorem State.modTether_arb : (s.modTether n f).arb = s.arb := rfl
@[simp] theorem State.modTether_cmds : (s.modTether n f).cmds = s.cmds := rfl
@[simp] theorem State.modTether_fetchSeq : (s.modTether n f).fetchSeq = s.fetchSeq := rfl
@[simp] theorem State.modTether_lastAccept : (s.modTether n f).lastAccept = s.lastAccept := rfl
@[simp] theorem State.modTether_moves : (s.modTether n f).moves = s.moves := rfl
@[simp] theorem State.modTether_flash : (s.modTether n f).flash = s.flash := rfl
@[simp] theorem State.modTether_alertStatus : (s.modTether n f).alertStatus = s.alertStatus := rfl
@[simp] theorem State.modTether_alertMask : (s.modTether n f).alertMask = s.alertMask := rfl
@[simp] theorem State.modTether_contracts : (s.modTether n f).contracts = s.contracts := rfl
@[simp] theorem State.modTether_deferred : (s.modTether n f).deferred = s.deferred := rfl
@[simp] theorem State.modTether_tick : (s.modTether n f).tick = s.tick := rfl
@[simp] theorem State.modTether_loft : (s.modTether n f).loft = s.loft := rfl
@[simp] theorem State.modTether_dram : (s.modTether n f).dram = s.dram := rfl
@[simp] theorem State.modTether_ports : (s.modTether n f).ports = s.ports := rfl
@[simp] theorem State.modTether_ctxs : (s.modTether n f).ctxs = s.ctxs := rfl
@[simp] theorem State.modTether_lanes : (s.modTether n f).lanes = s.lanes := rfl
@[simp] theorem State.modTether_fsync : (s.modTether n f).fsync = s.fsync := rfl
@[simp] theorem State.modTether_i2c : (s.modTether n f).i2c = s.i2c := rfl
@[simp] theorem State.modTether_halters : (s.modTether n f).halters = s.halters := rfl
@[simp] theorem State.modTether_fabric : (s.modTether n f).fabric = s.fabric := rfl
@[simp] theorem State.modTether_links : (s.modTether n f).links = s.links := rfl
@[simp] theorem State.modTether_aborts : (s.modTether n f).aborts = s.aborts := rfl
@[simp] theorem State.modTether_reroute : (s.modTether n f).reroute = s.reroute := rfl
@[simp] theorem State.modTether_egress : (s.modTether n f).egress = s.egress := rfl
@[simp] theorem State.modTether_power : (s.modTether n f).power = s.power := rfl
@[simp] theorem State.modTether_tally : (s.modTether n f).tally = s.tally := rfl
@[simp] theorem State.modTether_debug : (s.modTether n f).debug = s.debug := rfl
end modTether

section modRing
variable (s : State) (i r : Nat) (f : Ring → Ring)
@[simp] theorem State.modRing_now : (s.modRing i r f).now = s.now := rfl
@[simp] theorem State.modRing_pending : (s.modRing i r f).pending = s.pending := rfl
@[simp] theorem State.modRing_out : (s.modRing i r f).out = s.out := rfl
@[simp] theorem State.modRing_draws : (s.modRing i r f).draws = s.draws := rfl
@[simp] theorem State.modRing_part : (s.modRing i r f).part = s.part := rfl
@[simp] theorem State.modRing_pins : (s.modRing i r f).pins = s.pins := rfl
@[simp] theorem State.modRing_boot : (s.modRing i r f).boot = s.boot := rfl
@[simp] theorem State.modRing_fw : (s.modRing i r f).fw = s.fw := rfl
@[simp] theorem State.modRing_linkUp : (s.modRing i r f).linkUp = s.linkUp := rfl
@[simp] theorem State.modRing_arb : (s.modRing i r f).arb = s.arb := rfl
@[simp] theorem State.modRing_cmds : (s.modRing i r f).cmds = s.cmds := rfl
@[simp] theorem State.modRing_fetchSeq : (s.modRing i r f).fetchSeq = s.fetchSeq := rfl
@[simp] theorem State.modRing_lastAccept : (s.modRing i r f).lastAccept = s.lastAccept := rfl
@[simp] theorem State.modRing_moves : (s.modRing i r f).moves = s.moves := rfl
@[simp] theorem State.modRing_flash : (s.modRing i r f).flash = s.flash := rfl
@[simp] theorem State.modRing_alertStatus : (s.modRing i r f).alertStatus = s.alertStatus := rfl
@[simp] theorem State.modRing_alertMask : (s.modRing i r f).alertMask = s.alertMask := rfl
@[simp] theorem State.modRing_contracts : (s.modRing i r f).contracts = s.contracts := rfl
@[simp] theorem State.modRing_deferred : (s.modRing i r f).deferred = s.deferred := rfl
@[simp] theorem State.modRing_tick : (s.modRing i r f).tick = s.tick := rfl
@[simp] theorem State.modRing_drover : (s.modRing i r f).drover = s.drover := rfl
@[simp] theorem State.modRing_loft : (s.modRing i r f).loft = s.loft := rfl
@[simp] theorem State.modRing_dram : (s.modRing i r f).dram = s.dram := rfl
@[simp] theorem State.modRing_ports : (s.modRing i r f).ports = s.ports := rfl
@[simp] theorem State.modRing_ctxs : (s.modRing i r f).ctxs = s.ctxs := rfl
@[simp] theorem State.modRing_lanes : (s.modRing i r f).lanes = s.lanes := rfl
@[simp] theorem State.modRing_fsync : (s.modRing i r f).fsync = s.fsync := rfl
@[simp] theorem State.modRing_i2c : (s.modRing i r f).i2c = s.i2c := rfl
@[simp] theorem State.modRing_halters : (s.modRing i r f).halters = s.halters := rfl
@[simp] theorem State.modRing_fabric : (s.modRing i r f).fabric = s.fabric := rfl
@[simp] theorem State.modRing_links : (s.modRing i r f).links = s.links := rfl
@[simp] theorem State.modRing_aborts : (s.modRing i r f).aborts = s.aborts := rfl
@[simp] theorem State.modRing_reroute : (s.modRing i r f).reroute = s.reroute := rfl
@[simp] theorem State.modRing_egress : (s.modRing i r f).egress = s.egress := rfl
@[simp] theorem State.modRing_power : (s.modRing i r f).power = s.power := rfl
@[simp] theorem State.modRing_tally : (s.modRing i r f).tally = s.tally := rfl
@[simp] theorem State.modRing_debug : (s.modRing i r f).debug = s.debug := rfl
end modRing

section emit
variable (o : Output) (s : State)
@[simp] theorem emit_now : (emit o s).now = s.now := rfl
@[simp] theorem emit_pending : (emit o s).pending = s.pending := rfl
@[simp] theorem emit_draws : (emit o s).draws = s.draws := rfl
@[simp] theorem emit_part : (emit o s).part = s.part := rfl
@[simp] theorem emit_pins : (emit o s).pins = s.pins := rfl
@[simp] theorem emit_boot : (emit o s).boot = s.boot := rfl
@[simp] theorem emit_fw : (emit o s).fw = s.fw := rfl
@[simp] theorem emit_linkUp : (emit o s).linkUp = s.linkUp := rfl
@[simp] theorem emit_fns : (emit o s).fns = s.fns := rfl
@[simp] theorem emit_arb : (emit o s).arb = s.arb := rfl
@[simp] theorem emit_cmds : (emit o s).cmds = s.cmds := rfl
@[simp] theorem emit_fetchSeq : (emit o s).fetchSeq = s.fetchSeq := rfl
@[simp] theorem emit_lastAccept : (emit o s).lastAccept = s.lastAccept := rfl
@[simp] theorem emit_moves : (emit o s).moves = s.moves := rfl
@[simp] theorem emit_flash : (emit o s).flash = s.flash := rfl
@[simp] theorem emit_alertStatus : (emit o s).alertStatus = s.alertStatus := rfl
@[simp] theorem emit_alertMask : (emit o s).alertMask = s.alertMask := rfl
@[simp] theorem emit_contracts : (emit o s).contracts = s.contracts := rfl
@[simp] theorem emit_deferred : (emit o s).deferred = s.deferred := rfl
@[simp] theorem emit_tick : (emit o s).tick = s.tick := rfl
@[simp] theorem emit_drover : (emit o s).drover = s.drover := rfl
@[simp] theorem emit_loft : (emit o s).loft = s.loft := rfl
@[simp] theorem emit_dram : (emit o s).dram = s.dram := rfl
@[simp] theorem emit_ports : (emit o s).ports = s.ports := rfl
@[simp] theorem emit_ctxs : (emit o s).ctxs = s.ctxs := rfl
@[simp] theorem emit_lanes : (emit o s).lanes = s.lanes := rfl
@[simp] theorem emit_fsync : (emit o s).fsync = s.fsync := rfl
@[simp] theorem emit_i2c : (emit o s).i2c = s.i2c := rfl
@[simp] theorem emit_halters : (emit o s).halters = s.halters := rfl
@[simp] theorem emit_fabric : (emit o s).fabric = s.fabric := rfl
@[simp] theorem emit_links : (emit o s).links = s.links := rfl
@[simp] theorem emit_aborts : (emit o s).aborts = s.aborts := rfl
@[simp] theorem emit_reroute : (emit o s).reroute = s.reroute := rfl
@[simp] theorem emit_egress : (emit o s).egress = s.egress := rfl
@[simp] theorem emit_power : (emit o s).power = s.power := rfl
@[simp] theorem emit_tally : (emit o s).tally = s.tally := rfl
@[simp] theorem emit_debug : (emit o s).debug = s.debug := rfl
end emit

section drawn
variable (s : State)
@[simp] theorem drawn_now : (drawn s).now = s.now := rfl
@[simp] theorem drawn_pending : (drawn s).pending = s.pending := rfl
@[simp] theorem drawn_out : (drawn s).out = s.out := rfl
@[simp] theorem drawn_part : (drawn s).part = s.part := rfl
@[simp] theorem drawn_pins : (drawn s).pins = s.pins := rfl
@[simp] theorem drawn_boot : (drawn s).boot = s.boot := rfl
@[simp] theorem drawn_fw : (drawn s).fw = s.fw := rfl
@[simp] theorem drawn_linkUp : (drawn s).linkUp = s.linkUp := rfl
@[simp] theorem drawn_fns : (drawn s).fns = s.fns := rfl
@[simp] theorem drawn_arb : (drawn s).arb = s.arb := rfl
@[simp] theorem drawn_cmds : (drawn s).cmds = s.cmds := rfl
@[simp] theorem drawn_fetchSeq : (drawn s).fetchSeq = s.fetchSeq := rfl
@[simp] theorem drawn_lastAccept : (drawn s).lastAccept = s.lastAccept := rfl
@[simp] theorem drawn_moves : (drawn s).moves = s.moves := rfl
@[simp] theorem drawn_flash : (drawn s).flash = s.flash := rfl
@[simp] theorem drawn_alertStatus : (drawn s).alertStatus = s.alertStatus := rfl
@[simp] theorem drawn_alertMask : (drawn s).alertMask = s.alertMask := rfl
@[simp] theorem drawn_contracts : (drawn s).contracts = s.contracts := rfl
@[simp] theorem drawn_deferred : (drawn s).deferred = s.deferred := rfl
@[simp] theorem drawn_tick : (drawn s).tick = s.tick := rfl
@[simp] theorem drawn_drover : (drawn s).drover = s.drover := rfl
@[simp] theorem drawn_loft : (drawn s).loft = s.loft := rfl
@[simp] theorem drawn_dram : (drawn s).dram = s.dram := rfl
@[simp] theorem drawn_ports : (drawn s).ports = s.ports := rfl
@[simp] theorem drawn_ctxs : (drawn s).ctxs = s.ctxs := rfl
@[simp] theorem drawn_lanes : (drawn s).lanes = s.lanes := rfl
@[simp] theorem drawn_fsync : (drawn s).fsync = s.fsync := rfl
@[simp] theorem drawn_i2c : (drawn s).i2c = s.i2c := rfl
@[simp] theorem drawn_halters : (drawn s).halters = s.halters := rfl
@[simp] theorem drawn_fabric : (drawn s).fabric = s.fabric := rfl
@[simp] theorem drawn_links : (drawn s).links = s.links := rfl
@[simp] theorem drawn_aborts : (drawn s).aborts = s.aborts := rfl
@[simp] theorem drawn_reroute : (drawn s).reroute = s.reroute := rfl
@[simp] theorem drawn_egress : (drawn s).egress = s.egress := rfl
@[simp] theorem drawn_power : (drawn s).power = s.power := rfl
@[simp] theorem drawn_tally : (drawn s).tally = s.tally := rfl
@[simp] theorem drawn_debug : (drawn s).debug = s.debug := rfl
end drawn

section advance
variable (t : Instant) (s : State)
@[simp] theorem advance_pending : (advance t s).pending = s.pending := rfl
@[simp] theorem advance_out : (advance t s).out = s.out := rfl
@[simp] theorem advance_draws : (advance t s).draws = s.draws := rfl
@[simp] theorem advance_part : (advance t s).part = s.part := rfl
@[simp] theorem advance_pins : (advance t s).pins = s.pins := rfl
@[simp] theorem advance_boot : (advance t s).boot = s.boot := rfl
@[simp] theorem advance_fw : (advance t s).fw = s.fw := rfl
@[simp] theorem advance_linkUp : (advance t s).linkUp = s.linkUp := rfl
@[simp] theorem advance_fns : (advance t s).fns = s.fns := rfl
@[simp] theorem advance_arb : (advance t s).arb = s.arb := rfl
@[simp] theorem advance_cmds : (advance t s).cmds = s.cmds := rfl
@[simp] theorem advance_fetchSeq : (advance t s).fetchSeq = s.fetchSeq := rfl
@[simp] theorem advance_lastAccept : (advance t s).lastAccept = s.lastAccept := rfl
@[simp] theorem advance_moves : (advance t s).moves = s.moves := rfl
@[simp] theorem advance_flash : (advance t s).flash = s.flash := rfl
@[simp] theorem advance_alertStatus : (advance t s).alertStatus = s.alertStatus := rfl
@[simp] theorem advance_alertMask : (advance t s).alertMask = s.alertMask := rfl
@[simp] theorem advance_contracts : (advance t s).contracts = s.contracts := rfl
@[simp] theorem advance_deferred : (advance t s).deferred = s.deferred := rfl
@[simp] theorem advance_tick : (advance t s).tick = s.tick := rfl
@[simp] theorem advance_drover : (advance t s).drover = s.drover := rfl
@[simp] theorem advance_loft : (advance t s).loft = s.loft := rfl
@[simp] theorem advance_dram : (advance t s).dram = s.dram := rfl
@[simp] theorem advance_ports : (advance t s).ports = s.ports := rfl
@[simp] theorem advance_ctxs : (advance t s).ctxs = s.ctxs := rfl
@[simp] theorem advance_lanes : (advance t s).lanes = s.lanes := rfl
@[simp] theorem advance_fsync : (advance t s).fsync = s.fsync := rfl
@[simp] theorem advance_i2c : (advance t s).i2c = s.i2c := rfl
@[simp] theorem advance_halters : (advance t s).halters = s.halters := rfl
@[simp] theorem advance_fabric : (advance t s).fabric = s.fabric := rfl
@[simp] theorem advance_links : (advance t s).links = s.links := rfl
@[simp] theorem advance_aborts : (advance t s).aborts = s.aborts := rfl
@[simp] theorem advance_reroute : (advance t s).reroute = s.reroute := rfl
@[simp] theorem advance_egress : (advance t s).egress = s.egress := rfl
@[simp] theorem advance_power : (advance t s).power = s.power := rfl
@[simp] theorem advance_tally : (advance t s).tally = s.tally := rfl
@[simp] theorem advance_debug : (advance t s).debug = s.debug := rfl
end advance

@[simp] theorem emit_out (o : Output) (s : State) : (emit o s).out = s.out ++ [{ time := s.now, out := o }] := rfl
@[simp] theorem drawn_draws (s : State) : (drawn s).draws = s.draws + 1 := rfl
@[simp] theorem advance_now (t : Instant) (s : State) : (advance t s).now = max s.now t := rfl

end Sys2Proof.Machine
end

