-- ==== Sys2Proof/Laws/Ticking.lean ====
section
/-!
SUPPORT. What the operations of a window leave of the tick machine: everything but the counts of R69 and of TICK_FAULTs.
-/
namespace Sys2Proof.Machine

/-- The tick machine without the counts of the window, of the device and of its faults. -/
def Tick.frame (t : Tick) : Tick := { t with win := .zero, total := .zero, faults := 0 }

/-- The tick machine of a state is as given, but for the counts. -/
def Ticks (k : Tick) (s : State) : Prop := s.tick.frame = k.frame

variable {k : Tick}

/-- A state written out whose tick machine is that of another. -/
theorem Ticks.parts {s : State}
    {f_now : Instant} {f_pending : List Instr} {f_out : List Emit} {f_draws : Nat} {f_part : Part} {f_pins : Pins}
    {f_boot : Boot} {f_fw : Firmware} {f_linkUp : Bool} {f_fns : List Func} {f_arb : Arb} {f_cmds : Table Cmd}
    {f_fetchSeq : Nat} {f_lastAccept : Option Instant} {f_moves : Table Move} {f_flash : Option FlashJob}
    {f_alertStatus f_alertMask : BitVec 6} {f_contracts : List Contract} {f_deferred : List Effect} {f_drover : Drover}
    {f_loft : Loft} {f_dram : Dram} {f_ports : List CamPort} {f_ctxs : List Ctx} {f_lanes : List Lane}
    {f_fsync : List Fsync} {f_i2c : List I2c} {f_halters : List Halter} {f_fabric : Fabric} {f_links : List PLink}
    {f_aborts : List AbortId} {f_reroute : Option Reroute} {f_egress : Egress} {f_power : Power} {f_tally : Tally}
    {f_debug : Table (BitVec 32)} (h : Ticks k s) :
    Ticks k (State.mk f_now f_pending f_out f_draws f_part f_pins f_boot f_fw f_linkUp f_fns f_arb f_cmds f_fetchSeq
      f_lastAccept f_moves f_flash f_alertStatus f_alertMask f_contracts f_deferred s.tick f_drover f_loft f_dram f_ports
      f_ctxs f_lanes f_fsync f_i2c f_halters f_fabric f_links f_aborts f_reroute f_egress f_power f_tally f_debug) := h

theorem Ticks.ite {c : Prop} [Decidable c] {s t : State} (hs : Ticks k s) (ht : Ticks k t) : Ticks k (if c then s else t) := by
  split <;> assumption

theorem Ticks.foldl {α : Type} {f : State → α → State} (hf : ∀ s a, Ticks k s → Ticks k (f s a)) {l : List α} {s : State}
    (h : Ticks k s) : Ticks k (l.foldl f s) := by
  induction l generalizing s with
  | nil => exact h
  | cons a l ih => exact ih (hf s a h)

theorem countWin_ticks {f : WindowCounts → WindowCounts} {s : State} (h : Ticks k s) : Ticks k (countWin f s) := h

theorem State_modHalter_ticks {s : State} {x0 : Nat} {f : Halter → Halter} (h : Ticks k s) :
    Ticks k (State.modHalter s x0 f) := by
  unfold State.modHalter
  try dsimp only
  repeat' first
    | with_reducible assumption
    | intro _
    | (with_reducible refine Ticks.parts ?_; with_reducible assumption)

theorem State_modLoft_ticks {s : State} {f : Loft → Loft} (h : Ticks k s) :
    Ticks k (State.modLoft s f) := by
  unfold State.modLoft
  try dsimp only
  repeat' first
    | with_reducible assumption
    | intro _
    | (with_reducible refine Ticks.parts ?_; with_reducible assumption)

theorem State_modDram_ticks {s : State} {f : Dram → Dram} (h : Ticks k s) :
    Ticks k (State.modDram s f) := by
  unfold State.modDram
  try dsimp only
  repeat' first
    | with_reducible assumption
    | intro _
    | (with_reducible refine Ticks.parts ?_; with_reducible assumption)

theorem State_modDrover_ticks {s : State} {f : Drover → Drover} (h : Ticks k s) :
    Ticks k (State.modDrover s f) := by
  unfold State.modDrover
  try dsimp only
  repeat' first
    | with_reducible assumption
    | intro _
    | (with_reducible refine Ticks.parts ?_; with_reducible assumption)

theorem drawn_ticks {s : State} (h : Ticks k s) :
    Ticks k (drawn s) := by
  unfold drawn
  try dsimp only
  repeat' first
    | with_reducible assumption
    | intro _
    | (with_reducible refine Ticks.parts ?_; with_reducible assumption)

theorem State_modFn_ticks {s : State} {i : Nat} {f : Func → Func} (h : Ticks k s) :
    Ticks k (State.modFn s i f) := by
  unfold State.modFn
  try dsimp only
  repeat' first
    | with_reducible assumption
    | intro _
    | (with_reducible refine Ticks.parts ?_; with_reducible assumption)

theorem State_modRing_ticks {s : State} {f r : Nat} {g : Ring → Ring} (h : Ticks k s) :
    Ticks k (State.modRing s f r g) := by
  unfold State.modRing
  try dsimp only
  repeat' first
    | with_reducible assumption
    | intro _
    | with_reducible apply State_modFn_ticks
    | (with_reducible refine Ticks.parts ?_; with_reducible assumption)

theorem State_modPort_ticks {s : State} {i : Nat} {f : CamPort → CamPort} (h : Ticks k s) :
    Ticks k (State.modPort s i f) := by
  unfold State.modPort
  try dsimp only
  repeat' first
    | with_reducible assumption
    | intro _
    | (with_reducible refine Ticks.parts ?_; with_reducible assumption)

theorem State_modCtx_ticks {s : State} {i : Nat} {f : Ctx → Ctx} (h : Ticks k s) :
    Ticks k (State.modCtx s i f) := by
  unfold State.modCtx
  try dsimp only
  repeat' first
    | with_reducible assumption
    | intro _
    | (with_reducible refine Ticks.parts ?_; with_reducible assumption)

theorem State_modLane_ticks {s : State} {i : Nat} {f : Lane → Lane} (h : Ticks k s) :
    Ticks k (State.modLane s i f) := by
  unfold State.modLane
  try dsimp only
  repeat' first
    | with_reducible assumption
    | intro _
    | (with_reducible refine Ticks.parts ?_; with_reducible assumption)

theorem State_modFsync_ticks {s : State} {i : Nat} {f : Fsync → Fsync} (h : Ticks k s) :
    Ticks k (State.modFsync s i f) := by
  unfold State.modFsync
  try dsimp only
  repeat' first
    | with_reducible assumption
    | intro _
    | (with_reducible refine Ticks.parts ?_; with_reducible assumption)

theorem State_modI2c_ticks {s : State} {i : Nat} {f : I2c → I2c} (h : Ticks k s) :
    Ticks k (State.modI2c s i f) := by
  unfold State.modI2c
  try dsimp only
  repeat' first
    | with_reducible assumption
    | intro _
    | (with_reducible refine Ticks.parts ?_; with_reducible assumption)

theorem State_modLink_ticks {s : State} {p : Nat} {f : PLink → PLink} (h : Ticks k s) :
    Ticks k (State.modLink s p f) := by
  unfold State.modLink
  try dsimp only
  repeat' first
    | with_reducible assumption
    | intro _
    | (with_reducible refine Ticks.parts ?_; with_reducible assumption)

theorem State_modFabric_ticks {s : State} {f : Fabric → Fabric} (h : Ticks k s) :
    Ticks k (State.modFabric s f) := by
  unfold State.modFabric
  try dsimp only
  repeat' first
    | with_reducible assumption
    | intro _
    | (with_reducible refine Ticks.parts ?_; with_reducible assumption)

theorem State_modEgress_ticks {s : State} {f : Egress → Egress} (h : Ticks k s) :
    Ticks k (State.modEgress s f) := by
  unfold State.modEgress
  try dsimp only
  repeat' first
    | with_reducible assumption
    | intro _
    | (with_reducible refine Ticks.parts ?_; with_reducible assumption)

theorem State_modPower_ticks {s : State} {f : Power → Power} (h : Ticks k s) :
    Ticks k (State.modPower s f) := by
  unfold State.modPower
  try dsimp only
  repeat' first
    | with_reducible assumption
    | intro _
    | (with_reducible refine Ticks.parts ?_; with_reducible assumption)

theorem State_modGraph_ticks {s : State} {g : Nat} {f : Graph → Graph} (h : Ticks k s) :
    Ticks k (State.modGraph s g f) := by
  unfold State.modGraph
  try dsimp only
  repeat' first
    | with_reducible assumption
    | intro _
    | with_reducible apply State_modDrover_ticks
    | (with_reducible refine Ticks.parts ?_; with_reducible assumption)

theorem State_modInst_ticks {s : State} {g : Nat} {f : Inst → Inst} (h : Ticks k s) :
    Ticks k (State.modInst s g f) := by
  unfold State.modInst
  try dsimp only
  repeat' first
    | with_reducible assumption
    | intro _
    | with_reducible apply State_modDrover_ticks
    | (with_reducible refine Ticks.parts ?_; with_reducible assumption)

theorem emit_ticks {o : Output} {s : State} (h : Ticks k s) :
    Ticks k (emit o s) := by
  unfold emit
  try dsimp only
  repeat' first
    | with_reducible assumption
    | intro _
    | (with_reducible refine Ticks.parts ?_; with_reducible assumption)

theorem sendVector_ticks {f v : Nat} {s : State} (h : Ticks k s) :
    Ticks k (sendVector f v s) := by
  unfold sendVector
  try dsimp only
  repeat' first
    | with_reducible assumption
    | intro _
    | with_reducible apply State_modFn_ticks
    | with_reducible apply emit_ticks
    | with_reducible apply Ticks.ite
    | split
    | (with_reducible refine Ticks.parts ?_; with_reducible assumption)

theorem setCause_ticks {f : Nat} {mask : BitVec 6} {s : State} (h : Ticks k s) :
    Ticks k (setCause f mask s) := by
  unfold setCause
  try dsimp only
  repeat' first
    | with_reducible assumption
    | intro _
    | with_reducible apply State_modFn_ticks
    | split
    | (with_reducible refine Ticks.parts ?_; with_reducible assumption)

theorem setAlerts_ticks {status mask : BitVec 6} {s : State} (h : Ticks k s) :
    Ticks k (setAlerts status mask s) := by
  unfold setAlerts
  try dsimp only
  repeat' first
    | with_reducible assumption
    | intro _
    | with_reducible apply emit_ticks
    | with_reducible apply Ticks.ite
    | split
    | (with_reducible refine Ticks.parts ?_; with_reducible assumption)

theorem raiseAlert_ticks {bit : BitVec 6} {s : State} (h : Ticks k s) :
    Ticks k (raiseAlert bit s) := by
  unfold raiseAlert
  try dsimp only
  repeat' first
    | with_reducible assumption
    | intro _
    | with_reducible apply setAlerts_ticks
    | split

theorem writeCq_ticks {f r : Nat} {entry : Bool → BitVec 256} {s : State} (h : Ticks k s) :
    Ticks k (writeCq f r entry s) := by
  unfold writeCq
  try dsimp only
  repeat' first
    | with_reducible assumption
    | intro _
    | with_reducible apply State_modRing_ticks
    | with_reducible apply emit_ticks
    | with_reducible apply Ticks.ite
    | split
    | (with_reducible refine Ticks.parts ?_; with_reducible assumption)

theorem writeEvent_ticks {f : Nat} {e : Event} {s : State} (h : Ticks k s) :
    Ticks k (writeEvent f e s) := by
  unfold writeEvent
  try dsimp only
  repeat' first
    | with_reducible assumption
    | intro _
    | with_reducible apply sendVector_ticks
    | with_reducible apply setCause_ticks
    | with_reducible apply writeCq_ticks

theorem flushEvents_ticks {f : Nat} : ∀ {n : Nat} {s : State}, Ticks k s → Ticks k (flushEvents f n s)
  | 0, _, h => h
  | n + 1, s, h => by
    unfold flushEvents
    repeat' first
      | assumption
      | with_reducible apply flushEvents_ticks
      | with_reducible apply writeEvent_ticks
      | with_reducible apply State_modFn_ticks
      | with_reducible apply Ticks.ite
      | split

theorem postOn_ticks {f : Nat} {e : Event} {s : State} (h : Ticks k s) :
    Ticks k (postOn f e s) := by
  unfold postOn
  try dsimp only
  repeat' first
    | with_reducible assumption
    | intro _
    | with_reducible apply State_modFn_ticks
    | with_reducible apply flushEvents_ticks
    | with_reducible apply Ticks.ite
    | split
    | (with_reducible refine Ticks.parts ?_; with_reducible assumption)

theorem postTenant_ticks {tenant cls cause : Nat} {detail : BitVec 64} {s : State} (h : Ticks k s) :
    Ticks k (postTenant tenant cls cause detail s) := by
  unfold postTenant
  try dsimp only
  repeat' first
    | with_reducible assumption
    | intro _
    | with_reducible apply postOn_ticks

theorem postAll_ticks {cls cause : Nat} {detail : BitVec 64} {s : State} (h : Ticks k s) :
    Ticks k (postAll cls cause detail s) := by
  unfold postAll
  try dsimp only
  repeat' first
    | with_reducible assumption
    | intro _
    | with_reducible apply postOn_ticks
    | with_reducible apply Ticks.ite
    | with_reducible apply Ticks.foldl
    | split

theorem postTo_ticks {tenant : Option Nat} {cls cause : Nat} {detail : BitVec 64} {s : State} (h : Ticks k s) :
    Ticks k (postTo tenant cls cause detail s) := by
  unfold postTo
  try dsimp only
  repeat' first
    | with_reducible assumption
    | intro _
    | with_reducible apply postTenant_ticks
    | with_reducible apply postAll_ticks
    | split
    | (with_reducible refine Ticks.parts ?_; with_reducible assumption)

theorem State_modTally_ticks {s : State} {f : Tally → Tally} (h : Ticks k s) :
    Ticks k (State.modTally s f) := by
  unfold State.modTally
  try dsimp only
  repeat' first
    | with_reducible assumption
    | intro _
    | (with_reducible refine Ticks.parts ?_; with_reducible assumption)

theorem tracePort_ticks {s : State} (h : Ticks k s) :
    Ticks k (tracePort s) := by
  unfold tracePort
  try dsimp only
  repeat' first
    | with_reducible assumption
    | intro _
    | with_reducible apply emit_ticks
    | with_reducible apply State_modTally_ticks
    | with_reducible apply Ticks.ite
    | split
    | (with_reducible refine Ticks.parts ?_; with_reducible assumption)

theorem tallyBytes_ticks {d : List Byte} {s : State} (h : Ticks k s) :
    Ticks k (tallyBytes d s) := by
  unfold tallyBytes
  try dsimp only
  repeat' first
    | with_reducible assumption
    | intro _
    | with_reducible apply State_modTally_ticks
    | with_reducible apply Ticks.ite
    | split
    | (with_reducible refine Ticks.parts ?_; with_reducible assumption)

theorem tallySync_ticks {s : State} (h : Ticks k s) :
    Ticks k (tallySync s) := by
  unfold tallySync
  try dsimp only
  repeat' first
    | with_reducible assumption
    | intro _
    | with_reducible apply State_modTally_ticks
    | with_reducible apply tallyBytes_ticks
    | with_reducible apply Ticks.ite
    | split
    | (with_reducible refine Ticks.parts ?_; with_reducible assumption)

theorem tallyPacket_ticks {mk : Tally → Nat → List Byte} {s : State} (h : Ticks k s) :
    Ticks k (tallyPacket mk s) := by
  unfold tallyPacket
  try dsimp only
  repeat' first
    | with_reducible assumption
    | intro _
    | with_reducible apply State_modTally_ticks
    | with_reducible apply tracePort_ticks
    | with_reducible apply tallyBytes_ticks
    | with_reducible apply tallySync_ticks
    | with_reducible apply Ticks.ite
    | split
    | (with_reducible refine Ticks.parts ?_; with_reducible assumption)

theorem tallyDrover_ticks {code tenant slot node arg : Nat} {s : State} (h : Ticks k s) :
    Ticks k (tallyDrover code tenant slot node arg s) := by
  unfold tallyDrover
  try dsimp only
  repeat' first
    | with_reducible assumption
    | intro _
    | with_reducible apply tallyPacket_ticks
    | with_reducible apply Ticks.ite
    | split
    | (with_reducible refine Ticks.parts ?_; with_reducible assumption)

theorem tallyAccess_ticks {src filter : Nat} {write : Bool} {addr rows : Nat} {flagged : Bool} {values : Option (List Byte)} {s : State} (h : Ticks k s) :
    Ticks k (tallyAccess src filter write addr rows flagged values s) := by
  unfold tallyAccess
  try dsimp only
  repeat' first
    | with_reducible assumption
    | intro _
    | with_reducible apply State_modTally_ticks
    | with_reducible apply tallyPacket_ticks
    | with_reducible apply Ticks.ite
    | split
    | (with_reducible refine Ticks.parts ?_; with_reducible assumption)

theorem putRow_ticks {row : Nat} {d : List Byte} {s : State} (h : Ticks k s) :
    Ticks k (putRow row d s) := by
  unfold putRow
  try dsimp only
  repeat' first
    | with_reducible assumption
    | intro _
    | with_reducible apply State_modLoft_ticks
    | (with_reducible refine Ticks.parts ?_; with_reducible assumption)

theorem undefineRows_ticks {first count : Nat} {s : State} (h : Ticks k s) :
    Ticks k (undefineRows first count s) := by
  unfold undefineRows
  try dsimp only
  repeat' first
    | with_reducible assumption
    | intro _
    | with_reducible apply State_modLoft_ticks
    | with_reducible apply drawn_ticks
    | (with_reducible refine Ticks.parts ?_; with_reducible assumption)

theorem postLoft_ticks {row : Nat} {cause : Nat} {d : BitVec 64} {s : State} (h : Ticks k s) :
    Ticks k (postLoft row cause d s) := by
  unfold postLoft
  try dsimp only
  repeat' first
    | with_reducible assumption
    | intro _
    | with_reducible apply postTo_ticks

theorem detectAction_suspectRow_ticks {row : Nat} {s : State} (h : Ticks k s) :
    Ticks k (detectAction.suspectRow row s) := by
  unfold detectAction.suspectRow
  repeat' first
    | with_reducible assumption
    | with_reducible apply State_modLoft_ticks
    | with_reducible apply Ticks.ite

theorem detectAction_ticks {row : Nat} {s : State} (h : Ticks k s) :
    Ticks k (detectAction row s) := by
  unfold detectAction
  try dsimp only
  repeat' first
    | with_reducible assumption
    | intro _
    | with_reducible apply State_modLoft_ticks
    | with_reducible apply detectAction_suspectRow_ticks
    | with_reducible apply Ticks.ite
    | split
    | (with_reducible refine Ticks.parts ?_; with_reducible assumption)

theorem detect_ticks {row : Nat} {by_ : DetectBy} {s : State} (h : Ticks k s) :
    Ticks k (detect row by_ s) := by
  unfold detect
  try dsimp only
  repeat' first
    | with_reducible assumption
    | intro _
    | with_reducible apply State_modLoft_ticks
    | with_reducible apply postLoft_ticks
    | with_reducible apply detectAction_ticks
    | split
    | (with_reducible refine Ticks.parts ?_; with_reducible assumption)

theorem spoilGateRows_ticks {key : Nat} {s : State} (h : Ticks k s) :
    Ticks k (spoilGateRows key s) := by
  unfold spoilGateRows
  try dsimp only
  repeat' first
    | with_reducible assumption
    | intro _
    | with_reducible apply State_modLoft_ticks
    | with_reducible apply undefineRows_ticks
    | with_reducible apply Ticks.foldl
    | (with_reducible refine Ticks.parts ?_; with_reducible assumption)

theorem mapRow_ticks {row spare : Nat} {s : State} (h : Ticks k s) :
    Ticks k (mapRow row spare s) := by
  unfold mapRow
  try dsimp only
  repeat' first
    | with_reducible assumption
    | intro _
    | with_reducible apply State_modLoft_ticks
    | (with_reducible refine Ticks.parts ?_; with_reducible assumption)

theorem badRow_ticks {row : Nat} {s : State} (h : Ticks k s) :
    Ticks k (badRow row s) := by
  unfold badRow
  try dsimp only
  repeat' first
    | with_reducible assumption
    | intro _
    | with_reducible apply State_modLoft_ticks
    | with_reducible apply raiseAlert_ticks
    | with_reducible apply postAll_ticks
    | (with_reducible refine Ticks.parts ?_; with_reducible assumption)

theorem refuseAccess_ticks {tenant reason addr : Nat} {s : State} (h : Ticks k s) :
    Ticks k (refuseAccess tenant reason addr s) := by
  unfold refuseAccess
  try dsimp only
  repeat' first
    | with_reducible assumption
    | intro _
    | with_reducible apply State_modLoft_ticks
    | with_reducible apply postTenant_ticks
    | with_reducible apply postLoft_ticks
    | with_reducible apply Ticks.ite
    | split
    | (with_reducible refine Ticks.parts ?_; with_reducible assumption)

theorem passStalls_ticks {cls : StallClass} {owner : Nat} {rs : List (Nat × Nat)} {s : State} (h : Ticks k s) :
    Ticks k (passStalls cls owner rs s).1 := by
  unfold passStalls
  try dsimp only
  repeat' first
    | with_reducible assumption
    | intro _
    | with_reducible apply State_modLoft_ticks
    | with_reducible apply Ticks.ite
    | split
    | (with_reducible refine Ticks.parts ?_; with_reducible assumption)

theorem passAccess_ticks {cls : StallClass} {row : Nat} {s : State} (h : Ticks k s) :
    Ticks k (passAccess cls row s) := by
  unfold passAccess
  try dsimp only
  repeat' first
    | with_reducible assumption
    | intro _
    | with_reducible apply State_modLoft_ticks
    | with_reducible apply passStalls_ticks
    | (with_reducible refine Ticks.parts ?_; with_reducible assumption)

theorem dropRequestAccesses_ticks {s : State} (h : Ticks k s) :
    Ticks k (dropRequestAccesses s) := by
  unfold dropRequestAccesses
  try dsimp only
  repeat' first
    | with_reducible assumption
    | intro _
    | with_reducible apply State_modLoft_ticks
    | split
    | (with_reducible refine Ticks.parts ?_; with_reducible assumption)

theorem undefineDram_ticks {x n : Nat} {s : State} (h : Ticks k s) :
    Ticks k (undefineDram x n s) := by
  unfold undefineDram
  try dsimp only
  repeat' first
    | with_reducible assumption
    | intro _
    | with_reducible apply State_modDram_ticks
    | with_reducible apply drawn_ticks
    | (with_reducible refine Ticks.parts ?_; with_reducible assumption)

theorem postHalter_ticks {x0 cause : Nat} {fields : List (Nat × Nat)} {s : State} (h : Ticks k s) :
    Ticks k (postHalter x0 cause fields s) := by
  unfold postHalter
  try dsimp only
  repeat' first
    | with_reducible assumption
    | intro _
    | with_reducible apply postTo_ticks

theorem drivePins_ticks {x0 : Nat} {a b slow : Bool} {s : State} (h : Ticks k s) :
    Ticks k (drivePins x0 a b slow s) := by
  unfold drivePins
  try dsimp only
  repeat' first
    | with_reducible assumption
    | intro _
    | with_reducible apply emit_ticks
    | with_reducible apply State_modHalter_ticks
    | with_reducible apply Ticks.ite
    | split
    | (with_reducible refine Ticks.parts ?_; with_reducible assumption)

theorem setHalterState_ticks {x0 : Nat} {st : HalterState} {s : State} (h : Ticks k s) :
    Ticks k (setHalterState x0 st s) := by
  unfold setHalterState
  try dsimp only
  repeat' first
    | with_reducible assumption
    | intro _
    | with_reducible apply drivePins_ticks
    | with_reducible apply State_modHalter_ticks
    | with_reducible apply Ticks.ite
    | split
    | (with_reducible refine Ticks.parts ?_; with_reducible assumption)

theorem enterStop_ticks {x0 : Nat} {reason : StopReason} {volume : Option Nat} {s : State} (h : Ticks k s) :
    Ticks k (enterStop x0 reason volume s) := by
  unfold enterStop
  try dsimp only
  repeat' first
    | with_reducible assumption
    | intro _
    | with_reducible apply State_modHalter_ticks
    | with_reducible apply postHalter_ticks
    | with_reducible apply setHalterState_ticks
    | with_reducible apply Ticks.ite
    | split
    | (with_reducible refine Ticks.parts ?_; with_reducible assumption)

theorem disableHalter_ticks {x0 : Nat} {leaseLost : Bool} {s : State} (h : Ticks k s) :
    Ticks k (disableHalter x0 leaseLost s) := by
  unfold disableHalter
  try dsimp only
  repeat' first
    | with_reducible assumption
    | intro _
    | with_reducible apply State_modHalter_ticks
    | with_reducible apply postHalter_ticks
    | with_reducible apply setHalterState_ticks
    | with_reducible apply Ticks.ite
    | split
    | (with_reducible refine Ticks.parts ?_; with_reducible assumption)

theorem halterCut_ticks {graph node : Nat} {s : State} (h : Ticks k s) :
    Ticks k (halterCut graph node s) := by
  unfold halterCut
  try dsimp only
  repeat' first
    | with_reducible assumption
    | intro _
    | with_reducible apply State_modHalter_ticks
    | with_reducible apply enterStop_ticks
    | with_reducible apply Ticks.ite
    | with_reducible apply Ticks.foldl
    | split
    | (with_reducible refine Ticks.parts ?_; with_reducible assumption)

theorem halterOpening_ticks {x0 : Nat} {upset : Bool} {s : State} (h : Ticks k s) :
    Ticks k (halterOpening x0 upset s) := by
  unfold halterOpening
  try dsimp only
  repeat' first
    | with_reducible assumption
    | intro _
    | with_reducible apply State_modHalter_ticks
    | with_reducible apply enterStop_ticks
    | with_reducible apply disableHalter_ticks
    | with_reducible apply Ticks.ite
    | split
    | (with_reducible refine Ticks.parts ?_; with_reducible assumption)

theorem sendCtl_ticks {port : Nat} {nak flush : Bool} {s : State} (h : Ticks k s) :
    Ticks k (sendCtl port nak flush s) := by
  unfold sendCtl
  try dsimp only
  repeat' first
    | with_reducible assumption
    | intro _
    | with_reducible apply State_modLink_ticks
    | with_reducible apply emit_ticks
    | (with_reducible refine Ticks.parts ?_; with_reducible assumption)

theorem sendTicks_ticks {s : State} (h : Ticks k s) :
    Ticks k (sendTicks s) := by
  unfold sendTicks
  try dsimp only
  repeat' first
    | with_reducible assumption
    | intro _
    | with_reducible apply emit_ticks
    | with_reducible apply Ticks.ite
    | with_reducible apply Ticks.foldl
    | split

theorem State_modResultRing_ticks {s : State} {tenant m : Nat} {f : ResultRing → ResultRing} (h : Ticks k s) :
    Ticks k (State.modResultRing s tenant m f) := by
  unfold State.modResultRing
  try dsimp only
  repeat' first
    | with_reducible assumption
    | intro _
    | with_reducible apply State_modEgress_ticks
    | (with_reducible refine Ticks.parts ?_; with_reducible assumption)

theorem queueResult_ticks {tenant m : Nat} {r : Result} {s : State} (h : Ticks k s) :
    Ticks k (queueResult tenant m r s) := by
  unfold queueResult
  try dsimp only
  repeat' first
    | with_reducible assumption
    | intro _
    | with_reducible apply State_modResultRing_ticks
    | with_reducible apply Ticks.ite
    | split
    | (with_reducible refine Ticks.parts ?_; with_reducible assumption)

theorem queueDescriptor_ticks {tenant m : Nat} {s : State} (h : Ticks k s) :
    Ticks k (queueDescriptor tenant m s) := by
  unfold queueDescriptor
  try dsimp only
  repeat' first
    | with_reducible assumption
    | intro _
    | with_reducible apply State_modEgress_ticks
    | with_reducible apply State_modResultRing_ticks
    | with_reducible apply Ticks.ite
    | split
    | (with_reducible refine Ticks.parts ?_; with_reducible assumption)

theorem State_modRun_ticks {s : State} {g n : Nat} {f : NodeRun → NodeRun} (h : Ticks k s) :
    Ticks k (State.modRun s g n f) := by
  unfold State.modRun
  try dsimp only
  repeat' first
    | with_reducible assumption
    | intro _
    | with_reducible apply State_modInst_ticks
    | (with_reducible refine Ticks.parts ?_; with_reducible assumption)

theorem postGraph_ticks {g cause : Nat} {mode : ArmMode} {node value : Nat} {s : State} (h : Ticks k s) :
    Ticks k (postGraph g cause mode node value s) := by
  unfold postGraph
  try dsimp only
  repeat' first
    | with_reducible assumption
    | intro _
    | with_reducible apply postTenant_ticks

theorem traceNode_ticks {code g node arg : Nat} {s : State} (h : Ticks k s) :
    Ticks k (traceNode code g node arg s) := by
  unfold traceNode
  try dsimp only
  repeat' first
    | with_reducible assumption
    | intro _
    | with_reducible apply tallyDrover_ticks

theorem State_modFaults_ticks {s : State} {n : Nat} {f : FaultCounts → FaultCounts} (h : Ticks k s) :
    Ticks k (State.modFaults s n f) := by
  unfold State.modFaults
  try dsimp only
  repeat' first
    | with_reducible assumption
    | intro _
    | with_reducible apply State_modDrover_ticks
    | (with_reducible refine Ticks.parts ?_; with_reducible assumption)

theorem skipRest_ticks {g : Nat} {s : State} (h : Ticks k s) :
    Ticks k (skipRest g s) := by
  unfold skipRest
  try dsimp only
  repeat' first
    | with_reducible assumption
    | intro _
    | with_reducible apply countWin_ticks
    | with_reducible apply State_modInst_ticks
    | with_reducible apply traceNode_ticks
    | with_reducible apply Ticks.ite
    | split
    | (with_reducible refine Ticks.parts ?_; with_reducible assumption)

theorem undefineRange_ticks {s : State} {r : Nat × Nat} (h : Ticks k s) :
    Ticks k (undefineRange s r) := by
  unfold undefineRange
  try dsimp only
  repeat' first
    | with_reducible assumption
    | intro _
    | with_reducible apply undefineRows_ticks
    | with_reducible apply undefineDram_ticks
    | with_reducible apply Ticks.ite
    | split

theorem undefineOutputs_ticks {g i : Nat} {s : State} (h : Ticks k s) :
    Ticks k (undefineOutputs g i s) := by
  unfold undefineOutputs
  try dsimp only
  repeat' first
    | with_reducible assumption
    | intro _
    | with_reducible apply undefineRange_ticks
    | with_reducible apply Ticks.foldl
    | split
    | (with_reducible refine Ticks.parts ?_; with_reducible assumption)

theorem dropRequests_ticks {g i : Nat} {s : State} (h : Ticks k s) :
    Ticks k (dropRequests g i s) := by
  unfold dropRequests
  try dsimp only
  repeat' first
    | with_reducible assumption
    | intro _
    | with_reducible apply State_modFabric_ticks
    | with_reducible apply tallyAccess_ticks
    | with_reducible apply Ticks.foldl
    | split
    | (with_reducible refine Ticks.parts ?_; with_reducible assumption)

theorem recordFault_ticks {g i : Nat} {marks : List Mark} {out : FaultOutcome} {replays : Nat} {s : State} (h : Ticks k s) :
    Ticks k (recordFault g i marks out replays s) := by
  unfold recordFault
  try dsimp only
  repeat' first
    | with_reducible assumption
    | intro _
    | with_reducible apply traceNode_ticks
    | with_reducible apply State_modFaults_ticks
    | with_reducible apply Ticks.foldl
    | split
    | (with_reducible refine Ticks.parts ?_; with_reducible assumption)

theorem cutNode_ticks {g i : Nat} {ph : NodePhase} {s : State} (h : Ticks k s) :
    Ticks k (cutNode g i ph s) := by
  unfold cutNode
  try dsimp only
  repeat' first
    | with_reducible assumption
    | intro _
    | with_reducible apply halterCut_ticks
    | with_reducible apply State_modRun_ticks
    | with_reducible apply undefineOutputs_ticks
    | with_reducible apply dropRequests_ticks
    | (with_reducible refine Ticks.parts ?_; with_reducible assumption)

theorem stopOne_ticks {g i why : Nat} {s : State} (h : Ticks k s) :
    Ticks k (stopOne g i why s) := by
  unfold stopOne
  try dsimp only
  repeat' first
    | with_reducible assumption
    | intro _
    | with_reducible apply countWin_ticks
    | with_reducible apply State_modInst_ticks
    | with_reducible apply traceNode_ticks
    | with_reducible apply recordFault_ticks
    | with_reducible apply cutNode_ticks
    | split
    | (with_reducible refine Ticks.parts ?_; with_reducible assumption)

theorem stopNode_ticks {g i why : Nat} {s : State} (h : Ticks k s) :
    Ticks k (stopNode g i why s) := by
  unfold stopNode
  try dsimp only
  repeat' first
    | with_reducible assumption
    | intro _
    | with_reducible apply stopOne_ticks
    | with_reducible apply Ticks.ite
    | split

theorem stopAll_ticks {g why : Nat} {s : State} (h : Ticks k s) :
    Ticks k (stopAll g why s) := by
  unfold stopAll
  try dsimp only
  repeat' first
    | with_reducible assumption
    | intro _
    | with_reducible apply stopNode_ticks
    | with_reducible apply Ticks.foldl
    | split
    | (with_reducible refine Ticks.parts ?_; with_reducible assumption)

theorem instEnd_ticks {g : Nat} {s : State} (h : Ticks k s) :
    Ticks k (instEnd g s) := by
  unfold instEnd
  try dsimp only
  repeat' first
    | with_reducible assumption
    | intro _
    | with_reducible apply countWin_ticks
    | with_reducible apply State_modDrover_ticks
    | with_reducible apply State_modGraph_ticks
    | with_reducible apply queueResult_ticks
    | with_reducible apply postGraph_ticks
    | with_reducible apply traceNode_ticks
    | with_reducible apply State_modFaults_ticks
    | with_reducible apply Ticks.ite
    | with_reducible apply Ticks.foldl
    | split
    | (with_reducible refine Ticks.parts ?_; with_reducible assumption)

theorem sweepInsts_ticks {s : State} (h : Ticks k s) :
    Ticks k (sweepInsts s) := by
  unfold sweepInsts
  try dsimp only
  repeat' first
    | with_reducible assumption
    | intro _
    | with_reducible apply instEnd_ticks
    | with_reducible apply Ticks.foldl

theorem activate_ticks {g : Nat} {spec : ArmSpec} {s : State} (h : Ticks k s) :
    Ticks k (activate g spec s) := by
  unfold activate
  try dsimp only
  repeat' first
    | with_reducible assumption
    | intro _
    | with_reducible apply State_modDrover_ticks
    | with_reducible apply traceNode_ticks
    | with_reducible apply skipRest_ticks
    | with_reducible apply instEnd_ticks
    | with_reducible apply Ticks.ite
    | split
    | (with_reducible refine Ticks.parts ?_; with_reducible assumption)

theorem spoilGates_ticks {g : Nat} {s : State} (h : Ticks k s) :
    Ticks k (spoilGates g s) := by
  unfold spoilGates
  try dsimp only
  repeat' first
    | with_reducible assumption
    | intro _
    | with_reducible apply spoilGateRows_ticks
    | with_reducible apply Ticks.ite
    | split
    | (with_reducible refine Ticks.parts ?_; with_reducible assumption)

theorem eachInst_ticks {f : Nat → State → State} {s : State} (k_f : ∀ y0 s_, Ticks k s_ → Ticks k (f y0 s_)) (h : Ticks k s) :
    Ticks k (eachInst f s) := by
  unfold eachInst
  try dsimp only
  repeat' first
    | with_reducible assumption
    | intro _
    | with_reducible apply k_f
    | with_reducible apply Ticks.foldl

theorem guillotineAll_ticks {s : State} (h : Ticks k s) :
    Ticks k (guillotineAll s) := by
  unfold guillotineAll
  try dsimp only
  repeat' first
    | with_reducible assumption
    | intro _
    | with_reducible apply skipRest_ticks
    | with_reducible apply stopAll_ticks
    | with_reducible apply instEnd_ticks
    | with_reducible apply spoilGates_ticks
    | with_reducible apply eachInst_ticks

theorem resetTethers_ticks {s : State} (h : Ticks k s) :
    Ticks k (resetTethers s) := by
  unfold resetTethers
  try dsimp only
  repeat' first
    | with_reducible assumption
    | intro _
    | with_reducible apply State_modDrover_ticks
    | (with_reducible refine Ticks.parts ?_; with_reducible assumption)

theorem portError_ticks {p : Nat} {f : PortCounts → PortCounts} {s : State} (h : Ticks k s) :
    Ticks k (portError p f s) := by
  unfold portError
  try dsimp only
  repeat' first
    | with_reducible assumption
    | intro _
    | with_reducible apply State_modPort_ticks
    | (with_reducible refine Ticks.parts ?_; with_reducible assumption)

theorem modFrame_ticks {k_ : Nat} {g : Frame → Frame} {s : State} (h : Ticks k s) :
    Ticks k (modFrame k_ g s) := by
  unfold modFrame
  try dsimp only
  repeat' first
    | with_reducible assumption
    | intro _
    | with_reducible apply State_modCtx_ticks
    | (with_reducible refine Ticks.parts ?_; with_reducible assumption)

theorem refuseLane_ticks {k_ : Nat} {s : State} (h : Ticks k s) :
    Ticks k (refuseLane k_ s) := by
  unfold refuseLane
  try dsimp only
  repeat' first
    | with_reducible assumption
    | intro _
    | with_reducible apply State_modLane_ticks
    | with_reducible apply modFrame_ticks
    | (with_reducible refine Ticks.parts ?_; with_reducible assumption)

theorem laneRow_ticks {k_ row : Nat} {d : List Byte} {s : State} (h : Ticks k s) :
    Ticks k (laneRow k_ row d s) := by
  unfold laneRow
  try dsimp only
  repeat' first
    | with_reducible assumption
    | intro _
    | with_reducible apply putRow_ticks
    | with_reducible apply refuseAccess_ticks
    | with_reducible apply passAccess_ticks
    | with_reducible apply modFrame_ticks
    | with_reducible apply refuseLane_ticks
    | split
    | (with_reducible refine Ticks.parts ?_; with_reducible assumption)

theorem writeRegion_ticks {c first stride len total : Nat} {line : Nat → LineOut} {n : Nat} :
    ∀ {r : Nat} {s : State}, Ticks k s → Ticks k (writeRegion c first stride len line total n r s).1 := by
  induction n with
  | zero => intro r s h; exact h
  | succ n ih =>
    intro r s h
    rw [writeRegion_succ]
    split
    · exact h
    · generalize regionRow stride len line r = x
      cases x with
      | pending => exact h
      | never => exact ih h
      | bytes d => exact ih (laneRow_ticks h)

theorem writeRows_ticks {k_ : Nat} {s : State} (h : Ticks k s) :
    Ticks k (writeRows k_ s) := by
  unfold writeRows
  try dsimp only
  repeat' first
    | with_reducible assumption
    | intro _
    | with_reducible apply modFrame_ticks
    | with_reducible apply writeRegion_ticks
    | with_reducible apply Ticks.ite
    | with_reducible apply Ticks.foldl
    | split
    | (with_reducible refine Ticks.parts ?_; with_reducible assumption)

theorem undefineUnwritten_ticks {k_ : Nat} {f : Frame} {s : State} (h : Ticks k s) :
    Ticks k (undefineUnwritten k_ f s) := by
  unfold undefineUnwritten
  try dsimp only
  repeat' first
    | with_reducible assumption
    | intro _
    | with_reducible apply undefineRows_ticks
    | with_reducible apply Ticks.ite
    | with_reducible apply Ticks.foldl
    | split

theorem cutFrame_ticks {k_ cut : Nat} {s : State} (h : Ticks k s) :
    Ticks k (cutFrame k_ cut s) := by
  unfold cutFrame
  try dsimp only
  repeat' first
    | with_reducible assumption
    | intro _
    | with_reducible apply modFrame_ticks
    | with_reducible apply writeRows_ticks
    | with_reducible apply undefineUnwritten_ticks
    | with_reducible apply Ticks.ite
    | split
    | (with_reducible refine Ticks.parts ?_; with_reducible assumption)

theorem countDefects_ticks {k_ : Nat} {f : Frame} {s : State} (h : Ticks k s) :
    Ticks k (countDefects k_ f s) := by
  unfold countDefects
  try dsimp only
  repeat' first
    | with_reducible assumption
    | intro _
    | with_reducible apply State_modLane_ticks
    | (with_reducible refine Ticks.parts ?_; with_reducible assumption)

theorem cutFrames_ticks {s : State} (h : Ticks k s) :
    Ticks k (cutFrames s) := by
  unfold cutFrames
  try dsimp only
  repeat' first
    | with_reducible assumption
    | intro _
    | with_reducible apply State_modCtx_ticks
    | with_reducible apply State_modLane_ticks
    | with_reducible apply portError_ticks
    | with_reducible apply writeRows_ticks
    | with_reducible apply undefineUnwritten_ticks
    | with_reducible apply countDefects_ticks
    | with_reducible apply Ticks.ite
    | with_reducible apply Ticks.foldl
    | split
    | (with_reducible refine Ticks.parts ?_; with_reducible assumption)

theorem applyCtx_ticks {k_ : Nat} {e : CtxEffect} {s : State} (h : Ticks k s) :
    Ticks k (applyCtx k_ e s) := by
  unfold applyCtx
  try dsimp only
  repeat' first
    | with_reducible assumption
    | intro _
    | with_reducible apply State_modCtx_ticks
    | with_reducible apply cutFrame_ticks
    | split
    | (with_reducible refine Ticks.parts ?_; with_reducible assumption)

theorem applyPending_ticks {k_ number : Nat} {s : State} (h : Ticks k s) :
    Ticks k (applyPending k_ number s) := by
  unfold applyPending
  try dsimp only
  repeat' first
    | with_reducible assumption
    | intro _
    | with_reducible apply State_modCtx_ticks
    | with_reducible apply postTenant_ticks
    | with_reducible apply applyCtx_ticks
    | with_reducible apply Ticks.ite
    | with_reducible apply Ticks.foldl
    | split
    | (with_reducible refine Ticks.parts ?_; with_reducible assumption)

theorem openContexts_ticks {s : State} (h : Ticks k s) :
    Ticks k (openContexts s) := by
  unfold openContexts
  try dsimp only
  repeat' first
    | with_reducible assumption
    | intro _
    | with_reducible apply State_modCtx_ticks
    | with_reducible apply applyPending_ticks
    | with_reducible apply Ticks.ite
    | with_reducible apply Ticks.foldl
    | split
    | (with_reducible refine Ticks.parts ?_; with_reducible assumption)

theorem postPortErrors_ticks {s : State} (h : Ticks k s) :
    Ticks k (postPortErrors s) := by
  unfold postPortErrors
  try dsimp only
  repeat' first
    | with_reducible assumption
    | intro _
    | with_reducible apply postAll_ticks
    | with_reducible apply Ticks.ite
    | with_reducible apply Ticks.foldl
    | split

theorem countFabric_ticks {f : FabricCounts → FabricCounts} {s : State} (h : Ticks k s) :
    Ticks k (countFabric f s) := by
  unfold countFabric
  try dsimp only
  repeat' first
    | with_reducible assumption
    | intro _
    | with_reducible apply State_modFabric_ticks
    | (with_reducible refine Ticks.parts ?_; with_reducible assumption)

theorem tallyWritten_ticks {rows : Nat} {ok : Bool} {s : State} (h : Ticks k s) :
    Ticks k (tallyWritten rows ok s) := by
  unfold tallyWritten
  try dsimp only
  repeat' first
    | with_reducible assumption
    | intro _
    | with_reducible apply State_modTally_ticks
    | with_reducible apply Ticks.ite
    | split
    | (with_reducible refine Ticks.parts ?_; with_reducible assumption)

theorem dropTallyWrites_ticks {s : State} (h : Ticks k s) :
    Ticks k (dropTallyWrites s) := by
  unfold dropTallyWrites
  try dsimp only
  repeat' first
    | with_reducible assumption
    | intro _
    | with_reducible apply tallyWritten_ticks
    | with_reducible apply Ticks.foldl

theorem discardRequests_ticks {s : State} (h : Ticks k s) :
    Ticks k (discardRequests s) := by
  unfold discardRequests
  try dsimp only
  repeat' first
    | with_reducible assumption
    | intro _
    | with_reducible apply State_modFabric_ticks
    | with_reducible apply dropRequestAccesses_ticks
    | with_reducible apply countFabric_ticks
    | split
    | (with_reducible refine Ticks.parts ?_; with_reducible assumption)

theorem quiesceFabric_ticks {s : State} (h : Ticks k s) :
    Ticks k (quiesceFabric s).1 := by
  unfold quiesceFabric
  try dsimp only
  repeat' first
    | with_reducible assumption
    | intro _
    | with_reducible apply State_modFabric_ticks
    | with_reducible apply dropRequestAccesses_ticks
    | with_reducible apply countFabric_ticks
    | with_reducible apply dropTallyWrites_ticks
    | (with_reducible refine Ticks.parts ?_; with_reducible assumption)

theorem clearFabric_ticks {s : State} (h : Ticks k s) :
    Ticks k (clearFabric s) := by
  unfold clearFabric
  try dsimp only
  repeat' first
    | with_reducible assumption
    | intro _
    | with_reducible apply State_modFabric_ticks
    | with_reducible apply dropRequestAccesses_ticks
    | with_reducible apply countFabric_ticks
    | with_reducible apply dropTallyWrites_ticks
    | (with_reducible refine Ticks.parts ?_; with_reducible assumption)

theorem applyEpoch_ticks {s : State} (h : Ticks k s) :
    Ticks k (applyEpoch s) := by
  unfold applyEpoch
  try dsimp only
  repeat' first
    | with_reducible assumption
    | intro _
    | with_reducible apply State_modFabric_ticks
    | with_reducible apply postAll_ticks
    | split
    | (with_reducible refine Ticks.parts ?_; with_reducible assumption)

theorem rerouteSlot_ticks {s : State} (h : Ticks k s) :
    Ticks k (rerouteSlot s) := by
  unfold rerouteSlot
  try dsimp only
  repeat' first
    | with_reducible assumption
    | intro _
    | with_reducible apply postAll_ticks
    | with_reducible apply Ticks.ite
    | split
    | (with_reducible refine Ticks.parts ?_; with_reducible assumption)

theorem rerouteSwitch_ticks {s : State} (h : Ticks k s) :
    Ticks k (rerouteSwitch s) := by
  unfold rerouteSwitch
  try dsimp only
  repeat' first
    | with_reducible assumption
    | intro _
    | with_reducible apply State_modFabric_ticks
    | with_reducible apply postAll_ticks
    | with_reducible apply applyEpoch_ticks
    | with_reducible apply Ticks.ite
    | split
    | (with_reducible refine Ticks.parts ?_; with_reducible assumption)

theorem recalStep_ticks {p : Nat} {s : State} (h : Ticks k s) :
    Ticks k (recalStep p s) := by
  unfold recalStep
  try dsimp only
  repeat' first
    | with_reducible assumption
    | intro _
    | with_reducible apply State_modLink_ticks
    | with_reducible apply emit_ticks
    | with_reducible apply Ticks.ite
    | split
    | (with_reducible refine Ticks.parts ?_; with_reducible assumption)

theorem recalSlot_ticks {s : State} (h : Ticks k s) :
    Ticks k (recalSlot s) := by
  unfold recalSlot
  try dsimp only
  repeat' first
    | with_reducible assumption
    | intro _
    | with_reducible apply recalStep_ticks
    | with_reducible apply Ticks.ite
    | with_reducible apply Ticks.foldl
    | split

theorem flushLinksIf_ticks {test : PLink → Bool} {s : State} (h : Ticks k s) :
    Ticks k (flushLinksIf test s) := by
  unfold flushLinksIf
  try dsimp only
  repeat' first
    | with_reducible assumption
    | intro _
    | with_reducible apply State_modLink_ticks
    | with_reducible apply sendCtl_ticks
    | with_reducible apply countFabric_ticks
    | with_reducible apply Ticks.ite
    | with_reducible apply Ticks.foldl
    | split
    | (with_reducible refine Ticks.parts ?_; with_reducible assumption)

theorem flushLinks_ticks {s : State} (h : Ticks k s) :
    Ticks k (flushLinks s) := by
  unfold flushLinks
  try dsimp only
  repeat' first
    | with_reducible assumption
    | intro _
    | with_reducible apply flushLinksIf_ticks

theorem clearLinks_ticks {s : State} (h : Ticks k s) :
    Ticks k (clearLinks s) := by
  unfold clearLinks
  try dsimp only
  repeat' first
    | with_reducible assumption
    | intro _
    | with_reducible apply flushLinksIf_ticks

theorem openFsync_ticks {s : State} (h : Ticks k s) :
    Ticks k (openFsync s) := by
  unfold openFsync
  try dsimp only
  repeat' first
    | with_reducible assumption
    | intro _
    | with_reducible apply State_modFsync_ticks
    | with_reducible apply postAll_ticks
    | with_reducible apply Ticks.ite
    | with_reducible apply Ticks.foldl
    | split
    | (with_reducible refine Ticks.parts ?_; with_reducible assumption)

theorem openXfers_ticks {s : State} (h : Ticks k s) :
    Ticks k (openXfers s) := by
  unfold openXfers
  try dsimp only
  repeat' first
    | with_reducible assumption
    | intro _
    | with_reducible apply Ticks.ite
    | split
    | (with_reducible refine Ticks.parts ?_; with_reducible assumption)

theorem testRow_ticks {bad : Bool} {row : Nat} {s : State} (h : Ticks k s) :
    Ticks k (testRow bad row s) := by
  unfold testRow
  try dsimp only
  repeat' first
    | with_reducible assumption
    | intro _
    | with_reducible apply undefineRows_ticks
    | with_reducible apply postLoft_ticks
    | with_reducible apply detect_ticks
    | with_reducible apply mapRow_ticks
    | with_reducible apply badRow_ticks
    | with_reducible apply passAccess_ticks
    | with_reducible apply Ticks.ite
    | split
    | (with_reducible refine Ticks.parts ?_; with_reducible assumption)

theorem testList_ticks {failing : List Nat} :
    ∀ {l : List Nat} {n : Nat} {s : State}, Ticks k s → Ticks k (testList failing n l s)
  | [], _, _, h => h
  | row :: l, n, s, h => by
    have h' : Ticks k (s.modLoft fun x => { x with suspect := x.suspect.drop 1 }) := State_modLoft_ticks h
    unfold testList
    dsimp only
    split
    · exact testList_ticks h'
    · split
      · exact h
      · exact testList_ticks (testRow_ticks h')

theorem testSuspects_ticks {failing : List Nat} {s : State} (h : Ticks k s) :
    Ticks k (testSuspects failing s) := by
  unfold testSuspects
  try dsimp only
  repeat' first
    | with_reducible assumption
    | intro _
    | with_reducible apply testList_ticks

theorem startTrainings_ticks {s : State} (h : Ticks k s) :
    Ticks k (startTrainings s) := by
  unfold startTrainings
  try dsimp only
  repeat' first
    | with_reducible assumption
    | intro _
    | with_reducible apply State_modDram_ticks
    | with_reducible apply Ticks.ite
    | split
    | (with_reducible refine Ticks.parts ?_; with_reducible assumption)

theorem retrainStep_ticks {drift : Bool} {s : State} (h : Ticks k s) :
    Ticks k (retrainStep drift s) := by
  unfold retrainStep
  try dsimp only
  repeat' first
    | with_reducible assumption
    | intro _
    | with_reducible apply State_modDram_ticks
    | with_reducible apply postAll_ticks
    | with_reducible apply startTrainings_ticks
    | with_reducible apply Ticks.ite
    | split
    | (with_reducible refine Ticks.parts ?_; with_reducible assumption)

theorem evaluateHeat_ticks {s : State} (h : Ticks k s) :
    Ticks k (evaluateHeat s) := by
  unfold evaluateHeat
  try dsimp only
  repeat' first
    | with_reducible assumption
    | intro _
    | with_reducible apply State_modPower_ticks
    | with_reducible apply raiseAlert_ticks
    | with_reducible apply postAll_ticks
    | with_reducible apply Ticks.ite
    | split
    | (with_reducible refine Ticks.parts ?_; with_reducible assumption)

theorem openingHeat_ticks {s : State} (h : Ticks k s) :
    Ticks k (openingHeat s) := by
  unfold openingHeat
  try dsimp only
  repeat' first
    | with_reducible assumption
    | intro _
    | with_reducible apply State_modPower_ticks
    | with_reducible apply evaluateHeat_ticks
    | (with_reducible refine Ticks.parts ?_; with_reducible assumption)

theorem setPower_ticks {p : PowerState} {s : State} (h : Ticks k s) :
    Ticks k (setPower p s) := by
  unfold setPower
  try dsimp only
  repeat' first
    | with_reducible assumption
    | intro _
    | with_reducible apply State_modPower_ticks
    | with_reducible apply postAll_ticks
    | with_reducible apply Ticks.ite
    | split
    | (with_reducible refine Ticks.parts ?_; with_reducible assumption)

theorem changeClocks_ticks {s : State} (h : Ticks k s) :
    Ticks k (changeClocks s) := by
  unfold changeClocks
  try dsimp only
  repeat' first
    | with_reducible assumption
    | intro _
    | with_reducible apply State_modPower_ticks
    | with_reducible apply setPower_ticks
    | split
    | (with_reducible refine Ticks.parts ?_; with_reducible assumption)

theorem slotClocks_ticks {s : State} (h : Ticks k s) :
    Ticks k (slotClocks s) := by
  unfold slotClocks
  try dsimp only
  repeat' first
    | with_reducible assumption
    | intro _
    | with_reducible apply changeClocks_ticks
    | with_reducible apply Ticks.ite
    | split
    | (with_reducible refine Ticks.parts ?_; with_reducible assumption)

theorem flushRing_ticks {n m : Nat} {s : State} (h : Ticks k s) :
    Ticks k (flushRing n m s) := by
  unfold flushRing
  try dsimp only
  repeat' first
    | with_reducible assumption
    | intro _
    | with_reducible apply State_modResultRing_ticks
    | with_reducible apply queueDescriptor_ticks
    | with_reducible apply Ticks.ite
    | split
    | (with_reducible refine Ticks.parts ?_; with_reducible assumption)

theorem flushEgress_ticks {s : State} (h : Ticks k s) :
    Ticks k (flushEgress s) := by
  unfold flushEgress
  try dsimp only
  repeat' first
    | with_reducible assumption
    | intro _
    | with_reducible apply flushRing_ticks
    | with_reducible apply Ticks.foldl

theorem applyTallyConfig_ticks {c : TallyConfig} {s : State} (h : Ticks k s) :
    Ticks k (applyTallyConfig c s) := by
  unfold applyTallyConfig
  try dsimp only
  repeat' first
    | with_reducible assumption
    | intro _
    | with_reducible apply State_modTally_ticks
    | with_reducible apply tracePort_ticks
    | with_reducible apply Ticks.ite
    | split
    | (with_reducible refine Ticks.parts ?_; with_reducible assumption)

theorem applyTallyStart_ticks {s : State} (h : Ticks k s) :
    Ticks k (applyTallyStart s) := by
  unfold applyTallyStart
  try dsimp only
  repeat' first
    | with_reducible assumption
    | intro _
    | with_reducible apply State_modTally_ticks
    | (with_reducible refine Ticks.parts ?_; with_reducible assumption)

theorem padStream_ticks {s : State} (h : Ticks k s) :
    Ticks k (padStream s) := by
  unfold padStream
  try dsimp only
  repeat' first
    | with_reducible assumption
    | intro _
    | with_reducible apply State_modTally_ticks
    | with_reducible apply tracePort_ticks
    | (with_reducible refine Ticks.parts ?_; with_reducible assumption)

theorem applyTallyStop_ticks {s : State} (h : Ticks k s) :
    Ticks k (applyTallyStop s) := by
  unfold applyTallyStop
  try dsimp only
  repeat' first
    | with_reducible assumption
    | intro _
    | with_reducible apply State_modTally_ticks
    | with_reducible apply padStream_ticks
    | (with_reducible refine Ticks.parts ?_; with_reducible assumption)

theorem openingSync_ticks {s : State} (h : Ticks k s) :
    Ticks k (openingSync s) := by
  unfold openingSync
  try dsimp only
  repeat' first
    | with_reducible assumption
    | intro _
    | with_reducible apply tracePort_ticks
    | with_reducible apply tallySync_ticks
    | with_reducible apply Ticks.ite
    | split

theorem slotPad_ticks {s : State} (h : Ticks k s) :
    Ticks k (slotPad s) := by
  unfold slotPad
  try dsimp only
  repeat' first
    | with_reducible assumption
    | intro _
    | with_reducible apply padStream_ticks
    | with_reducible apply Ticks.ite
    | split
    | (with_reducible refine Ticks.parts ?_; with_reducible assumption)

theorem tallyPhase_ticks {arg : Nat} {s : State} (h : Ticks k s) :
    Ticks k (tallyPhase arg s) := by
  unfold tallyPhase
  try dsimp only
  repeat' first
    | with_reducible assumption
    | intro _
    | with_reducible apply tallyDrover_ticks

theorem postCorrections_ticks {s : State} (h : Ticks k s) :
    Ticks k (postCorrections s) := by
  unfold postCorrections
  try dsimp only
  repeat' first
    | with_reducible assumption
    | intro _
    | with_reducible apply postAll_ticks
    | with_reducible apply Ticks.ite
    | with_reducible apply Ticks.foldl
    | split

theorem postSlip_ticks {s : State} (h : Ticks k s) :
    Ticks k (postSlip s) := by
  unfold postSlip
  try dsimp only
  repeat' first
    | with_reducible assumption
    | intro _
    | with_reducible apply postAll_ticks
    | with_reducible apply countFabric_ticks
    | with_reducible apply Ticks.ite
    | with_reducible apply Ticks.foldl
    | split
    | (with_reducible refine Ticks.parts ?_; with_reducible assumption)

theorem gather_ticks {s : State} (h : Ticks k s) :
    Ticks k (gather s) := by
  unfold gather
  try dsimp only
  repeat' first
    | with_reducible assumption
    | intro _
    | with_reducible apply State_modFabric_ticks
    | with_reducible apply postPortErrors_ticks
    | with_reducible apply postCorrections_ticks
    | with_reducible apply postSlip_ticks
    | with_reducible apply Ticks.ite
    | split
    | (with_reducible refine Ticks.parts ?_; with_reducible assumption)

theorem selfTests_ticks {fails : BitVec 2} {s : State} (h : Ticks k s) :
    Ticks k (selfTests fails s) := by
  unfold selfTests
  try dsimp only
  repeat' first
    | with_reducible assumption
    | intro _
    | with_reducible apply enterStop_ticks
    | with_reducible apply Ticks.ite
    | with_reducible apply Ticks.foldl
    | split

theorem systemArm_ticks {opened : Bool} {g : Nat} {s : State} (h : Ticks k s) :
    Ticks k (systemArm opened g s) := by
  unfold systemArm
  try dsimp only
  repeat' first
    | with_reducible assumption
    | intro _
    | with_reducible apply State_modGraph_ticks
    | with_reducible apply postGraph_ticks
    | with_reducible apply Ticks.ite
    | split
    | (with_reducible refine Ticks.parts ?_; with_reducible assumption)

theorem setContract_ticks {n : Nat} {c : Contract} {s : State} (h : Ticks k s) : Ticks k (setContract n c s) := h

theorem applyEffect_ticks {e : Effect} {s : State} (h : Ticks k s) :
    Ticks k (applyEffect e s) := by
  unfold applyEffect
  try dsimp only
  repeat' first
    | with_reducible assumption
    | intro _
    | with_reducible apply State_modHalter_ticks
    | with_reducible apply State_modLoft_ticks
    | with_reducible apply State_modFsync_ticks
    | with_reducible apply State_modI2c_ticks
    | with_reducible apply State_modGraph_ticks
    | with_reducible apply postHalter_ticks
    | with_reducible apply enterStop_ticks
    | with_reducible apply disableHalter_ticks
    | with_reducible apply postGraph_ticks
    | with_reducible apply applyTallyConfig_ticks
    | with_reducible apply applyTallyStart_ticks
    | with_reducible apply applyTallyStop_ticks
    | with_reducible apply systemArm_ticks
    | with_reducible apply setContract_ticks
    | with_reducible apply Ticks.ite
    | split
    | (with_reducible refine Ticks.parts ?_; with_reducible assumption)

theorem applyDeferred_ticks {s : State} (h : Ticks k s) : Ticks k (applyDeferred s) :=
  Ticks.parts (Ticks.foldl (f := fun s e => applyEffect e s) (fun _ _ h => applyEffect_ticks h) (Ticks.parts h))

theorem systemArms_ticks {opened : Bool} {s : State} (h : Ticks k s) : Ticks k (systemArms opened s) :=
  Ticks.parts (Ticks.foldl (f := fun (s : State) (e : Effect) => match e with | .systemArm g => systemArm opened g s | _ => s)
    (fun s e h => by
      cases e
      case systemArm => exact systemArm_ticks h
      all_goals exact h) h)

theorem freshWindow_ticks {s : State} (h : Ticks k s) :
    Ticks k (freshWindow s) := by
  unfold freshWindow
  try dsimp only
  repeat' first
    | with_reducible assumption
    | intro _
    | (with_reducible refine Ticks.parts ?_; with_reducible assumption)

theorem openLinks_ticks {s : State} (h : Ticks k s) :
    Ticks k (openLinks s) := by
  unfold openLinks
  try dsimp only
  repeat' first
    | with_reducible assumption
    | intro _
    | with_reducible apply Ticks.ite
    | split
    | (with_reducible refine Ticks.parts ?_; with_reducible assumption)

theorem activations_ticks {s : State} (h : Ticks k s) :
    Ticks k (activations s) := by
  unfold activations
  try dsimp only
  repeat' first
    | with_reducible assumption
    | intro _
    | with_reducible apply State_modGraph_ticks
    | with_reducible apply activate_ticks
    | with_reducible apply Ticks.ite
    | with_reducible apply Ticks.foldl
    | split
    | (with_reducible refine Ticks.parts ?_; with_reducible assumption)

theorem windowsStop_ticks {s : State} (h : Ticks k s) :
    Ticks k (windowsStop s) := by
  unfold windowsStop
  try dsimp only
  repeat' first
    | with_reducible assumption
    | intro _
    | with_reducible apply startTrainings_ticks
    | with_reducible apply openLinks_ticks

/-! ### The drain -/

/-- The phase a window has after the j-th step of the drain (R42). -/
def Phase.after : Nat → Phase
  | 0 => .opened | 1 => .drain | 2 => .guillotined | 3 => .quiesced | 4 => .flushed | _ => .maintained

/-- The window has come to a phase. -/
def Tick.inPhase (p : Phase) (t : Tick) : Tick := { t with window := t.window.map fun w => { w with phase := p } }

theorem Ticks.self (s : State) : Ticks s.tick s := rfl

/-- Everything but the counts is as given. -/
theorem Ticks.eq {s : State} (h : Ticks k s) :
    s.tick = { k with win := s.tick.win, total := s.tick.total, faults := s.tick.faults } := by
  have h : s.tick.frame = k.frame := h
  simp only [Tick.frame, Tick.mk.injEq] at h
  cases hk : s.tick
  simp only [hk, Tick.mk.injEq] at h ⊢
  tauto

theorem Ticks.window {s : State} (h : Ticks k s) : s.tick.window = k.window := by rw [h.eq]

/-- A change of the tick machine. -/
theorem State_modTick_ticks {f : Tick → Tick} {j : Tick} {s : State} (h : Ticks k s)
    (hf : ∀ c : Tick, (f { k with win := c.win, total := c.total, faults := c.faults }).frame = j.frame) :
    Ticks j (s.modTick f) := by
  show (f s.tick).frame = j.frame
  rw [h.eq]
  exact hf s.tick

theorem setPhase_ticks {p : Phase} {s : State} (h : Ticks k s) : Ticks (k.inPhase p) (setPhase p s) :=
  State_modTick_ticks h fun _ => rfl

theorem stopDispatch_ticks {s : State} (h : Ticks k s) : Ticks (k.inPhase .drain) (stopDispatch s) := by
  have h := setPhase_ticks (p := .drain) h
  unfold stopDispatch
  dsimp only
  repeat' first
    | with_reducible assumption
    | intro _
    | with_reducible apply tallyPhase_ticks
    | with_reducible apply postGraph_ticks
    | with_reducible apply State_modGraph_ticks
    | with_reducible apply Ticks.ite
    | with_reducible apply Ticks.foldl
    | split

theorem guillotineStep_ticks {s : State} (h : Ticks k s) : Ticks (k.inPhase .guillotined) (guillotineStep s) := by
  unfold guillotineStep
  exact tallyPhase_ticks (discardRequests_ticks (cutFrames_ticks (guillotineAll_ticks (setPhase_ticks h))))

theorem quiesceStep_ticks {s : State} (h : Ticks k s) : Ticks (k.inPhase .quiesced) (quiesceStep s) := by
  have h := flushLinks_ticks (quiesceFabric_ticks (setPhase_ticks (p := .quiesced) h))
  unfold quiesceStep
  dsimp only
  apply rerouteSwitch_ticks
  apply applyEpoch_ticks
  exact Ticks.ite (postAll_ticks h) h

theorem flushStep_ticks {s : State} (h : Ticks k s) : Ticks (k.inPhase .flushed) (flushStep s) :=
  resetTethers_ticks (flushEgress_ticks (setPhase_ticks h))

theorem maintenanceStep_ticks {failing : List Nat} {fails : BitVec 2} {drift : Bool} {s : State} (h : Ticks k s) :
    Ticks (k.inPhase .maintained) (maintenanceStep failing fails drift s) := by
  have h := gather_ticks (State_modPower_ticks (f := fun p => { p with slots := p.slots + 1 })
    (slotClocks_ticks (setPhase_ticks (p := .maintained) h)))
  unfold maintenanceStep
  dsimp only
  apply tallyPhase_ticks
  apply slotPad_ticks
  apply rerouteSlot_ticks
  apply recalSlot_ticks
  apply selfTests_ticks
  apply retrainStep_ticks
  exact Ticks.ite (testSuspects_ticks h) h

/-- What is done as of another instant. -/
theorem asOf_ticks {j : Tick} {at_ : Instant} {f : State → State} {s : State} (hf : ∀ s, Ticks k s → Ticks j (f s))
    (h : Ticks k s) : Ticks j (asOf at_ f s) :=
  Ticks.parts (hf _ (Ticks.parts h))

theorem drainStep_ticks {j : Nat} {s : State} (h : Ticks k s) (hj : 1 ≤ j) : Ticks (k.inPhase (.after j)) (drainStep j s) := by
  unfold drainStep
  split
  · exact stopDispatch_ticks h
  · exact guillotineStep_ticks h
  · exact quiesceStep_ticks h
  · exact flushStep_ticks h
  · rename_i h1 h2 h3 h4
    have : Phase.after j = .maintained := by
      match j, hj, h1, h2, h3, h4 with
      | n + 5, _, _, _, _, _ => rfl
      | 1, _, h1, _, _, _ => exact absurd rfl h1
      | 2, _, _, h2, _, _ => exact absurd rfl h2
      | 3, _, _, _, h3, _ => exact absurd rfl h3
      | 4, _, _, _, _, h4 => exact absurd rfl h4
    rw [this]
    exact maintenanceStep_ticks h

/-- The steps up to the j-th, where the window has not come so far. -/
theorem drainTo_ticks {j : Nat} {w : Window} {s : State} (h : Ticks k s) (hw : k.window = some w) (hj : j ≤ 5) :
    Ticks (if w.phase.rank < j then k.inPhase (.after j) else k) (drainTo j s) := by
  induction j with
  | zero => exact h
  | succ j ih =>
    have hi := ih (by omega)
    have e : drainTo (j + 1) s = match (drainTo j s).tick.window with
        | some w => if w.phase.rank ≤ j then asOf (w.stepAt (j + 1)) (drainStep (j + 1)) (drainTo j s) else drainTo j s
        | none => drainTo j s := by
      unfold drainTo
      rw [List.range_succ, List.foldl_append]
      rfl
    rw [e, hi.window]
    by_cases hr : w.phase.rank < j
    · simp only [hr, if_true, Tick.inPhase, hw, Option.map_some] at hi ⊢
      have hk : Phase.rank (.after j) ≤ j := by
        have : j = 0 ∨ j = 1 ∨ j = 2 ∨ j = 3 ∨ j = 4 := by omega
        rcases this with rfl | rfl | rfl | rfl | rfl <;> decide
      rw [if_pos hk, if_pos (by omega)]
      have := asOf_ticks (at_ := Window.stepAt { w with phase := .after j } (j + 1)) (fun s h => drainStep_ticks (j := j + 1) h (by omega)) hi
      simpa [Tick.inPhase] using this
    · simp only [hr, if_false] at hi ⊢
      rw [hw]
      by_cases hr' : w.phase.rank ≤ j
      · simp only [hr', if_true]
        rw [if_pos (by omega)]
        exact asOf_ticks (fun s h => drainStep_ticks (j := j + 1) h (by omega)) hi
      · simp only [hr', if_false]
        rw [if_neg (by omega)]
        exact hi

/-- What a row of the drain leaves of the tick machine: its window has come to the phase of the row's step, whatever steps
before it were still to be taken. -/
theorem drainRow_ticks {j : Nat} {at_ : Window → Instant} {f : State → State} {w : Window} {s : State} (h : Ticks k s)
    (hw : k.window = some w) (hr : w.phase.rank < j) (hj : j ≤ 5) (ha : at_ w ≤ s.now)
    (hf : ∀ k s, Ticks k s → Ticks (k.inPhase (.after j)) (f s)) :
    Ticks (k.inPhase (.after j)) (drainRow j at_ f s) := by
  unfold drainRow
  rw [h.window, hw]
  simp only [hr, ha, and_self, if_true]
  have := hf _ _ (drainTo_ticks (j := j - 1) h hw (by omega))
  split at this <;> simpa [Tick.inPhase, hw] using this

/-! ### Ticks -/

theorem postTick_ticks {c : Nat} {s : State} (h : Ticks k s) : Ticks k (postTick c s) := by
  unfold postTick
  apply postAll_ticks
  split
  · exact h
  · exact h

theorem tickFault_ticks {f : TickFault} {s : State} (h : Ticks k s) : Ticks k (tickFault f s) := postTick_ticks h

theorem postTicks_ticks {l : List Nat} {s : State} (h : Ticks k s) : Ticks k (postTicks l s) :=
  Ticks.foldl (fun _ _ h => postTick_ticks h) h

/-- The window that is open ends. -/
theorem closeWindow_ticks {s : State} (h : Ticks k s) : Ticks { k with window := none } (closeWindow s) := by
  unfold closeWindow
  cases hw : k.window with
  | none =>
    have e : drainTo 5 s = s := by
      have : s.tick.window = none := h.window.trans hw
      have step : ∀ l : List Nat, l.foldl (fun s j => match s.tick.window with
          | some w => if w.phase.rank ≤ j then asOf (w.stepAt (j + 1)) (drainStep (j + 1)) s else s
          | none => s) s = s := by
        intro l
        induction l with
        | nil => rfl
        | cons a l ih => simp only [List.foldl_cons, this, ih]
      exact step _
    rw [e]
    exact State_modTick_ticks h fun _ => rfl
  | some w =>
    have hd := drainTo_ticks (j := 5) h hw (le_refl _)
    refine State_modTick_ticks hd fun _ => ?_
    split <;> rfl

theorem takeParams_ticks {s : State} (h : Ticks k s) :
    Ticks { k with prm := k.newParams.getD k.prm, newParams := none } (takeParams s) := by
  have hn : s.tick.newParams = k.newParams := by rw [h.eq]
  unfold takeParams
  split
  · rename_i p hp
    exact Ticks.parts (State_modTick_ticks h fun _ => by rw [← hn, hp]; rfl)
  · rename_i hp
    have e : k.newParams = none := hn ▸ hp
    show s.tick.frame = _
    rw [show s.tick.frame = k.frame from h]
    simp [Tick.frame, e]

/-- Heat may skip the window. -/
theorem skipForHeat_ticks {w : Window} {s : State} (h : Ticks k s) (hw : k.window = some w) (hs : w.skipped = false) :
    ∃ b, Ticks { k with window := some { w with skipped := b } } (skipForHeat s) := by
  unfold skipForHeat
  split
  · refine ⟨true, Ticks.parts ?_⟩
    exact State_modTick_ticks h fun _ => by simp [Tick.frame, hw]
  · exact ⟨false, by rw [← hs, ← hw]; exact h⟩

/-- A window opens: it is skipped for heat or not. -/
theorem openWindow_ticks {t0 : Instant} {evs : List Nat} {upset : BitVec 2} {s : State} (h : Ticks k s) :
    ∃ b, Ticks { k with window := some { windowAt k t0 with skipped := b }, tickno := k.tickno + 1, lastOpen := t0 }
      (openWindow t0 evs upset s) := by
  have h1 : Ticks { k with window := some (windowAt k t0), tickno := k.tickno + 1, lastOpen := t0 } (s.modTick fun t =>
      { t with window := some (windowAt t t0), tickno := t.tickno + 1, lastOpen := t0, win := .zero }) :=
    State_modTick_ticks h fun _ => rfl
  have h2 := postTicks_ticks (l := evs) (clearLinks_ticks (clearFabric_ticks h1))
  obtain ⟨b, hb⟩ := skipForHeat_ticks (openingHeat_ticks (openLinks_ticks (resetTethers_ticks (freshWindow_ticks
    (Ticks.ite (c := evs.contains tickPausedExit = true) (applyEpoch_ticks h2) h2))))) rfl rfl
  exact ⟨b, sweepInsts_ticks (activations_ticks (halterOpening_ticks (halterOpening_ticks (openFsync_ticks
    (openContexts_ticks (openingSync_ticks (openXfers_ticks (applyDeferred_ticks hb))))))))⟩

/-- A tick that opens no window. -/
theorem closedTick_ticks {evs : List Nat} {s : State} (h : Ticks k s) : Ticks k (closedTick evs s) := by
  have h := systemArms_ticks (opened := false) (postTicks_ticks (l := evs) h)
  unfold closedTick
  exact Ticks.ite (startTrainings_ticks (applyEpoch_ticks (openLinks_ticks h))) h

/-- The tick machine as it is at a tick, before what the tick opens: the window that was open has ended, and P, R and M pending
are in force. -/
def Tick.atTick (t0 : Instant) (stc : Option (BitVec 32)) (t : Tick) : Tick :=
  { t with window := none, prm := t.newParams.getD t.prm, newParams := none, stc := stc.getD (t.stc + 1), last := some t0,
           startedAt := none, edges := [] }

theorem atTick_ticks {t0 : Instant} {stc : Option (BitVec 32)} {s : State} (h : Ticks k s) :
    Ticks (k.atTick t0 stc) (emit .tickOut ((takeParams (closeWindow s)).modTick fun t =>
        { t with stc := stc.getD (t.stc + 1), last := some t0, startedAt := none, edges := [] })) :=
  emit_ticks (State_modTick_ticks (takeParams_ticks (closeWindow_ticks h)) fun _ => rfl)

/-- The timer's next tick, and the state the device is in. -/
theorem timerNext_ticks {t0 : Instant} {x : TickState} {s : State} (h : Ticks k s) :
    Ticks { timerNext t0 k with state := x } (s.modTick fun t => { timerNext t0 t with state := x }) :=
  State_modTick_ticks h fun _ => by
    unfold timerNext
    dsimp only
    split <;> rfl

/-- A tick with no switch of source in progress while the device runs and no PAUSE or HALT waits: a window opens. -/
theorem tickAt_opens {t0 : Instant} {fromNew : Bool} {stc : Option (BitVec 32)} {evs : List Nat} {upset : BitVec 2}
    {s : State} (hs : s.tick.switch = none) (hr : s.tick.state = .running) (hp : s.tick.pause = none)
    (hh : s.tick.haltPending = false) :
    ∃ b, Ticks { timerNext t0 (s.tick.atTick t0 stc) with
        state := .running, tickno := s.tick.tickno + 1, lastOpen := t0,
        window := some { windowAt (s.tick.atTick t0 stc) t0 with skipped := b } } (tickAt t0 fromNew stc evs upset s) := by
  have h := atTick_ticks (t0 := t0) (stc := stc) (Ticks.self s)
  unfold tickAt
  dsimp only
  generalize emit .tickOut _ = v at h ⊢
  have e := h.eq
  have e1 : v.tick.state = .running := by rw [e]; exact hr
  have e2 : v.tick.pause = none := by rw [e]; exact hp
  have e3 : v.tick.haltPending = false := by rw [e]; exact hh
  have e4 : v.tick.switch = none := by rw [e]; exact hs
  have ep : pauseAtTick t0 v.tick = (v.tick, false) := by simp [pauseAtTick, e1, e2, e3]
  have es : switchAtTick t0 fromNew false v = (v, [], true) := by simp [switchAtTick, e4]
  simp only [ep, es, e4, Option.any_none, Bool.false_eq_true, if_false, if_true]
  obtain ⟨b, hb⟩ := openWindow_ticks (t0 := t0) (evs := evs ++ [] ++ stateEvents v.tick.state .running) (upset := upset)
    (timerNext_ticks (t0 := t0) (x := .running) h)
  have hw : windowAt ({ timerNext t0 (s.tick.atTick t0 stc) with state := .running } : Tick) t0 = windowAt (s.tick.atTick t0 stc) t0 := by
    unfold timerNext; split <;> rfl
  have hn : (timerNext t0 (s.tick.atTick t0 stc)).tickno = s.tick.tickno := by
    unfold timerNext; split <;> rfl
  rw [hw] at hb
  simp only [hn] at hb
  exact ⟨b, sendTicks_ticks hb⟩

/-- A tick with no switch of source in progress while the device is in PAUSED and no RESUME waits: no window opens. -/
theorem tickAt_paused {t0 : Instant} {fromNew : Bool} {stc : Option (BitVec 32)} {evs : List Nat} {upset : BitVec 2}
    {s : State} (hs : s.tick.switch = none) (hr : s.tick.state = .paused) (hp : s.tick.resume = none) :
    Ticks { timerNext t0 (s.tick.atTick t0 stc) with state := .paused } (tickAt t0 fromNew stc evs upset s) := by
  have h := atTick_ticks (t0 := t0) (stc := stc) (Ticks.self s)
  unfold tickAt
  dsimp only
  generalize emit .tickOut _ = v at h ⊢
  have e := h.eq
  have e1 : v.tick.state = .paused := by rw [e]; exact hr
  have e2 : v.tick.resume = none := by rw [e]; exact hp
  have e4 : v.tick.switch = none := by rw [e]; exact hs
  have ep : pauseAtTick t0 v.tick = (v.tick, true) := by simp [pauseAtTick, e1, e2]
  have es : switchAtTick t0 fromNew true v = (v, [], true) := by simp [switchAtTick, e4]
  simp only [ep, es, e4, Option.any_none, Bool.false_eq_true, if_false, if_true, reduceCtorEq]
  exact sendTicks_ticks (closedTick_ticks (timerNext_ticks h))

/-- The device loses its ticks. -/
theorem enterLost_ticks {s : State} (h : Ticks k s) :
    ∃ r, Ticks { k with
        window := none, prm := k.newParams.getD k.prm, newParams := none, state := .lost, returnTo := r, pause := none,
        haltPending := false, resume := none, switch := none, holdover := false, synth := 0, due := none, edges := [],
        confirmBy := none, early := none } (enterLost s) := by
  unfold enterLost
  dsimp only
  exact ⟨_, raiseAlert_ticks (windowsStop_ticks (tickFault_ticks (postTicks_ticks (State_modTick_ticks
    (takeParams_ticks (closeWindow_ticks h)) fun _ => rfl))))⟩

/-- The device enters STOPPED. -/
theorem enterStopped_ticks {s : State} (h : Ticks k s) :
    Ticks { k with
      state := .stopped, pause := none, haltPending := false, resume := none, switch := none, startedAt := none, edges := [],
      due := none, holdover := false, synth := 0, confirmBy := none, early := none, last := none } (enterStopped s) := by
  unfold enterStopped
  exact windowsStop_ticks (changeClocks_ticks (State_modTick_ticks h fun _ => rfl))

/-! ### What follows for a window -/

/-- Steps that the window has taken are not taken again. -/
theorem drainTo_past {w : Window} {s : State} (hw : s.tick.window = some w) : ∀ {j : Nat}, j ≤ w.phase.rank → drainTo j s = s
  | 0, _ => rfl
  | j + 1, hj => by
    have ih := drainTo_past hw (j := j) (by omega)
    unfold drainTo at ih ⊢
    rw [List.range_succ, List.foldl_append, ih]
    simp only [List.foldl_cons, List.foldl_nil, hw]
    rw [if_neg (by omega)]

/-- After a step of the drain the window is in its phase, its boundaries as they were. -/
theorem drained_window {j : Nat} {w : Window} {f : State → State} {s : State} (hw : s.tick.window = some w)
    (hr : w.phase.rank < j) (hj : j ≤ 5) (hf : ∀ k s, Ticks k s → Ticks (k.inPhase (.after j)) (f s)) :
    (f (drainTo (j - 1) s)).tick.window = some { w with phase := .after j } := by
  rw [(hf _ _ (drainTo_ticks (j := j - 1) (Ticks.self s) hw (by omega))).window]
  split <;> simp [Tick.inPhase, hw]

end Sys2Proof.Machine
end

