-- ==== Sys2Proof/WellFormed.lean ====
section
/-!
DEFINITION. Checks on the operands of a command that its type does not make: ranges the manual gives them.
-/
namespace Sys2Proof

/-- The instant at which a command happens. -/
def Instr.time : Instr → Instant
  | .identify t _ _ => t
  | .ringCreate t _ _ => t
  | .ringReset t _ _ => t
  | .ringDelete t _ _ => t
  | .arbSet t _ _ => t
  | .fwUpdate t _ _ _ => t
  | .fwRestart t _ _ => t
  | .powerStateSet t _ _ => t
  | .deviceReset t _ _ => t
  | .partitionSet t _ _ _ => t
  | .partitionGet t _ _ _ => t
  | .partitionReset t _ _ => t
  | .tickConfig t _ _ => t
  | .tickStart t _ _ => t
  | .pause t _ _ => t
  | .resume t _ _ => t
  | .halt t _ _ => t
  | .tickStatus t _ _ _ => t
  | .memWrite t _ _ => t
  | .memRead t _ _ => t
  | .residentDefine t _ _ => t
  | .residentLoad t _ _ => t
  | .residentDelete t _ _ => t
  | .gateOpen t _ _ => t
  | .gateClose t _ _ => t
  | .eccRegionSet t _ _ => t
  | .graphLoad t _ _ => t
  | .graphUnload t _ _ => t
  | .graphArm t _ _ => t
  | .graphDisarm t _ _ => t
  | .graphParamSet t _ _ => t
  | .graphStatus t _ _ => t
  | .frameAbort t _ _ => t
  | .portConfig t _ _ => t
  | .laneBind t _ _ => t
  | .laneContextSet t _ _ _ => t
  | .fsyncSet t _ _ => t
  | .sensorXfer t _ _ _ => t
  | .halterConfig t _ _ _ => t
  | .halterEnable t _ _ => t
  | .routeLoad t _ _ _ => t
  | .epochSwitch t _ _ => t
  | .plinkControl t _ _ => t
  | .tetherSignal t _ _ => t
  | .tetherRead t _ _ => t
  | .resultRingCreate t _ _ => t
  | .resultRingDelete t _ _ => t
  | .tallyConfig t _ _ _ => t
  | .tallyControl t _ _ => t
  | .telemetryRead t _ _ _ => t
  | .debugPeek t _ _ => t
  | .debugPoke t _ _ => t
  | .sqTailDoorbell t _ _ _ => t
  | .cqHeadDoorbell t _ _ _ => t
  | .resultHeadDoorbell t _ _ _ => t
  | .deviceTimeLoRead t _ => t
  | .adminEnable t _ => t
  | .adminDisable t _ => t
  | .intCauseClear t _ _ => t
  | .alertStatusClear t _ _ => t
  | .registerWrite t _ _ _ _ => t
  | .bar2Read t _ _ _ _ => t
  | .bar2Write t _ _ _ => t
  | .msixUnmask t _ _ => t
  | .functionLevelReset t _ => t
  | .busMasterEnableClear t _ => t
  | .busMasterEnableSet t _ => t
  | .pcieLinkDown t => t
  | .fetchGrant t => t
  | .sqEntryFetched t _ _ => t
  | .cqModerationTimer t _ => t
  | .fwRestartBegin t => t
  | .fwRestartEnd t => t
  | .fwRestartTimeout t => t
  | .acregaWatchdogExpiry t => t
  | .controlMemoryError t => t
  | .internalTick t _ => t
  | .tickInEdge t _ => t
  | .tickInBandExpiry t _ => t
  | .tickQualifyTimeout t => t
  | .plinkTickBlock t _ _ _ _ _ => t
  | .followerTick t _ => t
  | .followerConfirmExpiry t => t
  | .drainStart t => t
  | .guillotine t => t
  | .fabricQuiesceEnd t => t
  | .egressFlushEnd t => t
  | .maintenanceSlot t _ _ _ => t
  | .nodeDispatch t _ _ => t
  | .nodeEnd t _ _ _ => t
  | .leaseEnd t _ _ => t
  | .tetherWaitTimeout t _ _ => t
  | .neOverrun t _ _ => t
  | .replayResume t _ _ => t
  | .droverCheck t _ => t
  | .csiFrameStart t _ _ _ _ => t
  | .csiLongPacket t _ _ _ _ _ _ => t
  | .csiEmbeddedData t _ _ _ _ _ => t
  | .csiShortPacket t _ _ _ _ => t
  | .csiFrameEnd t _ _ _ => t
  | .frameRecordWrite t _ _ => t
  | .laneInputTimeout t _ _ => t
  | .portQuietEnd t _ => t
  | .fsyncEdge t _ => t
  | .sensorXferStart t _ => t
  | .i2cTransactionEnd t _ _ => t
  | .i2cStretchTimeout t _ => t
  | .loftRowAccess t _ _ => t
  | .refillEnd t _ _ _ => t
  | .mapOutEnd t _ _ => t
  | .loftScrubRead t _ => t
  | .gateRequest t _ => t
  | .dramSectorRead t _ _ _ => t
  | .dramFullWrite t _ _ => t
  | .dramPartialWrite t _ _ _ _ => t
  | .dramScrubRead t _ => t
  | .dramRefresh t _ => t
  | .idleRetrainTimer t _ => t
  | .dramFullTrainingEnd t _ => t
  | .fabricInject t _ _ _ => t
  | .fabricForward t _ _ => t
  | .fabricDeliver t _ _ _ => t
  | .fabricResponse t _ _ => t
  | .requestExpiry t _ _ _ => t
  | .tagHoldbackEnd t _ _ _ => t
  | .plinkTrainingEnd t _ _ => t
  | .trainRetryTimer t _ => t
  | .downHoldEnd t _ => t
  | .linkFrameReceived t _ _ _ _ _ _ => t
  | .fecCodeword t _ _ => t
  | .linkCtlReceived t _ _ => t
  | .partnerBlockReceived t _ _ => t
  | .recalBlockReceived t _ => t
  | .replayTimer t _ => t
  | .ackTimer t _ => t
  | .noAckTimeout t _ => t
  | .fecLockLost t _ => t
  | .idleRecalTimer t => t
  | .abortReceived t _ => t
  | .fwMsgReceived t _ _ => t
  | .bootPush t _ _ => t
  | .halterTile t _ _ _ _ _ => t
  | .halterAckQualified t _ _ => t
  | .halterDeadline t _ => t
  | .halterGap t _ => t
  | .halterTileGap t _ _ => t
  | .halterPinMismatch t _ => t
  | .egressPageGrant t _ _ => t
  | .egressDescriptor t _ _ _ => t
  | .resultModerationTimer t _ _ => t
  | .thermalSample t _ => t
  | .thermalEvaluation t => t
  | .thermtrip t => t
  | .tallyRingWrite t _ => t
  | .tallyOverflowResume t => t
  | .powerGoodChange t _ _ _ _ _ => t
  | .perstNAssert t => t
  | .perstNRelease t _ _ _ => t
  | .warmReset t _ => t
  | .loftSelfTestEnd t _ _ => t
  | .dramTrainingEnd t _ _ => t
  | .bootCandidateRead t _ _ => t
  | .pcieEndpointReady t => t
  | .jtagInstruction t _ => t
  | .dataMovementEnd t _ _ _ _ => t
  | .flashWriteEnd t _ => t
  | .powerStateChangeEnd t => t
  | .acregaReady t _ _ _ => t
  | .halterHeartbeatEdge t _ => t

/-- Whether the operands of a command lie in the ranges the manual gives them. -/
def Instr.operandsOk : Instr → Bool
  | .identify _ _ _ => true
  | .ringCreate _ _ _ => true
  | .ringReset _ _ _ => true
  | .ringDelete _ _ _ => true
  | .arbSet _ _ _ => true
  | .fwUpdate _ _ _ _ => true
  | .fwRestart _ _ _ => true
  | .powerStateSet _ _ _ => true
  | .deviceReset _ _ _ => true
  | .partitionSet _ _ _ _ => true
  | .partitionGet _ _ _ _ => true
  | .partitionReset _ _ _ => true
  | .tickConfig _ _ _ => true
  | .tickStart _ _ _ => true
  | .pause _ _ _ => true
  | .resume _ _ _ => true
  | .halt _ _ _ => true
  | .tickStatus _ _ _ _ => true
  | .memWrite _ _ _ => true
  | .memRead _ _ _ => true
  | .residentDefine _ _ _ => true
  | .residentLoad _ _ _ => true
  | .residentDelete _ _ _ => true
  | .gateOpen _ _ _ => true
  | .gateClose _ _ _ => true
  | .eccRegionSet _ _ _ => true
  | .graphLoad _ _ _ => true
  | .graphUnload _ _ _ => true
  | .graphArm _ _ _ => true
  | .graphDisarm _ _ _ => true
  | .graphParamSet _ _ _ => true
  | .graphStatus _ _ _ => true
  | .frameAbort _ _ _ => true
  | .portConfig _ _ _ => true
  | .laneBind _ _ _ => true
  | .laneContextSet _ _ _ _ => true
  | .fsyncSet _ _ _ => true
  | .sensorXfer _ _ _ _ => true
  | .halterConfig _ _ _ _ => true
  | .halterEnable _ _ _ => true
  | .routeLoad _ _ _ _ => true
  | .epochSwitch _ _ _ => true
  | .plinkControl _ _ _ => true
  | .tetherSignal _ _ _ => true
  | .tetherRead _ _ _ => true
  | .resultRingCreate _ _ _ => true
  | .resultRingDelete _ _ _ => true
  | .tallyConfig _ _ _ _ => true
  | .tallyControl _ _ _ => true
  | .telemetryRead _ _ _ _ => true
  | .debugPeek _ _ _ => true
  | .debugPoke _ _ _ => true
  | .sqTailDoorbell _ _ _ _ => true
  | .cqHeadDoorbell _ _ _ _ => true
  | .resultHeadDoorbell _ _ _ _ => true
  | .deviceTimeLoRead _ read => decide (1 ≤ read.len) && decide (read.len ≤ 4096)
  | .adminEnable _ _ => true
  | .adminDisable _ _ => true
  | .intCauseClear _ _ _ => true
  | .alertStatusClear _ _ _ => true
  | .registerWrite _ _ _ _ len => decide (1 ≤ len) && decide (len ≤ 512)
  | .bar2Read _ _ offset len _ => decide (1 ≤ len) && decide (len ≤ 4096) && decide (offset.toNat + len ≤ 2 ^ 29)
  | .bar2Write _ _ offset data => decide (1 ≤ data.length) && decide (offset.toNat + data.length ≤ 2 ^ 29)
  | .msixUnmask _ _ _ => true
  | .functionLevelReset _ _ => true
  | .busMasterEnableClear _ _ => true
  | .busMasterEnableSet _ _ => true
  | .pcieLinkDown _ => true
  | .fetchGrant _ => true
  | .sqEntryFetched _ _ _ => true
  | .cqModerationTimer _ _ => true
  | .fwRestartBegin _ => true
  | .fwRestartEnd _ => true
  | .fwRestartTimeout _ => true
  | .acregaWatchdogExpiry _ => true
  | .controlMemoryError _ => true
  | .internalTick _ _ => true
  | .tickInEdge _ _ => true
  | .tickInBandExpiry _ _ => true
  | .tickQualifyTimeout _ => true
  | .plinkTickBlock _ _ _ _ _ _ => true
  | .followerTick _ _ => true
  | .followerConfirmExpiry _ => true
  | .drainStart _ => true
  | .guillotine _ => true
  | .fabricQuiesceEnd _ => true
  | .egressFlushEnd _ => true
  | .maintenanceSlot _ failing _ _ => failing.all (decide <| · < 786432)
  | .nodeDispatch _ _ node => decide (node < 4096)
  | .nodeEnd _ _ node _ => decide (node < 4096)
  | .leaseEnd _ _ _ => true
  | .tetherWaitTimeout _ _ node => decide (node < 4096)
  | .neOverrun _ _ node => decide (node < 4096)
  | .replayResume _ _ set => decide (set < 1024)
  | .droverCheck _ _ => true
  | .csiFrameStart _ _ _ _ _ => true
  | .csiLongPacket _ _ _ _ data _ _ => decide (data.length < 65536)
  | .csiEmbeddedData _ _ _ data _ _ => decide (data.length < 65536)
  | .csiShortPacket _ _ _ _ _ => true
  | .csiFrameEnd _ _ _ _ => true
  | .frameRecordWrite _ _ _ => true
  | .laneInputTimeout _ _ node => decide (node < 4096)
  | .portQuietEnd _ _ => true
  | .fsyncEdge _ _ => true
  | .sensorXferStart _ _ => true
  | .i2cTransactionEnd _ _ _ => true
  | .i2cStretchTimeout _ _ => true
  | .loftRowAccess _ _ _ => true
  | .refillEnd _ row found _ => decide (row < 786432) && decide (found.length ≤ 8)
  | .mapOutEnd _ row _ => decide (row < 786432)
  | .loftScrubRead _ _ => true
  | .gateRequest _ _ => true
  | .dramSectorRead _ addr _ _ => decide (addr % 64 = 0) && decide (addr < 2 ^ 40)
  | .dramFullWrite _ addr data => decide (addr % 64 = 0) && decide (addr < 2 ^ 40) && decide (data.length = 64)
  | .dramPartialWrite _ addr data _ _ => decide (addr < 2 ^ 40) && decide (1 ≤ data.length) && decide (addr % 64 + data.length ≤ 64) && decide (data.length < 64)
  | .dramScrubRead _ _ => true
  | .dramRefresh _ _ => true
  | .idleRetrainTimer _ _ => true
  | .dramFullTrainingEnd _ _ => true
  | .fabricInject _ _ _ _ => true
  | .fabricForward _ _ _ => true
  | .fabricDeliver _ _ _ _ => true
  | .fabricResponse _ _ _ => true
  | .requestExpiry _ _ _ _ => true
  | .tagHoldbackEnd _ _ _ _ => true
  | .plinkTrainingEnd _ _ _ => true
  | .trainRetryTimer _ _ => true
  | .downHoldEnd _ _ => true
  | .linkFrameReceived _ _ _ _ _ rest _ => decide (rest.length = 16) || decide (rest.length % 512 = 0 ∧ 512 ≤ rest.length ∧ rest.length ≤ 4096)
  | .fecCodeword _ _ _ => true
  | .linkCtlReceived _ _ _ => true
  | .partnerBlockReceived _ _ _ => true
  | .recalBlockReceived _ _ => true
  | .replayTimer _ _ => true
  | .ackTimer _ _ => true
  | .noAckTimeout _ _ => true
  | .fecLockLost _ _ => true
  | .idleRecalTimer _ => true
  | .abortReceived _ _ => true
  | .fwMsgReceived _ _ _ => true
  | .bootPush _ _ package => decide (package.length ≤ 2 ^ 25)
  | .halterTile _ _ _ _ tx ty => decide (tx < 2 ^ 16) && decide (ty < 2 ^ 16)
  | .halterAckQualified _ _ _ => true
  | .halterDeadline _ _ => true
  | .halterGap _ _ => true
  | .halterTileGap _ _ _ => true
  | .halterPinMismatch _ _ => true
  | .egressPageGrant _ _ _ => true
  | .egressDescriptor _ _ _ _ => true
  | .resultModerationTimer _ _ _ => true
  | .thermalSample _ readings => decide (readings.length = 8)
  | .thermalEvaluation _ => true
  | .thermtrip _ => true
  | .tallyRingWrite _ _ => true
  | .tallyOverflowResume _ => true
  | .powerGoodChange _ _ _ _ _ _ => true
  | .perstNAssert _ => true
  | .perstNRelease _ _ _ _ => true
  | .warmReset _ _ => true
  | .loftSelfTestEnd _ spares rows => spares.all (decide <| · < 4096) && rows.all (decide <| · < 786432)
  | .dramTrainingEnd _ _ _ => true
  | .bootCandidateRead _ _ package => decide (package.length ≤ 2 ^ 25)
  | .pcieEndpointReady _ => true
  | .jtagInstruction _ _ => true
  | .dataMovementEnd _ _ _ _ _ => true
  | .flashWriteEnd _ _ => true
  | .powerStateChangeEnd _ => true
  | .acregaReady _ _ _ _ => true
  | .halterHeartbeatEdge _ _ => true

/-- A well-formed command: its instant fits the 64-bit device time (R22) and its operands lie in their ranges. -/
def Instr.wf (i : Instr) : Bool := decide (i.time < 2 ^ 64) && i.operandsOk

end Sys2Proof
end

