-- ==== Sys2Proof/Tests/Slice0.lean ====
section
/-!
SUPPORT. The model's own tests: an ill-formed term for each check of WellFormed, states and operands that meet the hypotheses
of the statements, clause by clause, and a few values worked out by hand from the manual.
-/
namespace Sys2Proof.Tests
set_option Elab.async false
open Sys2Proof Sys2Proof.Machine

/-! ### Small states -/

/-- An SQ entry: its opcode, CMD_ID 7, and operand fields by byte offset (Table 3.3). -/
def entry (op : Nat) (l : List (Nat × Nat)) : Entry :=
  BitVec.ofNat 512 (l.foldl (fun n p => n + p.2 * 2 ^ (8 * p.1)) (op + 7 * 2 ^ 32))

/-- Bytes of a record: fields of one offset, width and value, the rest zero. -/
def record (n : Nat) (l : List (Nat × Nat × Nat)) : List Byte :=
  l.foldl (fun d p => patch d p.1 (le p.2.1 p.2.2)) (List.replicate n 0)

/-- An empty ring of 16 entries, phase 1. -/
def ring : Machine.Ring :=
  { sqBase := 4096, cqBase := 8192, sqLog := 0, cqLog := 0, weight := 1, vector := 0, cqCount := 1, cqTimeUs := 0,
    sqHead := 0, sqTail := 0, cqHead := 0, cqTail := 0, phase := true, reserved := 0, error := false, cause := .none,
    tails := [], unsignalled := 0, oldest := none, stop := none, closing := false }

/-- A device that has booted, with an admin ring and ring 3 of function 0. -/
def base : State :=
  { State.reset with
    boot := { Boot.reset with
      endpointReady := true, selfTested := true, dramTrained := true, romRunning := false, started := true }
    fw := { Firmware.reset with state := .ready }
    fns := { Func.reset with busMaster := true, enable := true, ready := true, rings := [(0, ring), (3, ring)] } ::
      List.replicate 3 { Func.reset with busMaster := true } }

/-- The admin ring of function 0. -/
def admin : RingRef := { fn := 0, ring := 0 }

/-- A command fetched from the admin ring and waiting. -/
def waiting (e : Entry) : Cmd :=
  { fn := 0, ring := 0, sqHead := 1, doorbell := 0, entry := e, phase := .waiting, muted := false, noDma := false }

/-- A state with one command waiting. -/
def given (s : State) (e : Entry) : State := { s with cmds := [(1, waiting e)] }

/-- What makes a waiting command accepted at 100 ns, as a check. -/
def accepts (op : Nat) (e : Entry) (s : State) : Bool :=
  decide (takeFront op admin e (advance 100 s) = some (1, waiting e)) && !timedOut (accepted 1 100 s) (waiting e) &&
    !badHeader e && (!s.inStandby || decide (op ∈ standbyOpcodes))

/-- A command of the admin ring that is accepted at 100 ns. -/
abbrev Meets (op : Nat) (e : Entry) (s : State) : Prop := Accepts op 100 admin e 1 (waiting e) s

theorem accepts_meets {op : Nat} {e : Entry} {s : State} (h : accepts op e s = true) : Meets op e s := by
  simp only [accepts, Bool.and_eq_true, decide_eq_true_eq, Bool.not_eq_true', Bool.or_eq_true] at h
  exact ⟨h.1.1.1, h.1.1.2, h.1.2, h.2⟩

/-- What holds of an option's value holds of every value it is. -/
theorem every_some {α : Type} {o : Option α} {y : α} {p : α → Prop} (h : o = some y) (hp : p y) :
    ∀ x, o = some x → p x := by
  intro x hx
  rw [h] at hx
  cases hx
  exact hp

/-- The device with its tick machine changed. -/
def ticking (f : Tick → Tick) : State := { base with tick := f base.tick }

def runningState : State := ticking fun k => { k with state := .running, last := some 0 }
def pausedState : State := ticking fun k => { k with state := .paused }
def lostState : State := ticking fun k => { k with state := .lost }

/-- A window opened at 0, in a phase. -/
def window (p : Phase) : Window :=
  { t0 := 0, td := 16567000, tg := 16597000, tf := 16601000, tm := 16604000, te := 16667000, phase := p, halted := false,
    skipped := false }

/-- RUNNING, in a window. -/
def openState : State := ticking fun k => { k with state := .running, last := some 0, window := some (window .opened) }

/-- Tenant 0 with rows, external memory and both Halter units. -/
def contract0 : Contract :=
  { Contract.reset 0 with
    loft := [(0, 4096), (0, 0), (0, 0), (0, 0)], dram := [(dramBase, 2 ^ 30), (0, 0), (0, 0), (0, 0)]
    leases := [{ unit := 0x30, start := 0, stop := 200000 }, { unit := 0x31, start := 0, stop := 200000 }] ++
      List.replicate 14 { unit := 0xFF, start := 0, stop := 0 } }

/-- The device of tenant 0. -/
def owned (s : State) : State := { s with contracts := contract0 :: s.contracts.drop 1 }

/-! ### Commands of groups 0x01 to 0x03 -/

theorem test_identify : ∃ e s, Meets 0x0101 e s ∧ unusedZero e [] = true :=
  ⟨entry 0x0101 [], given base (entry 0x0101 []), accepts_meets (by decide +kernel), by decide +kernel⟩

theorem test_ring_create : ∃ e s, Meets 0x0102 e s ∧ unusedZero e [(16, 5), (22, 4), (32, 16)] = true ∧
    efld e 16 1 ≤ 3 ∧ efld e 17 1 ≠ 0 ∧ efld e 18 1 % 16 ≤ 8 ∧ efld e 18 1 / 16 ≤ 8 ∧ 1 ≤ efld e 19 1 ∧ efld e 19 1 ≤ 16 ∧
    efld e 20 1 ≤ 31 ∧ 1 ≤ efld e 22 2 ∧ efld e 22 2 ≤ 256 ∧ efld e 24 2 ≤ 1000 ∧ efld e 32 8 % 4096 = 0 ∧
    efld e 40 8 % 4096 = 0 ∧ ringBusy s e = false ∧ s.ring (efld e 16 1) (efld e 17 1) = none :=
  let e := entry 0x0102 [(16, 3), (17, 255), (18, 0x88), (19, 16), (20, 31), (22, 256), (24, 1000), (32, 4096), (40, 8192)]
  ⟨e, given base e, accepts_meets (by decide +kernel), by decide +kernel⟩

theorem test_ring_reset : ∃ e s, Meets 0x0103 e s ∧ unusedZero e [(16, 2)] = true ∧ efld e 16 1 ≤ 3 ∧ efld e 17 1 ≠ 0 ∧
    ¬(efld e 16 1 = 0 ∧ efld e 17 1 = 0) ∧ ringBusy s e = false ∧ (s.ring (efld e 16 1) (efld e 17 1)).isSome :=
  let e := entry 0x0103 [(17, 3)]
  ⟨e, given base e, accepts_meets (by decide +kernel), by decide +kernel⟩

theorem test_ring_delete : ∃ e s, Meets 0x0104 e s ∧ unusedZero e [(16, 2)] = true ∧ efld e 16 1 ≤ 3 ∧ efld e 17 1 ≠ 0 ∧
    ¬(efld e 16 1 = 0 ∧ efld e 17 1 = 0) ∧ ringBusy s e = false ∧ (s.ring (efld e 16 1) (efld e 17 1)).isSome :=
  let e := entry 0x0104 [(17, 3)]
  ⟨e, given base e, accepts_meets (by decide +kernel), by decide +kernel⟩

theorem test_arb_set : ∃ e s, Meets 0x0105 e s ∧ unusedZero e [(16, 4)] = true ∧ ∀ i < 4, efld e (16 + i) 1 ≤ 16 :=
  let e := entry 0x0105 [(16, 16), (18, 1)]
  ⟨e, given base e, accepts_meets (by decide +kernel), by decide +kernel⟩

theorem test_fw_update : ∃ e s, Meets 0x0106 e s ∧ s.mayRequest admin.fn = true ∧ unusedZero e [(24, 12)] = true ∧
    s.flash = none ∧ efld e 24 8 % 64 = 0 ∧ 5248 ≤ efld e 32 4 ∧ efld e 32 4 ≤ 2 ^ 25 :=
  let e := entry 0x0106 [(24, 64), (32, 2 ^ 25)]
  ⟨e, given base e, accepts_meets (by decide +kernel), by decide +kernel⟩

theorem test_fw_restart : ∃ e s, Meets 0x0107 e s ∧ unusedZero e [] = true :=
  ⟨entry 0x0107 [], given base (entry 0x0107 []), accepts_meets (by decide +kernel), by decide +kernel⟩

theorem test_device_reset : ∃ e s, Meets 0x0109 e s ∧ unusedZero e [(16, 1)] = true ∧ efld e 16 1 = 0 :=
  ⟨entry 0x0109 [], given base (entry 0x0109 []), accepts_meets (by decide +kernel), by decide +kernel⟩

/-- The hypotheses of every clause of POWER_STATE_SET: to ACTIVE and to DECAF in RUNNING, to STANDBY in STOPPED, and back. -/
theorem test_power_state_set : ∀ p : Fin 4, ∀ s ∈ (if p.val ≤ 1 then
      [runningState, { base with power := { base.power with state := .standby } }] else [base]),
    let e := entry 0x0108 [(16, p.val)]
    Meets 0x0108 e (given s e) ∧ unusedZero e [(16, 1)] = true ∧ efld e 16 1 ≤ 3 ∧ (given s e).power.job = none ∧
    (powerOf (efld e 16 1) = .decaf → longestArmed (foreseen (accepted 1 100 (given s e))) true ≤
      openUs (srcSoon (accepted 1 100 (given s e))) (prmSoon (accepted 1 100 (given s e)))) := by
  have h : ∀ p : Fin 4, ∀ s ∈ (if p.val ≤ 1 then
      [runningState, { base with power := { base.power with state := .standby } }] else [base]),
    let e := entry 0x0108 [(16, p.val)]
    accepts 0x0108 e (given s e) = true ∧ unusedZero e [(16, 1)] = true ∧ efld e 16 1 ≤ 3 ∧ (given s e).power.job = none ∧
    longestArmed (foreseen (accepted 1 100 (given s e))) true ≤
      openUs (srcSoon (accepted 1 100 (given s e))) (prmSoon (accepted 1 100 (given s e))) := by decide +kernel
  intro p s hs
  obtain ⟨h1, h2, h3, h4, h5⟩ := h p s hs
  exact ⟨accepts_meets h1, h2, h3, h4, fun _ => h5⟩

theorem test_partition_set : ∃ e s d, Meets 0x0201 e s ∧ s.mayRequest admin.fn = true ∧ unusedZero e [(24, 12)] = true ∧ efld e 24 8 % 64 = 0 ∧
    efld e 32 4 = 256 ∧ contractOk (accepted 1 100 s) (fit 256 d) = true ∧
    tenantInUse (accepted 1 100 s) (fld (fit 256 d) 0 1) = false ∧
    contractConflict (accepted 1 100 s) (fld (fit 256 d) 0 1) (parseContract (fit 256 d)) = false :=
  let e := entry 0x0201 [(24, 64), (32, 256)]
  ⟨e, given base e, contractRecord 0 contract0, accepts_meets (by decide +kernel), by decide +kernel⟩

theorem test_partition_get : ∃ e s, Meets 0x0202 e s ∧ unusedZero e [(16, 1), (24, 12)] = true ∧ efld e 16 1 ≤ 3 ∧
    efld e 24 8 % 64 = 0 ∧ efld e 32 4 = 256 :=
  let e := entry 0x0202 [(16, 3), (24, 64), (32, 256)]
  ⟨e, given base e, accepts_meets (by decide +kernel), by decide +kernel⟩

theorem test_partition_reset : ∃ e s, Meets 0x0203 e s ∧ unusedZero e [(16, 1)] = true ∧ efld e 16 1 ≤ 3 ∧
    tenantInUse (accepted 1 100 s) (efld e 16 1) = false ∧
    contractConflict (accepted 1 100 s) (efld e 16 1) (.reset (efld e 16 1)) = false :=
  let e := entry 0x0203 [(16, 3)]
  ⟨e, given base e, accepts_meets (by decide +kernel), by decide +kernel⟩

/-- TICK_CONFIG of each source, in STOPPED and at a bound of P. -/
theorem test_tick_config : ∀ code : Fin 3,
    let e := entry 0x0301 [(16, code.val), (17, if code.val = 2 then 3 else 0), (18, 5), (20, 500), (24, 20)]
    let s := given base e
    let a := accepted 1 100 s
    Meets 0x0301 e s ∧ unusedZero e [(16, 12)] = true ∧ efld e 16 1 ≤ 2 ∧
    (if efld e 16 1 = 2 then efld e 17 1 ≤ 3 else efld e 17 1 = 0) ∧ 500 ≤ efld e 20 4 ∧ efld e 20 4 ≤ 200000 ∧
    20 ≤ efld e 24 4 ∧ efld e 24 4 ≤ 2000 ∧ 5 ≤ efld e 18 2 ∧ efld e 18 2 ≤ 100 ∧
    s.tick.qf + s.tick.qe + 1000 * efld e 18 2 ≤ 1000 * efld e 24 4 ∧
    100 ≤ efld e 20 4 - (if efld e 16 1 = 1 then ceilDiv (efld e 20 4) 50 else 0) - efld e 24 4 ∧ s.tick.state ≠ .switching ∧
    (s.tick.state = .running → ({ p := efld e 20 4, r := efld e 24 4, m := efld e 18 2 } : TickParams) = prmSoon s) ∧
    (s.tick.state = .paused → ∀ w, s.tick.switch = some w → w.tk = none) ∧
    longestArmed (foreseen a) (stretchNow a) ≤
      efld e 20 4 - (if efld e 16 1 = 1 then ceilDiv (efld e 20 4) 50 else 0) - efld e 24 4 ∧ s.tick.state = .stopped := by
  have h : ∀ code : Fin 3,
      let e := entry 0x0301 [(16, code.val), (17, if code.val = 2 then 3 else 0), (18, 5), (20, 500), (24, 20)]
      let s := given base e
      let a := accepted 1 100 s
      accepts 0x0301 e s = true ∧ unusedZero e [(16, 12)] = true ∧ efld e 16 1 ≤ 2 ∧
      (if efld e 16 1 = 2 then efld e 17 1 ≤ 3 else efld e 17 1 = 0) ∧ 500 ≤ efld e 20 4 ∧ efld e 20 4 ≤ 200000 ∧
      20 ≤ efld e 24 4 ∧ efld e 24 4 ≤ 2000 ∧ 5 ≤ efld e 18 2 ∧ efld e 18 2 ≤ 100 ∧
      s.tick.qf + s.tick.qe + 1000 * efld e 18 2 ≤ 1000 * efld e 24 4 ∧
      100 ≤ efld e 20 4 - (if efld e 16 1 = 1 then ceilDiv (efld e 20 4) 50 else 0) - efld e 24 4 ∧
      longestArmed (foreseen a) (stretchNow a) ≤
        efld e 20 4 - (if efld e 16 1 = 1 then ceilDiv (efld e 20 4) 50 else 0) - efld e 24 4 := by decide +kernel
  intro code
  obtain ⟨h1, h2, h3, h4, h5, h6, h7, h8, h9, h10, h11, h12, h13⟩ := h code
  exact ⟨accepts_meets h1, h2, h3, h4, h5, h6, h7, h8, h9, h10, h11, h12, nofun, nofun, nofun, h13, rfl⟩

theorem test_tick_start : ∃ e s, Meets 0x0302 e s ∧ unusedZero e [] = true ∧ s.tick.state = .stopped :=
  ⟨entry 0x0302 [], given base (entry 0x0302 []), accepts_meets (by decide +kernel), by decide +kernel⟩

theorem test_tick_status : ∃ e s, Meets 0x0306 e s ∧ unusedZero e [(24, 12)] = true ∧ efld e 24 8 % 64 = 0 ∧
    efld e 32 4 = 128 :=
  let e := entry 0x0306 [(24, 64), (32, 128)]
  ⟨e, given base e, accepts_meets (by decide +kernel), by decide +kernel⟩

/-- PAUSE, RESUME and HALT in the states each of their clauses names: LOST; RUNNING with and without a pause pending; PAUSED with
RESUME pending, with a PAUSE after it, and with neither. -/
theorem test_pause_resume_halt :
    let e := entry 0x0303 [(16, 0xFFFFFFFF)]
    let f := entry 0x0304 [(16, 0xFFFFFFFF)]
    let h := entry 0x0305 []
    let later := ticking fun k => { k with state := .paused, resume := some 500 }
    let again := ticking fun k => { k with state := .paused, resume := some 500, pause := some 900 }
    let pausing := ticking fun k => { k with state := .running, pause := some 900 }
    (∀ s ∈ [lostState, runningState, later], Meets 0x0303 e (given s e) ∧ unusedZero e [(16, 4)] = true) ∧
    (∀ s ∈ [lostState, pausing, again, pausedState], Meets 0x0304 f (given s f) ∧ unusedZero f [(16, 4)] = true) ∧
    (∀ s ∈ [lostState, pausedState, runningState, openState], Meets 0x0305 h (given s h) ∧ unusedZero h [] = true) := by
  intro e f h later again pausing
  have h1 : ∀ s ∈ [lostState, runningState, later], accepts 0x0303 e (given s e) = true := by decide +kernel
  have h2 : ∀ s ∈ [lostState, pausing, again, pausedState], accepts 0x0304 f (given s f) = true := by decide +kernel
  have h3 : ∀ s ∈ [lostState, pausedState, runningState, openState], accepts 0x0305 h (given s h) = true := by
    decide +kernel
  exact ⟨fun s hs => ⟨accepts_meets (h1 s hs), by decide +kernel⟩, fun s hs => ⟨accepts_meets (h2 s hs), by decide +kernel⟩,
    fun s hs => ⟨accepts_meets (h3 s hs), by decide +kernel⟩⟩

/-! ### Commands of groups 0x04, 0x05 and 0x09 -/

/-- MEM_WRITE and MEM_READ at the end of a contract's Loft rows, and of external memory. -/
theorem test_mem : ∀ op ∈ [0x0401, 0x0402], ∀ x ∈ [512 * 4095, dramBase + 2 ^ 30 - 512],
    let e := entry op [(24, 64), (32, 512), (40, x)]
    let s := given (owned base) e
    let a := accepted 1 100 s
    let y := efld e 40 8
    let n := efld e 32 4
    Meets op e s ∧ unusedZero e [(16, 1), (24, 12), (40, 8)] = true ∧ efld e 16 1 ≤ 3 ∧ efld e 24 8 % 64 = 0 ∧ n ≠ 0 ∧
      n ≤ 0x4000000 ∧ (y < 512 * loftRows → y % 512 = 0 ∧ n % 512 = 0) ∧ (dramBase ≤ y → y % 64 = 0 ∧ n % 64 = 0) ∧
      inContract ((foreseen a).contract (efld e 16 1)) (y, n) = true ∧ (dramBase ≤ y → hitsCheck a y n = false) ∧
      (y < 512 * loftRows → s.tick.state ≠ .running ∧ s.tick.state ≠ .switching) ∧
      (y < 512 * loftRows → (s.loft.regions.any fun p => overlap (y / 512, n / 512) (p.2.first, p.2.count)) = false) ∧
      (dramBase ≤ y → s.tick.state = .running ∨ s.tick.state = .switching → hitsBacking a y n = false) := by
  have h : ∀ op ∈ [0x0401, 0x0402], ∀ x ∈ [512 * 4095, dramBase + 2 ^ 30 - 512],
      let e := entry op [(24, 64), (32, 512), (40, x)]
      let s := given (owned base) e
      let a := accepted 1 100 s
      let y := efld e 40 8
      let n := efld e 32 4
      accepts op e s = true ∧ unusedZero e [(16, 1), (24, 12), (40, 8)] = true ∧ efld e 16 1 ≤ 3 ∧ efld e 24 8 % 64 = 0 ∧
        n ≠ 0 ∧ n ≤ 0x4000000 ∧ (y < 512 * loftRows → y % 512 = 0 ∧ n % 512 = 0) ∧ (dramBase ≤ y → y % 64 = 0 ∧ n % 64 = 0) ∧
        inContract ((foreseen a).contract (efld e 16 1)) (y, n) = true ∧ (dramBase ≤ y → hitsCheck a y n = false) := by
    decide +kernel
  intro op ho x hx
  obtain ⟨h1, h2, h3, h4, h5, h6, h7, h8, h9, h10⟩ := h op ho x hx
  exact ⟨accepts_meets h1, h2, h3, h4, h5, h6, h7, h8, h9, h10, fun _ => ⟨nofun, nofun⟩, fun _ => rfl, fun _ _ => rfl⟩

/-- A region of 8 rows. -/
def region (st : RegionState) : Region :=
  { tenant := 0, first := 8, count := 8, backing := dramBase, state := st, failedRows := [] }

/-- The device of tenant 0 with region 5. -/
def regional (st : RegionState) : State := { owned base with loft := { Loft.reset with regions := [(5, region st)] } }

theorem test_resident_define : ∃ e s, Meets 0x0403 e s ∧
    unusedZero e [(16, 2), (20, 8), (32, 8)] = true ∧ efld e 16 1 ≤ 3 ∧ efld e 17 1 ≤ 63 ∧ efld e 24 4 ≠ 0 ∧
    efld e 32 8 % 512 = 0 ∧ (s.tick.state = .stopped ∨ s.tick.state = .paused ∨ s.tick.state = .lost) ∧
    tget (foreseen (accepted 1 100 s)).loft.regions (efld e 17 1) = none ∧
    inContract ((foreseen (accepted 1 100 s)).contract (efld e 16 1)) (512 * efld e 20 4, 512 * efld e 24 4) = true ∧
    efld e 20 4 + efld e 24 4 ≤ loftRows ∧ dramBase ≤ efld e 32 8 ∧
    inContract ((foreseen (accepted 1 100 s)).contract (efld e 16 1)) (efld e 32 8, 512 * efld e 24 4) = true ∧
    rowsTaken (foreseen (accepted 1 100 s)) (efld e 20 4, efld e 24 4) = false ∧
    (((foreseen (accepted 1 100 s)).contract (efld e 16 1)).carafe.2 ≠ 0 →
      overlap (efld e 20 4, efld e 24 4) ((foreseen (accepted 1 100 s)).contract (efld e 16 1)).carafe = false) ∧
    hitsBacking (foreseen (accepted 1 100 s)) (efld e 32 8) (512 * efld e 24 4) = false ∧
    hitsCheck (foreseen (accepted 1 100 s)) (efld e 32 8) (512 * efld e 24 4) = false :=
  let e := entry 0x0403 [(17, 63), (20, 4095), (24, 1), (32, dramBase + 4096)]
  ⟨e, given (regional .defined) e, accepts_meets (by decide +kernel), by decide +kernel⟩

theorem test_resident_load : ∃ e s g, Meets 0x0404 e s ∧ unusedZero e [(17, 1)] = true ∧ efld e 17 1 ≤ 63 ∧
    (s.tick.state = .stopped ∨ s.tick.state = .paused ∨ s.tick.state = .lost) ∧ loadingRegion s (efld e 17 1) = false ∧
    tget s.loft.regions (efld e 17 1) = some g :=
  let e := entry 0x0404 [(17, 5)]
  ⟨e, given (regional .defined) e, region .defined, accepts_meets (by decide +kernel), by decide +kernel⟩

theorem test_resident_delete : ∃ e s g, Meets 0x0405 e s ∧ unusedZero e [(17, 1)] = true ∧ efld e 17 1 ≤ 63 ∧
    (s.tick.state = .stopped ∨ s.tick.state = .paused ∨ s.tick.state = .lost) ∧ loadingRegion s (efld e 17 1) = false ∧
    tget s.loft.regions (efld e 17 1) = some g ∧ (s.drover.graphs.any fun p => namesRegion p.2 (efld e 17 1)) = false :=
  let e := entry 0x0405 [(17, 5)]
  ⟨e, given (regional .loaded) e, region .loaded, accepts_meets (by decide +kernel), by decide +kernel⟩

/-- A LISTED gate of key 1 and an OPEN gate, while windows open and while they do not. -/
theorem test_gate_open : ∀ m ∈ [(7, 0, 0), (3, 1, 15)], ∀ t ∈ [base, runningState],
    let e := entry 0x0406 [(17, 63), (18, m.1), (19, m.2.1), (20, 4095), (24, 1), (28, m.2.2)]
    let s := given (owned t) e
    let f := foreseen (accepted 1 100 s)
    Meets 0x0406 e s ∧ unusedZero e [(16, 13)] = true ∧ efld e 16 1 ≤ 3 ∧ efld e 17 1 ≤ 63 ∧ efld e 18 1 ≤ 7 ∧
      efld e 28 1 ≤ 15 ∧ efld e 24 4 ≠ 0 ∧
      (if (efld e 18 1).testBit 2 then efld e 19 1 = 0 ∧ efld e 28 1 = 0 else efld e 19 1 ≠ 0) ∧
      tget f.loft.gates (efld e 17 1) = none ∧
      inContract (f.contract (efld e 16 1)) (512 * efld e 20 4, 512 * efld e 24 4) = true ∧
      efld e 20 4 + efld e 24 4 ≤ loftRows ∧ rowsTaken f (efld e 20 4, efld e 24 4) = false ∧
      ((f.contract (efld e 16 1)).carafe.2 ≠ 0 →
        overlap (efld e 20 4, efld e 24 4) (f.contract (efld e 16 1)).carafe = false) := by
  have h : ∀ m ∈ [(7, 0, 0), (3, 1, 15)], ∀ t ∈ [base, runningState],
      let e := entry 0x0406 [(17, 63), (18, m.1), (19, m.2.1), (20, 4095), (24, 1), (28, m.2.2)]
      let s := given (owned t) e
      let f := foreseen (accepted 1 100 s)
      accepts 0x0406 e s = true ∧ unusedZero e [(16, 13)] = true ∧ efld e 16 1 ≤ 3 ∧ efld e 17 1 ≤ 63 ∧ efld e 18 1 ≤ 7 ∧
        efld e 28 1 ≤ 15 ∧ efld e 24 4 ≠ 0 ∧
        (if (efld e 18 1).testBit 2 then efld e 19 1 = 0 ∧ efld e 28 1 = 0 else efld e 19 1 ≠ 0) ∧
        tget f.loft.gates (efld e 17 1) = none ∧
        inContract (f.contract (efld e 16 1)) (512 * efld e 20 4, 512 * efld e 24 4) = true ∧
        efld e 20 4 + efld e 24 4 ≤ loftRows ∧ rowsTaken f (efld e 20 4, efld e 24 4) = false ∧
        (f.contract (efld e 16 1)).carafe.2 = 0 := by decide +kernel
  intro m hm t ht
  obtain ⟨h1, h2, h3, h4, h5, h6, h7, h8, h9, h10, h11, h12, h13⟩ := h m hm t ht
  exact ⟨accepts_meets h1, h2, h3, h4, h5, h6, h7, h8, h9, h10, h11, h12, fun hn => absurd h13 hn⟩

def gate : Gate :=
  { tenant := 0, first := 16, count := 8, persistent := true, write := true, openMode := true, key := 0, peer := 0 }

theorem test_gate_close : ∃ e s, Meets 0x0407 e s ∧ unusedZero e [(17, 1)] = true ∧ efld e 17 1 ≤ 63 ∧
    (tget (foreseen (accepted 1 100 s)).loft.gates (efld e 17 1)).isSome ∧
    (s.drover.graphs.any fun p => namesGate p.2 (efld e 17 1)) = false :=
  let e := entry 0x0407 [(17, 9)]
  ⟨e, given { owned base with loft := { Loft.reset with gates := [(9, gate)] } } e, accepts_meets (by decide +kernel),
    by decide +kernel⟩

/-- ECC_REGION_SET: the last range of DRAM on, and a region off. -/
theorem test_ecc_region_set :
    (∃ e s, Meets 0x0408 e s ∧ unusedZero e [(17, 2), (24, 16)] = true ∧ efld e 17 1 ≤ 7 ∧ s.tick.state = .stopped ∧
      efld e 18 1 = 1 ∧ efld e 24 8 % 2 ^ 23 = 0 ∧ efld e 32 8 % 2 ^ 23 = 0 ∧
      inDram (accepted 1 100 s) (efld e 24 8) (efld e 32 8) = true ∧ tget s.dram.ecc (efld e 17 1) = none ∧
      hitsBacking (accepted 1 100 s) (efld e 24 8) (efld e 32 8) = false ∧
      hitsTallyRing (accepted 1 100 s) (efld e 24 8, efld e 32 8) = false ∧
      (s.dram.ecc.any fun p => decide (p.1 ≠ efld e 17 1) && overlap (efld e 24 8, efld e 32 8) p.2) = false) ∧
    ∃ e s q, Meets 0x0408 e s ∧ unusedZero e [(17, 2), (24, 16)] = true ∧ efld e 17 1 ≤ 7 ∧ s.tick.state = .stopped ∧
      efld e 18 1 = 0 ∧ (efld e 24 8, efld e 32 8) = (0, 0) ∧ tget s.dram.ecc (efld e 17 1) = some q :=
  let e := entry 0x0408 [(17, 7), (18, 1), (24, dramBase + base.dramBytes - 2 ^ 23), (32, 2 ^ 23)]
  let f := entry 0x0408 [(17, 2)]
  let s := { base with dram := { Dram.reset with ecc := [(2, (dramBase, 2 ^ 23))] } }
  ⟨⟨e, given s e, accepts_meets (by decide +kernel), by decide +kernel⟩,
    ⟨f, given s f, (dramBase, 2 ^ 23), accepts_meets (by decide +kernel), by decide +kernel⟩⟩

/-- A graph of one tether wait. -/
def waitNode : Node :=
  { kind := .tetherWait, producer := false, consumer := false, tap := false, unit := 0xFF, unitCount := 0, partner := 0xFF,
    port := 0, preds := [], bound := 100, tags := [], endTether := 0, endIncrement := 0, calFirst := 0, calCount := 0,
    replayId := 0, overlays := [{ param := 0, body := 0, len := 2 }], body := record 192 [] }

def graph : Graph :=
  { key := 0, system := false, peerMask := 0, nodes := [waitNode], replays := [], calendar := [], param := record 2 [],
    blob := [], critPath := 100, totalLen := 0, arm := none, systemArm := none, latest := none, activated := false, missed := 0 }

def everyTick : ArmSpec :=
  { mode := .everyTick, ring := none, n := 0, phase := 0, lane := 0, context := 0, tether := 0, startStc := 0 }

/-- A state with a graph in slot 0 of tenant 0. -/
def loaded (s : State) (g : Graph) : State := { s with drover := { s.drover with graphs := [(graphKey 0 0, g)] } }

theorem test_graph_load : ∃ e s, Meets 0x0501 e s ∧ graphBusy s e = false ∧ efld e 16 1 ≤ 3 ∧ efld e 17 1 ≤ 63 ∧
    unusedZero e [(16, 2), (24, 12)] = true ∧ efld e 24 8 % 64 = 0 ∧ efld e 32 4 ≠ 0 ∧ efld e 32 4 ≤ 0x1000000 ∧
    partitionPending s (efld e 16 1) = false :=
  let e := entry 0x0501 [(16, 3), (17, 63), (24, 64), (32, 0x1000000)]
  ⟨e, given base e, accepts_meets (by decide +kernel), by decide +kernel⟩

theorem test_graph_unload : ∃ e s gr, Meets 0x0502 e s ∧ graphBusy s e = false ∧ efld e 16 1 ≤ 3 ∧ efld e 17 1 ≤ 63 ∧
    unusedZero e [(16, 2)] = true ∧ s.graph (graphKey (efld e 16 1) (efld e 17 1)) = some gr ∧
    (∀ x, (foreseen (accepted 1 100 s)).graph (graphKey (efld e 16 1) (efld e 17 1)) = some x → x.isArmed = false) ∧
    s.inst (graphKey (efld e 16 1) (efld e 17 1)) = none :=
  let e := entry 0x0502 []
  ⟨e, given (loaded base graph) e, graph, accepts_meets (by decide +kernel), by decide +kernel, by decide +kernel,
    by decide +kernel, by decide +kernel, by decide +kernel, every_some (y := graph) (by decide +kernel) rfl, by decide +kernel⟩

theorem test_graph_status : ∃ e s gr, Meets 0x0506 e s ∧ graphBusy s e = false ∧ efld e 16 1 ≤ 3 ∧ efld e 17 1 ≤ 63 ∧
    unusedZero e [(16, 2)] = true ∧ s.graph (graphKey (efld e 16 1) (efld e 17 1)) = some gr :=
  let e := entry 0x0506 []
  ⟨e, given (loaded base graph) e, graph, accepts_meets (by decide +kernel), by decide +kernel⟩

/-- GRAPH_ARM of a plain graph and of a SYSTEM graph whose START_STC lies ahead. -/
theorem test_graph_arm : ∀ sys : Bool,
    let e := entry 0x0503 [(19, 0xFF), (28, if sys then 1 else 0)]
    let gr := { graph with system := sys }
    let s := given (loaded (owned runningState) gr) e
    Meets 0x0503 e s ∧ graphBusy s e = false ∧ efld e 16 1 ≤ 3 ∧ efld e 17 1 ≤ 63 ∧
      s.graph (graphKey (efld e 16 1) (efld e 17 1)) = some gr ∧ unusedZero e [(16, 16)] = true ∧ s.tick.state ≠ .lost ∧
      (∀ x ∈ armParams e, x.1 = false) ∧ ∀ x ∈ armChecks e (accepted 1 100 s) gr, x.1 = false := by
  have h : ∀ sys : Bool,
      let e := entry 0x0503 [(19, 0xFF), (28, if sys then 1 else 0)]
      let gr := { graph with system := sys }
      let s := given (loaded (owned runningState) gr) e
      accepts 0x0503 e s = true ∧ graphBusy s e = false ∧ efld e 16 1 ≤ 3 ∧ efld e 17 1 ≤ 63 ∧
        s.graph (graphKey (efld e 16 1) (efld e 17 1)) = some gr ∧ unusedZero e [(16, 16)] = true ∧ s.tick.state ≠ .lost ∧
        (∀ x ∈ armParams e, x.1 = false) ∧ ∀ x ∈ armChecks e (accepted 1 100 s) gr, x.1 = false := by decide +kernel
  intro sys
  obtain ⟨h1, h2⟩ := h sys
  exact ⟨accepts_meets h1, h2⟩

/-- GRAPH_DISARM of a graph with an arm in force, and of one with an arm pending. -/
theorem test_graph_disarm : ∀ soon : Bool,
    let e := entry 0x0504 []
    let gr := if soon then graph else { graph with arm := some { spec := everyTick, openings := 0 } }
    let s := given { loaded base gr with deferred := if soon then [.arm (graphKey 0 0) everyTick] else [] } e
    Meets 0x0504 e s ∧ graphBusy s e = false ∧ efld e 16 1 ≤ 3 ∧ efld e 17 1 ≤ 63 ∧
      s.graph (graphKey (efld e 16 1) (efld e 17 1)) = some gr ∧ unusedZero e [(16, 2)] = true ∧
      (∀ x, (foreseen (accepted 1 100 s)).graph (graphKey (efld e 16 1) (efld e 17 1)) = some x → x.isArmed = true) ∧
      armPending (accepted 1 100 s) (graphKey (efld e 16 1) (efld e 17 1)) = soon := by
  have h : ∀ soon : Bool,
      let e := entry 0x0504 []
      let gr := if soon then graph else { graph with arm := some { spec := everyTick, openings := 0 } }
      let s := given { loaded base gr with deferred := if soon then [.arm (graphKey 0 0) everyTick] else [] } e
      accepts 0x0504 e s = true ∧ graphBusy s e = false ∧ efld e 16 1 ≤ 3 ∧ efld e 17 1 ≤ 63 ∧
        s.graph (graphKey (efld e 16 1) (efld e 17 1)) = some gr ∧ unusedZero e [(16, 2)] = true ∧
        (foreseen (accepted 1 100 s)).graph (graphKey (efld e 16 1) (efld e 17 1)) =
          some { gr with arm := some { spec := everyTick, openings := 0 } } ∧
        armPending (accepted 1 100 s) (graphKey (efld e 16 1) (efld e 17 1)) = soon := by decide +kernel
  intro soon
  obtain ⟨h1, h2, h3, h4, h5, h6, h7, h8⟩ := h soon
  exact ⟨accepts_meets h1, h2, h3, h4, h5, h6, every_some h7 rfl, h8⟩

/-- GRAPH_PARAM_SET of the whole parameter, which is the tether of the wait. -/
theorem test_graph_param_set :
    let e := entry 0x0505 [(20, 2), (24, 127)]
    let s := given (loaded (owned base) graph) e
    let a := accepted 1 100 s
    let d := ebytes e 24 (min (efld e 20 1) 40)
    let bodies := changedBodies graph (patch (paramSoon a (graphKey 0 0) graph) (efld e 18 2) d) (efld e 18 2) (efld e 20 1)
    Meets 0x0505 e s ∧ graphBusy s e = false ∧ efld e 16 1 ≤ 3 ∧ efld e 17 1 ≤ 63 ∧
      s.graph (graphKey (efld e 16 1) (efld e 17 1)) = some graph ∧ unusedZero e [(16, 5), (24, 40)] = true ∧
      1 ≤ efld e 20 1 ∧ efld e 20 1 ≤ 40 ∧ zeros (ebytes e 24 40) (efld e 20 1) (40 - efld e 20 1) = true ∧
      efld e 18 2 + efld e 20 1 ≤ graph.param.length ∧ bodies ≠ [] ∧ (bodies.all fun b => bodyOk a b.1 b.2 graph.blob) = true ∧
      (bodies.all fun b => bodyInside a (efld e 16 1) b.1 b.2 graph.blob) = true :=
  ⟨accepts_meets (by decide +kernel), by decide +kernel⟩

/-- A node that has run since 0, and an instance of the graph. -/
def nodeRun : NodeRun :=
  { phase := .running 0, body := waitNode.body, marks := [], calUsed := [], started := true, input := none,
    carafePage := none, weightState := 0, sent := 0, acked := 0, heads := [], wrote := [], streamed := 0, tapped := 0,
    taken := [] }

def inst0 : Inst :=
  { activated := 0, order := 0, tickno := 0, stc := 0, spec := everyTick, nodes := [nodeRun], replays := [], closed := false,
    halted := false, firstCut := none, staged := [], droppedPages := 0, faulted := false, aborted := false }

/-- The graph with an active instance. -/
def active (s : State) (g : Graph) (i : Inst) : State :=
  { s with drover := { s.drover with graphs := [(graphKey 0 0, g)], insts := [(graphKey 0 0, i)] } }

theorem test_frame_abort : ∀ sys : Bool,
    let e := entry 0x0507 [(18, b2n sys)]
    let gr := { graph with system := sys }
    let s := given (active openState gr inst0) e
    Meets 0x0507 e s ∧ unusedZero e [(16, 3)] = true ∧ graphBusy s e = false ∧ efld e 16 1 ≤ 3 ∧ efld e 17 1 ≤ 63 ∧
      efld e 18 1 ≤ 1 ∧ s.tick.state = .running ∧ s.graph (graphKey (efld e 16 1) (efld e 17 1)) = some gr ∧
      s.inst (graphKey (efld e 16 1) (efld e 17 1)) = some inst0 ∧ efld e 18 1 = b2n sys := by
  have h : ∀ sys : Bool,
      let e := entry 0x0507 [(18, b2n sys)]
      let gr := { graph with system := sys }
      let s := given (active openState gr inst0) e
      accepts 0x0507 e s = true ∧ unusedZero e [(16, 3)] = true ∧ graphBusy s e = false ∧ efld e 16 1 ≤ 3 ∧
        efld e 17 1 ≤ 63 ∧ efld e 18 1 ≤ 1 ∧ s.tick.state = .running ∧
        s.graph (graphKey (efld e 16 1) (efld e 17 1)) = some gr ∧
        s.inst (graphKey (efld e 16 1) (efld e 17 1)) = some inst0 ∧ efld e 18 1 = b2n sys := by decide +kernel
  intro sys
  obtain ⟨h1, h2⟩ := h sys
  exact ⟨accepts_meets h1, h2⟩

theorem test_tether_signal : ∃ e s w, Meets 0x0901 e s ∧ unusedZero e [(16, 4)] = true ∧ efld e 16 2 ≤ 511 ∧
    efld e 18 2 ≠ 0 ∧ s.tick.state = .running ∧ s.tick.window = some w ∧ (accepted 1 100 s).now < w.td :=
  let e := entry 0x0901 [(16, 511), (18, 0xFFFF)]
  ⟨e, given openState e, window .opened, accepts_meets (by decide +kernel), by decide +kernel⟩

theorem test_tether_read : ∃ e s, Meets 0x0902 e s ∧ unusedZero e [(16, 2)] = true ∧ efld e 16 2 ≤ 511 :=
  let e := entry 0x0902 [(16, 511)]
  ⟨e, given base e, accepts_meets (by decide +kernel), by decide +kernel⟩

/-! ### Commands of groups 0x06, 0x07, 0x08, 0x0A, 0x0B and 0x0C -/

theorem test_port_config : ∀ cphy : Bool,
    let e := entry 0x0601 [(16, 7), (17, b2n cphy), (18, if cphy then 3 else 4), (20, if cphy then 4500 else 80)]
    let s := given base e
    Meets 0x0601 e s ∧ unusedZero e [(16, 3), (20, 4)] = true ∧ efld e 16 1 ≤ 7 ∧ efld e 17 1 ≤ 1 ∧
      efld e 18 1 ∈ (if efld e 17 1 = 0 then [1, 2, 4] else [1, 2, 3]) ∧ 80 ≤ efld e 20 4 ∧ efld e 20 4 ≤ 4500 ∧
      ∀ x ∈ s.ctxs, ∀ y, x.bindingSoon = some y → y.port ≠ efld e 16 1 := by
  have h : ∀ cphy : Bool,
      let e := entry 0x0601 [(16, 7), (17, b2n cphy), (18, if cphy then 3 else 4), (20, if cphy then 4500 else 80)]
      let s := given base e
      accepts 0x0601 e s = true ∧ unusedZero e [(16, 3), (20, 4)] = true ∧ efld e 16 1 ≤ 7 ∧ efld e 17 1 ≤ 1 ∧
        efld e 18 1 ∈ (if efld e 17 1 = 0 then [1, 2, 4] else [1, 2, 3]) ∧ 80 ≤ efld e 20 4 ∧ efld e 20 4 ≤ 4500 ∧
        ∀ x ∈ s.ctxs, x.bindingSoon = none := by decide +kernel
  intro cphy
  obtain ⟨h1, h2, h3, h4, h5, h6, h7, h8⟩ := h cphy
  exact ⟨accepts_meets h1, h2, h3, h4, h5, h6, h7, fun x hx y hy => by rw [h8 x hx] at hy; cases hy⟩

/-- LANE_BIND of the last context to the last stream, and its unbinding. -/
theorem test_lane_bind :
    let e := entry 0x0602 [(16, 3), (17, 7), (18, 3), (19, 7), (20, 15), (21, 0x37)]
    let f := entry 0x0602 [(16, 3), (17, 7), (18, 3), (22, 1)]
    let s := given base e
    (Meets 0x0602 e s ∧ efld e 16 1 ≤ 3 ∧ efld e 17 1 ≤ 7 ∧ efld e 18 1 ≤ 3 ∧ efld e 22 1 = 0 ∧
      unusedZero e [(16, 7)] = true ∧ efld e 19 1 ≤ 7 ∧ efld e 20 1 ≤ 15 ∧ dtBindable (efld e 21 1) = true ∧
      ∀ j < 32, j ≠ 4 * efld e 17 1 + efld e 18 1 → ∀ y, (s.ctx j).bindingSoon = some y →
        ¬(y.port = efld e 19 1 ∧ y.vc = efld e 20 1 ∧ y.dtype = efld e 21 1)) ∧
    Meets 0x0602 f (given base f) ∧ efld f 16 1 ≤ 3 ∧ efld f 17 1 ≤ 7 ∧ efld f 18 1 ≤ 3 ∧ efld f 22 1 = 1 ∧
      unusedZero f [(16, 3), (22, 1)] = true := by
  intro e f s
  have h : ∀ j < 32, (s.ctx j).bindingSoon = none := by decide +kernel
  have h1 : efld e 16 1 ≤ 3 ∧ efld e 17 1 ≤ 7 ∧ efld e 18 1 ≤ 3 ∧ efld e 22 1 = 0 ∧ unusedZero e [(16, 7)] = true ∧
      efld e 19 1 ≤ 7 ∧ efld e 20 1 ≤ 15 ∧ dtBindable (efld e 21 1) = true := by decide +kernel
  obtain ⟨h1, h2, h3, h4, h5, h6, h7, h8⟩ := h1
  exact ⟨⟨accepts_meets (by decide +kernel), h1, h2, h3, h4, h5, h6, h7, h8,
    fun j hj _ y hy => by rw [h j hj] at hy; cases hy⟩, accepts_meets (by decide +kernel), by decide +kernel⟩

def binding : Binding := { tenant := 0, port := 1, vc := 0, dtype := 0x2A }

/-- A context image of 16 × 2 pixels passed on as they come: region at row 0, record in row 100. -/
def image : List Byte :=
  [16, 0, 2, 0, 0, 0, 6, 0, 0, 0, 0, 0, 64, 0, 0, 0, 0, 0, 0, 0, 0, 0, 0, 0, 0, 0, 0, 0, 0, 0, 0, 0, 0, 0, 0, 0, 100, 0, 0, 0] ++
    List.replicate 8664 0

/-- Beyond its first bytes the image reads zero. -/
theorem slice_zero {p : List Byte} {n o w : Nat} (h : p.length ≤ o) :
    slice (p ++ List.replicate n 0) o w = List.replicate w 0 := by
  unfold slice
  dsimp only
  rw [List.drop_append, List.drop_eq_nil_of_le h, List.nil_append, List.drop_replicate, List.take_replicate,
    List.length_replicate, List.replicate_append_replicate]
  congr 1
  omega

theorem image_length : image.length = 8704 := by
  rw [image, List.length_append, List.length_replicate]
  rfl

theorem fit_image : fit 8704 image = image := fit_self image_length

theorem zeros_image {o w : Nat} (h : 40 ≤ o) : zeros image o w = true := by
  unfold zeros image
  rw [slice_zero (show 40 ≤ o from h)]
  simp

theorem image_ok : contextImageOk binding.dtype image = true := by
  have hg : ∀ b, gridOk b image = true := by
    intro b
    simp only [gridOk, List.all_eq_true]
    intro p _ j _ i _
    rw [zeros_image (by omega)]
    simp
  unfold contextImageOk
  simp (disch := decide) only [hg, zeros_image]
  decide +kernel

/-- The device of tenant 0 with context 0 bound. -/
def boundState (s : State) : State :=
  { owned s with ctxs := { Ctx.reset with binding := some binding } :: List.replicate 31 .reset }

theorem test_lane_context_set :
    let e := entry 0x0603 [(24, 64), (32, 8704)]
    let s := given (boundState base) e
    Meets 0x0603 e s ∧ s.mayRequest admin.fn = true ∧ unusedZero e [(16, 3), (24, 12)] = true ∧ efld e 16 1 ≤ 3 ∧
      efld e 17 1 ≤ 7 ∧ efld e 18 1 ≤ 3 ∧ efld e 32 4 = 8704 ∧ efld e 24 8 % 64 = 0 ∧
      ((s.ctx (4 * efld e 17 1 + efld e 18 1)).bindingSoon.any fun y => decide (y.tenant = efld e 16 1)) = true ∧
      ∀ x ∈ contextChecks (accepted 1 100 s) (efld e 16 1) (s.ctx (4 * efld e 17 1 + efld e 18 1)).bindingSoon
        (fit 8704 image), x.1 = false :=
  ⟨accepts_meets (by decide +kernel), by decide +kernel, by decide +kernel, by decide +kernel, by decide +kernel,
    by decide +kernel, by decide +kernel, by decide +kernel, by decide +kernel, by
    rw [fit_image]
    unfold contextChecks
    rw [show (State.ctx _ _).bindingSoon = some binding from by decide +kernel]
    dsimp only
    rw [image_ok]
    decide +kernel⟩

/-- One write record of a byte, one read record of two bytes at register 5, and END. -/
def records : List Byte := [1, 1, 0, 0, 0x42, 0, 0, 0, 2, 1, 2, 0, 5, 0, 0, 0, 0, 0, 0, 0]

theorem test_sensor_xfer :
    let e := entry 0x0605 [(18, 2), (19, 127), (20, 1000), (24, 64), (32, 20)]
    let s := given runningState e
    let a := accepted 1 100 s
    Meets 0x0605 e s ∧ s.mayRequest admin.fn = true ∧ unusedZero e [(16, 8), (24, 12)] = true ∧ efld e 16 1 ≤ 3 ∧
      efld e 17 1 ≤ 7 ∧ efld e 18 1 ≤ 2 ∧ efld e 19 1 ≤ 127 ∧ efld e 20 4 < openUs s.tick.source s.tick.prm ∧
      efld e 20 4 < openUs (srcSoon a) (prmSoon a) ∧ s.tick.state = .running ∧
      xfersHeld a (efld e 17 1) < 16 ∧ efld e 24 8 % 64 = 0 ∧ efld e 32 4 ≠ 0 ∧ efld e 32 4 ≤ 4096 ∧
      xferOk (fit (efld e 32 4) records) 1025 0 = true :=
  ⟨accepts_meets (by decide +kernel), by decide +kernel⟩

/-- FSYNC_SET whose pulse ends at the end of OPEN, and to disable. -/
theorem test_fsync_set :
    let e := entry 0x0604 [(16, 7), (17, 1), (20, 6567), (24, 10000), (28, 1)]
    let f := entry 0x0604 [(16, 7)]
    let a := accepted 1 100 (given base e)
    (Meets 0x0604 e (given base e) ∧ efld e 16 1 ≤ 7 ∧ efld e 17 1 = 1 ∧ unusedZero e [(16, 2), (20, 10)] = true ∧
      1 ≤ efld e 24 4 ∧ efld e 24 4 ≤ 10000 ∧ efld e 28 2 ≠ 0 ∧
      efld e 20 4 + efld e 24 4 ≤ openUs base.tick.source base.tick.prm ∧
      efld e 20 4 + efld e 24 4 ≤ openUs (srcSoon a) (prmSoon a)) ∧
    Meets 0x0604 f (given base f) ∧ efld f 16 1 ≤ 7 ∧ efld f 17 1 = 0 ∧ unusedZero f [(16, 2)] = true :=
  ⟨⟨accepts_meets (by decide +kernel), by decide +kernel⟩, accepts_meets (by decide +kernel), by decide +kernel⟩

/-- A Halter configuration: every tenant, times of 100 µs, one STOP volume on pair 0. -/
def halterRecord : List Byte :=
  record 704 [(0, 4, 0x544C4148), (4, 1, 1), (5, 1, 15), (8, 4, 100), (12, 4, 100), (16, 4, 100), (20, 1, 2), (64, 1, 1), (66, 2, 1),
    (72, 2, 4095), (76, 2, 8191), (80, 2, 0x7FF0)]

/-- Halter unit 1 configured and enabled. -/
def guarded (s : State) (x : Halter) : State := { owned s with halters := [.reset, x] }

theorem test_halter_config :
    let e := entry 0x0701 [(16, 0x31), (24, 64), (32, 704)]
    let s := given (owned base) e
    Meets 0x0701 e s ∧ s.mayRequest admin.fn = true ∧ (efld e 16 1 = 0x30 ∨ efld e 16 1 = 0x31) ∧
      (halterTenant (foreseen (accepted 1 100 s)) (efld e 16 1 - 0x30)).isSome ∧ unusedZero e [(16, 1), (24, 12)] = true ∧
      efld e 24 8 % 64 = 0 ∧ efld e 32 4 = 704 ∧ halterConfigOk (fit 704 halterRecord) = true :=
  ⟨accepts_meets (by decide +kernel), by decide +kernel⟩

theorem test_halter_enable :
    let e := entry 0x0702 [(16, 0x31), (17, 1)]
    let s := given (guarded base { Halter.reset with config := some halterRecord }) e
    Meets 0x0702 e s ∧ (efld e 16 1 = 0x30 ∨ efld e 16 1 = 0x31) ∧
      (halterTenant (foreseen (accepted 1 100 s)) (efld e 16 1 - 0x30)).isSome ∧ unusedZero e [(16, 2)] = true ∧
      efld e 17 1 ≤ 1 ∧ (efld e 17 1 = 1 → ((foreseen (accepted 1 100 s)).halter (efld e 16 1 - 0x30)).config.isSome) :=
  ⟨accepts_meets (by decide +kernel), by decide +kernel⟩

/-- A route table for chip 0 alone, with its CRC. -/
def routesImage : List Byte :=
  record 192 ([(0, 4, 0x4C425452), (4, 1, 1), (6, 1, 1), (8, 4, 200), (60, 4, 3238365430)] ++
    (List.range 15).map fun c => (64 + 4 * (c + 1), 1, 0xFF))

theorem routesImage_crc : crcSkip (fit 192 routesImage) 60 = 3238365430 := by
  rw [crcSkip, crc32_forced]
  decide +kernel

theorem routesImage_ok : routesOk 0 (fit 192 routesImage) = true := by
  unfold routesOk
  rw [routesImage_crc]
  decide +kernel

theorem test_route_load :
    let e := entry 0x0801 [(16, 1), (24, 64), (32, 192)]
    let s := given base e
    Meets 0x0801 e s ∧ s.mayRequest admin.fn = true ∧ unusedZero e [(16, 1), (24, 12)] = true ∧ efld e 16 1 ≤ 1 ∧ efld e 24 8 % 64 = 0 ∧ efld e 32 4 = 192 ∧
      efld e 16 1 ≠ s.fabric.epoch ∧ s.fabric.switch = none ∧
      routesOk s.boot.config.chip (fit 192 routesImage) = true :=
  ⟨accepts_meets (by decide +kernel), by decide +kernel, by decide +kernel, by decide +kernel, by decide +kernel,
    by decide +kernel, by decide +kernel, rfl, routesImage_ok⟩

theorem test_epoch_switch :
    let e := entry 0x0802 [(16, 1)]
    let s := given pausedState e
    Meets 0x0802 e s ∧ unusedZero e [(16, 1)] = true ∧ efld e 16 1 ≤ 1 ∧
      (s.tick.state = .running ∨ s.tick.state = .paused) ∧ efld e 16 1 ≠ s.fabric.epoch ∧ s.fabric.switch = none :=
  ⟨accepts_meets (by decide +kernel), by decide +kernel⟩

/-- A P-link port in a state since 0. -/
def linked (s : State) (x : PLink) : State := { s with links := x :: List.replicate 3 .reset }
def upLink : PLink := { PLink.reset with state := .up, tenantOk := true, neighbour := 1, delay := 100 }

/-- PLINK_CONTROL: enable a DISABLED port, disable, and take an UP port down. -/
theorem test_plink_control :
    let e := entry 0x0803 []
    let f := entry 0x0803 [(16, 3), (17, 1)]
    let g := entry 0x0803 [(17, 2)]
    (Meets 0x0803 e (given base e) ∧ unusedZero e [(16, 2)] = true ∧ efld e 16 1 ≤ 3 ∧ efld e 17 1 = 0 ∧
      ((given base e).plink (efld e 16 1)).state = .disabled) ∧
    (Meets 0x0803 f (given base f) ∧ unusedZero f [(16, 2)] = true ∧ efld f 16 1 ≤ 3 ∧ efld f 17 1 = 1) ∧
    Meets 0x0803 g (given (linked base upLink) g) ∧ unusedZero g [(16, 2)] = true ∧ efld g 16 1 ≤ 3 ∧ efld g 17 1 = 2 ∧
      ((given (linked base upLink) g).plink (efld g 16 1)).state = .up :=
  ⟨⟨accepts_meets (by decide +kernel), by decide +kernel⟩, ⟨accepts_meets (by decide +kernel), by decide +kernel⟩,
    accepts_meets (by decide +kernel), by decide +kernel⟩

def resultRing : ResultRing :=
  { descLog := 0, vector := 1, resCount := 1, resTimeUs := 10, descBase := 4096, pageBase := 8192, pageCount := 4, tail := 0,
    head := 0, pagePtr := 0, live := [], written := 0, lost := 0, frozen := false, queue := [], unsignalled := 0, oldest := none }

/-- Tenant 0 has result ring 2. -/
def egress (s : State) (g : ResultRing) : State := { s with egress := { s.egress with rings := [(2, g)] } }

theorem test_result_ring_create :
    let e := entry 0x0A01 [(16, 3), (17, 63), (18, 8), (19, 31), (20, 256), (22, 1000), (24, 4096), (32, 8192), (40, 1048576)]
    let s := given base e
    Meets 0x0A01 e s ∧ unusedZero e [(16, 28)] = true ∧ efld e 16 1 ≤ 3 ∧ efld e 17 1 ≤ 63 ∧ efld e 18 1 ≤ 8 ∧
      efld e 19 1 ≤ 31 ∧ 1 ≤ efld e 20 2 ∧ efld e 20 2 ≤ 256 ∧ efld e 22 2 ≤ 1000 ∧ efld e 24 8 % 4096 = 0 ∧
      efld e 32 8 % 4096 = 0 ∧ 1 ≤ efld e 40 4 ∧ efld e 40 4 ≤ 1048576 ∧ s.resultRing (efld e 16 1) (efld e 17 1) = none :=
  ⟨accepts_meets (by decide +kernel), by decide +kernel⟩

theorem test_result_ring_delete :
    let e := entry 0x0A02 [(17, 2)]
    let s := given (egress base resultRing) e
    Meets 0x0A02 e s ∧ unusedZero e [(16, 2)] = true ∧ efld e 16 1 ≤ 3 ∧ efld e 17 1 ≤ 63 ∧
      (s.resultRing (efld e 16 1) (efld e 17 1)).isSome ∧ ringNamed (accepted 1 100 s) (efld e 16 1) (efld e 17 1) = false :=
  ⟨accepts_meets (by decide +kernel), by decide +kernel⟩

/-- A Tally configuration with the ring of 64 KiB at the start of DRAM and the trace port. -/
def tallyRecord : List Byte :=
  record 320 [(0, 4, 0x47464354), (4, 1, 1), (5, 1, 3), (7, 1, 15), (8, 2, 2047), (10, 1, 15), (16, 8, dramBase), (24, 8, 0x10000)]

theorem test_tally_config :
    let e := entry 0x0B01 [(24, 64), (32, 320)]
    let s := given base e
    Meets 0x0B01 e s ∧ s.mayRequest admin.fn = true ∧ unusedZero e [(24, 12)] = true ∧ efld e 24 8 % 64 = 0 ∧ efld e 32 4 = 320 ∧
      tallyOk (accepted 1 100 s) (fit 320 tallyRecord) = true :=
  ⟨accepts_meets (by decide +kernel), by decide +kernel⟩

/-- A configured trace. -/
def traced (t : Tally) : State := { base with tally := { t with config := some (parseTally tallyRecord) } }

/-- TALLY_CONTROL: START of a configured trace; STOP of a running one; STOP of a pending START. -/
theorem test_tally_control :
    let e := entry 0x0B02 [(16, 1)]
    let f := entry 0x0B02 []
    let s := given (traced .reset) e
    let u := given (traced { Tally.reset with state := .running }) f
    let v := given { traced .reset with deferred := [.tallyStart] } f
    (Meets 0x0B02 e s ∧ unusedZero e [(16, 1)] = true ∧ efld e 16 1 = 1 ∧
      (foreseen (accepted 1 100 s)).tally.config.isSome ∧ (foreseen (accepted 1 100 s)).tally.state ≠ .running) ∧
    (Meets 0x0B02 f u ∧ unusedZero f [(16, 1)] = true ∧ efld f 16 1 = 0 ∧
      (foreseen (accepted 1 100 u)).tally.state = .running ∧ startPending (accepted 1 100 u) = false) ∧
    Meets 0x0B02 f v ∧ (foreseen (accepted 1 100 v)).tally.state = .running ∧ startPending (accepted 1 100 v) = true :=
  ⟨⟨accepts_meets (by decide +kernel), by decide +kernel⟩, ⟨accepts_meets (by decide +kernel), by decide +kernel⟩,
    accepts_meets (by decide +kernel), by decide +kernel⟩

theorem test_telemetry_read :
    let e := entry 0x0B03 [(16, 1), (17, 7), (24, 64), (32, 65536)]
    let s := given base e
    Meets 0x0B03 e s ∧ unusedZero e [(16, 2), (24, 12)] = true ∧ telemetryIndices (efld e 16 1) = some 8 ∧
      efld e 17 1 < 8 ∧ efld e 24 8 % 64 = 0 ∧ efld e 32 4 ≠ 0 ∧ efld e 32 4 ≤ 65536 :=
  ⟨accepts_meets (by decide +kernel), by decide +kernel⟩

theorem test_debug_peek : ∀ n ∈ [1, 2],
    let e := entry 0x0C01 [(16, 0x44), (20, 8), (24, n)]
    let s := given base e
    Meets 0x0C01 e s ∧ unitCode (efld e 16 1) = true ∧ efld e 20 4 % 4 = 0 ∧ unusedZero e [(16, 1), (20, 5)] = true ∧
      (efld e 24 1 = 1 ∨ efld e 24 1 = 2) := by
  have h : ∀ n ∈ [1, 2],
      let e := entry 0x0C01 [(16, 0x44), (20, 8), (24, n)]
      let s := given base e
      accepts 0x0C01 e s = true ∧ unitCode (efld e 16 1) = true ∧ efld e 20 4 % 4 = 0 ∧
        unusedZero e [(16, 1), (20, 5)] = true ∧ (efld e 24 1 = 1 ∨ efld e 24 1 = 2) := by decide +kernel
  exact fun n hn => ⟨accepts_meets (h n hn).1, (h n hn).2⟩

theorem test_debug_poke :
    let e := entry 0x0C02 [(16, 0x44), (20, 8), (24, 5), (28, 0xFFFFFFFF)]
    let s := given base e
    Meets 0x0C02 e s ∧ unitCode (efld e 16 1) = true ∧ efld e 20 4 % 4 = 0 ∧ unusedZero e [(16, 1), (20, 12)] = true ∧
      pokeBusy (accepted 1 100 s) (efld e 16 1) = false :=
  ⟨accepts_meets (by decide +kernel), by decide +kernel⟩

/-! ### Host transactions -/

/-- base runs, and its endpoint is ready: the hypotheses of every statement about a host transaction. -/
theorem test_running : base.alive = true ∧ base.boot.endpointReady = true ∧ base.linkUp = true := by decide

/-- Doorbells: a ring that exists and one that does not, and ring 0 of a function whose ENABLE is 0; tails that stay, move to the last place, and lie past the depth;
heads that stay and that pass the tail. -/
theorem test_doorbell_cases : base.ring 0 9 = none ∧ (base.fn 1).enable = false ∧ base.ring 0 3 = some ring ∧
    (0x1000#32).toNat % 4096 = ring.sqTail ∧ (15#32).toNat % 4096 = 15 ∧ 15 < 2 ^ (ring.sqLog + 4) ∧ 15 ≠ ring.sqTail ∧
    (ring.sqTail + 16 - ring.sqHead) % 16 ≤ (15 + 16 - ring.sqHead) % 16 ∧
    (16#32).toNat % 4096 = 16 ∧ ¬(16 < 2 ^ (ring.sqLog + 4)) ∧
    (0 + 16 - ring.cqHead) % 16 ≤ (ring.cqTail + 16 - ring.cqHead) % 16 ∧
    ¬((1 + 16 - ring.cqHead) % 16 ≤ (ring.cqTail + 16 - ring.cqHead) % 16) :=
  ⟨rfl, rfl, rfl, rfl, rfl, by decide, by decide, by decide, rfl, by decide, by decide, by decide⟩

/-- Result heads: no ring; a ring of one live descriptor and heads 1 and 2. -/
theorem test_result_head_cases :
    let g := { resultRing with tail := 1, live := [(0, 1)] }
    let s := egress base g
    base.resultRing 0 2 = none ∧ s.resultRing 0 2 = some g ∧ s.alive = true ∧ s.boot.endpointReady = true ∧
      1 < 2 ^ (g.descLog + 4) ∧ (1 + 16 - g.head) % 16 + unsentDescriptors s 0 2 ≤ g.live.length ∧
      ¬((2 + 16 - g.head) % 16 + unsentDescriptors s 0 2 ≤ g.live.length) := by
  decide +kernel

theorem shape_base : base.shape := by
  unfold State.shape
  refine ⟨rfl, rfl, rfl, rfl, rfl, rfl, rfl, rfl, rfl, ?_, rfl, rfl⟩
  show (List.replicate 512 _).length = 512
  exact List.length_replicate ..

/-- A device whose function 1 has an admin ring of a size of its own, and firmware that is restarting or ready. -/
def sized (log : Nat) (st : FwState) : State :=
  { base with
    fw := { base.fw with state := st }
    fns := base.fns.set 1 { Func.reset with adminSqLog := log, adminCqLog := log } }

/-- A device whose function 0 is disabled, with its ring 0 still there. -/
def closingState : State := { base with fns := base.fns.modify 0 fun x => { x with enable := false } }

/-- ADMIN_ENABLE of an enabled function, of one whose ring 0 still closes, of one with sizes at their bound while firmware is ready
and while it is not, and of one with a size past it. -/
theorem test_admin_enable : (base.fn 0).enable = true ∧
    ((closingState.fn 0).enable = false ∧ closingState.ring 0 0 = some ring ∧ closingState.shape) ∧
    (sized 8 .ready).ring 1 0 = none ∧ (sized 8 .restarting).ring 1 0 = none ∧ (sized 9 .ready).ring 1 0 = none ∧ (∀ st ∈ [FwState.ready, .restarting],
      ((sized 8 st).fn 1).enable = false ∧ (sized 8 st).shape ∧ ((sized 8 st).fn 1).adminSqLog ≤ 8 ∧
      ((sized 8 st).fn 1).adminCqLog ≤ 8) ∧ ((sized 8 .restarting).fw.state ≠ .ready) ∧
    ((sized 9 .ready).fn 1).enable = false ∧ (sized 9 .ready).shape ∧ 8 < ((sized 9 .ready).fn 1).adminSqLog := by
  have h := shape_base
  refine ⟨rfl, ⟨rfl, rfl, h⟩, rfl, rfl, rfl, fun st _ => ⟨rfl, h, Nat.le_refl 8, Nat.le_refl 8⟩, nofun, rfl, h,
    Nat.lt_succ_self 8⟩

/-- Accesses to registers: whole and aligned; covering a doorbell in part, of two rings at once, from before the first and up to
the last; covering doorbells whole, or none. -/
theorem test_register_cases : (0xC#20).toNat % 4 = 0 ∧ ¬(4 = 4 ∧ (0x10006#20).toNat % 4 = 0) ∧
    partRings (0x10006#20).toNat 4 = [0, 1] ∧ ¬(3 = 4 ∧ (0x0FFFE#20).toNat % 4 = 0) ∧ partRings (0x0FFFE#20).toNat 3 = [0] ∧
    ¬(8 = 4 ∧ (0x107F8#20).toNat % 4 = 0) ∧ partRings (0x107F8#20).toNat 8 = [] ∧ partRings (0x107FD#20).toNat 4 = [255] ∧
    partRings (0x10800#20).toNat 2 = [] := by decide +kernel

/-- A read of DEVICE_TIME_LO needs a device of all its functions. -/
theorem test_device_time_lo : base.alive = true ∧ base.boot.endpointReady = true ∧ base.linkUp = true ∧ base.shape :=
  ⟨rfl, rfl, rfl, shape_base⟩

/-- BAR2 reads: in STANDBY; of a row the contract lacks; of the last bytes of the last row it has. -/
theorem test_bar2_read_cases :
    let asleep := { base with power := { base.power with state := .standby } }
    let x : BitVec 29 := BitVec.ofNat 29 (512 * 4095 + 508)
    let row := x.toNat / 512
    let h : State := { advance 100 (owned base) with linkUp := true }
    asleep.inStandby = true ∧ base.inStandby = false ∧ x.toNat % 512 + 4 ≤ 512 ∧ bar2Reaches base 0 row = false ∧
      bar2Reaches (owned base) 0 row = true ∧ rowBad (owned base) row = false ∧
      (∀ p ∈ [(7, ([] : Flips))], p.1 ≠ row) ∧ tget (owned base).loft.refills row = none ∧
      cycleFree h (stallOf row) = true ∧ Machine.ready h (stallOf row) = [] ∧ (owned base).inStandby = false := by decide +kernel

/-- A ring with one entry to fetch: a grant for the admin ring, 250 ns after the last. -/
theorem test_fetch_grant :
    let g := { ring with sqTail := 1, tails := [{ tail := 1, time := 5 }] }
    let s := { base with
      fns := { base.fn 0 with rings := [(0, g)] } :: base.fns.drop 1, arb := { Arb.reset with lastGrant := some 0 } }
    s.alive = true ∧ s.fw.state = .ready ∧ outstanding (advance 250 s) < 64 ∧
      (∀ x, s.arb.lastGrant = some x → x + 250 ≤ (advance 250 s).now) ∧
      nextGrant (advance 250 s) = some (0, 0, { s.arb with adminPtr := 1 }) ∧ s.ring 0 0 = some g := by
  intro g s
  exact ⟨by decide +kernel, rfl, by decide +kernel, every_some (y := 0) rfl (by decide +kernel), by decide +kernel, rfl⟩

theorem test_entry_read :
    let c := { waiting 0 with phase := .reading }
    let s := { base with cmds := [(4, c)] }
    s.alive = true ∧ readingCmd s 0 0 = some (4, c) := by decide +kernel

theorem test_moderation :
    let g := { ring with unsignalled := 1, oldest := some 0, cqTimeUs := 10, cqCount := 4 }
    let s := { base with fns := { base.fn 0 with rings := [(0, g)] } :: base.fns.drop 1 }
    s.alive = true ∧ s.ring 0 0 = some g ∧ g.oldest = some 0 ∧ 0 + 1000 * g.cqTimeUs ≤ (advance 10000 s).now := by
  decide +kernel

/-- Firmware: a restart that is due; a restart in progress for 200 ms; firmware that may crash. -/
theorem test_firmware_cases :
    let due := { base with fw := { base.fw with restartDue := true } }
    let busy := { base with fw := { base.fw with state := .restarting, restartSince := some 0 } }
    (0 + 200000000 < (advance 200000001 busy).now ∧
      ∀ x ∈ busy.fw.restartSince, (advance 200000000 busy).now ≤ x + 200000000) ∧
    (due.alive = true ∧ due.fw.restartDue = true ∧ due.fw.state = .ready ∧ canRestart due = true) ∧
    (busy.alive = true ∧ busy.fw.state = .restarting ∧ busy.fw.restartSince = some 0 ∧
      0 + 200000000 ≤ (advance 200000000 busy).now) ∧
    base.fw.state = .ready ∧ base.fw.crashed = false := by decide +kernel

/-! ### The clock -/

/-- The tick sources: an internal tick that is due and not due, in RUNNING and in PAUSED; TICK_IN edges before, at the bounds of
the band, after it, and a band without one, with 0 and 16 synthesised ticks and in holdover; 16 periods without a tick after
TICK_START and after a switch of source, and less. -/
theorem test_tick_cases :
    let internal := ticking fun k => { k with state := .running, due := some 100 }
    let still := ticking fun k => { k with state := .paused, due := some 100 }
    let edge := fun n => ticking fun k => { k with state := .paused, source := .tickIn, last := some 0, synth := n }
    let held := ticking fun k => { k with state := .running, source := .tickIn, last := some 0, synth := 3, holdover := true }
    let started := ticking fun k => { k with state := .running, startedAt := some 0 }
    let w : Switch := { source := .plink, port := 0, accepted := 0, qualified := none, edges := [], anchor := none, tk := none }
    let switching := ticking fun k => { k with state := .switching, switch := some w }
    let period := 1000 * 16667
    let guard := 1000 * guardUs .tickIn 16667
    (internal.alive = true ∧ internal.tick.source = .internal ∧ internal.tick.state = .running ∧ internal.tick.switch = none ∧
      internal.tick.due = some 100 ∧ 100 ≤ (advance 100 internal).now ∧ internal.tick.pause = none ∧
      internal.tick.haltPending = false ∧ (advance 99 internal).now < 100 ∧ base.tick.due = none) ∧
    (still.alive = true ∧ still.tick.source = .internal ∧ still.tick.state = .paused ∧ still.tick.switch = none ∧
      still.tick.due = some 100 ∧ still.tick.resume = none) ∧
    (held.alive = true ∧ held.tick.source = .tickIn ∧ held.tick.state = .running ∧ held.tick.switch = none ∧
      held.tick.startedAt = none ∧ held.tick.holdover = true ∧ period - guard ≤ (advance period held).now ∧
      (advance period held).now ≤ period ∧ period < (advance (period + 1) held).now ∧ held.tick.synth < 16) ∧
    (∀ n ∈ [0, 16], (edge n).alive = true ∧ (edge n).tick.source = .tickIn ∧ (edge n).tick.state = .paused ∧
      (edge n).tick.switch = none ∧ (edge n).tick.startedAt = none ∧ (edge n).tick.holdover = false ∧
      (advance (period - guard - 1) (edge n)).now < period - guard ∧
      period - guard ≤ (advance (period + guard) (edge n)).now ∧
      (advance (period + guard) (edge n)).now ≤ period + guard ∧
      period + guard < (advance (period + guard + 1) (edge n)).now) ∧
    (edge 0).tick.synth < 16 ∧ 16 ≤ (edge 16).tick.synth ∧
    (started.alive = true ∧ started.tick.startedAt = some 0 ∧ 0 + 16 * period ≤ (advance (16 * period) started).now) ∧
    switching.alive = true ∧ switching.tick.startedAt = none ∧ switching.tick.switch = some w ∧ w.qualified = none ∧
      w.accepted + 16 * switchPeriod (advance (16 * period) switching) ≤ (advance (16 * period) switching).now ∧
      (advance 5 switching).now < w.accepted + 16 * switchPeriod (advance 5 switching) ∧
      (advance 5 started).now < 0 + 16 * period ∧ base.tick.startedAt = none ∧ base.tick.switch = none := by
  decide +kernel

/-- Edges of a start and of a reacquisition, with and without one P before; a device whose source is another; a switch to TICK_IN
that qualifies, and one that has passed its t_k, before its first band, in it and at its end. -/
theorem test_tick_edges :
    let period := 1000 * 16667
    let guard := 1000 * guardUs .tickIn 16667
    let start := fun l => ticking fun k => { k with state := .running, source := .tickIn, startedAt := some 0, edges := l }
    let lost := fun l => ticking fun k => { k with state := .lost, source := .tickIn, edges := l }
    let w := fun tk => ({ source := .tickIn, port := 0, accepted := 0, qualified := some 50, edges := [], anchor := some 50,
                          tk := tk } : Switch)
    let switching := fun tk => ticking fun k => { k with state := .switching, switch := some (w tk) }
    let first := newBand (advance 300 (switching (some 100))) ((w (some 100)).anchor.getD 100) 100
    let pair := fun s : State => s.tick.edges.any fun e => spaced period guard e (advance (period + 7) s).now
    (∀ s ∈ [start [7], start []], s.alive = true ∧ s.tick.source = .tickIn ∧ s.tick.state = .running ∧
      s.tick.switch = none ∧ s.tick.startedAt = some 0 ∧ s.tick.pause = none ∧ s.tick.haltPending = false) ∧
    pair (start [7]) = true ∧ pair (start []) = false ∧
    (∀ s ∈ [lost [7], lost []], s.alive = true ∧ s.tick.source = .tickIn ∧ s.tick.state = .lost ∧ s.tick.switch = none) ∧
    pair (lost [7]) = true ∧ pair (lost []) = false ∧ runningState.tick.source ≠ .tickIn ∧ runningState.tick.switch = none ∧
    (∀ tk ∈ [none, some 100], (switching tk).alive = true ∧ (switching tk).tick.switch = some (w tk) ∧
      (w tk).source = .tickIn ∧ (w tk).tk = tk) ∧
    first.1 ≤ (advance (period + 50) (switching (some 100))).now ∧ 100 ≤ (advance (period + 50) (switching (some 100))).now ∧
    (advance (period + 50) (switching (some 100))).now ≤ first.2 ∧ (advance 300 (switching (some 100))).now < first.1 ∧
    first.2 ≤ (advance first.2 (switching (some 100))).now ∧ (advance 300 (switching (some 100))).now < first.2 ∧
    first = (50 + period - guard, 50 + period + guard) ∧ (w none).qualified ≠ none := by decide +kernel

/-- A follower: a port that is not UP; blocks within 200 ns of the latest tick, of the tick to come, and of neither; a due tick;
a tick that no block has confirmed in time. -/
theorem test_follower_cases :
    let s := { linked base upLink with
      tick := { Tick.reset with state := .running, source := .plink, last := some 1000000, due := some 17667000,
                                confirmBy := some 1000300 } }
    (linked base .reset).alive = true ∧ ((linked base .reset).plink 0).state ≠ .up ∧
    s.alive = true ∧ (s.plink 0).state = .up ∧ s.tick.source = .plink ∧ s.tick.state = .running ∧ s.tick.switch = none ∧
    s.tick.startedAt = none ∧ s.tick.port = 0 ∧ s.tick.last.any (near (1000300 - 100)) = true ∧
    s.tick.last.any (near (17666900 - 100)) = false ∧ s.tick.due.any (near (17666900 - 100)) = true ∧
    s.tick.last.any (near (1000301 - 100)) = false ∧ s.tick.due.any (near (1000301 - 100)) = false ∧
    s.tick.due = some 17667000 ∧ s.tick.confirmBy = some 1000300 := by decide +kernel

/-- Each step of DRAIN, at its instant, before it, and with no step before it taken; and no window. -/
theorem test_drain_cases : ∀ q ∈ [(Phase.opened, 16567000), (.drain, 16597000), (.guillotined, 16601000), (.quiesced, 16601000),
      (.flushed, 16604000)],
    let s := ticking fun k => { k with state := .running, last := some 0, window := some (window q.1) }
    let w := window q.1
    s.alive = true ∧ s.tick.window = some w ∧ w.phase = q.1 ∧
      [w.td, w.tg, w.tf, w.tf, w.tm].getD q.1.rank 0 ≤ (advance q.2 s).now ∧
      (advance (q.2 - 1) s).now < [w.td, w.tg, w.tf, w.tf, w.tm].getD q.1.rank 0 := by decide +kernel

theorem test_drain_late : openState.alive = true ∧ openState.tick.window = some (window .opened) ∧
    (window .opened).phase.rank < 2 ∧ (window .opened).tm ≤ (advance 16604000 openState).now ∧
    (window .opened).tf ≤ (advance 16604000 openState).now ∧ (window .opened).tg ≤ (advance 16604000 openState).now ∧
    2 ≤ (window .guillotined).phase.rank ∧ 3 ≤ (window .quiesced).phase.rank ∧ 4 ≤ (window .flushed).phase.rank ∧
    (window .maintained).phase = .maintained ∧ base.alive = true ∧ base.tick.window = none := by decide +kernel

/-! ### Nodes -/

/-- A row access of a lane, which goes before one of a node. -/
def ahead : Access :=
  { cls := .lane, client := 0, row := 0, write := none, what := .request 0 0, since := 0, lost := 0, seen := false }

/-- The graph with its node of another kind and body, running since 0. -/
def running (s : State) (k : NodeKind) (body : List Byte) : State :=
  active s { graph with nodes := [{ waitNode with kind := k, body := body, overlays := [] }] }
    { inst0 with nodes := [{ nodeRun with body := body }] }

/-- Slot 0 of tenant 0. -/
def slot0 : GraphRef := { tenant := 0, slot := 0 }

theorem test_node_dispatch :
    let s := active openState graph { inst0 with nodes := [{ nodeRun with phase := .waiting, started := false }] }
    s.alive = true ∧ s.graph (refKey slot0) = some graph ∧ nodeReady (advance 100 s) (refKey slot0) (pairHead graph 0) = true ∧
      outranked (advance 100 s) (refKey slot0) (pairHead graph 0) = false := by decide +kernel

/-- NODE_END of a RESULT_OUT node whose rows its contract holds, of one whose rows it does not, of one whose row is under refill,
of one that a lane goes before at a stall, and of a GATE_COPY node. -/
theorem test_node_end :
    let k := refKey slot0
    let b := record 192 [(8, 4, 512)]
    let s := running openState .resultOut b
    let v := running (owned openState) .resultOut b
    let c := running openState .gateCopy b
    let refill := { v with loft := { v.loft with refills := [(0, { region := 5, since := 0, mapping := none })] } }
    let late := { v with loft := { v.loft with waiting := [ahead] } }
    let streamed := fun u => streamStep k 0 (advance 100 u)
    let granted := fun u => passStalls .node (65536 * k) (nodeRows (streamed u).1 k 0) (streamed u).1
    let worked := fun u => workNode k 0 (observeNode k 0 (granted u).1)
    (∀ u ∈ [s, v, c, refill, late], u.alive = true ∧ u.nodeRunning k 0 = true ∧ nodeBusy u k 0 = false) ∧
    (∀ u ∈ [s, v, late], (u.node k 0).kind = .resultOut ∧ waitsRefill (advance 100 u) k 0 = false ∧
      tapsDone k 0 (advance 100 u) = true ∧ (streamed u).2 = true) ∧
    (refill.node k 0).kind = .resultOut ∧ waitsRefill (advance 100 refill) k 0 = true ∧
    (granted s).2 = true ∧ (worked s).nodeRunning k 0 = false ∧ (granted v).2 = true ∧ (worked v).nodeRunning k 0 = true ∧
    (granted late).2 = false ∧ (c.node k 0).kind = .gateCopy ∧ (c.inst k).isSome := by decide +kernel

/-- An STE body: one pair of images of 16 × 2 bytes. -/
def stereoBody : List Byte :=
  record 192 [(16, 3, 4096), (24, 4, 64), (28, 2, 16), (30, 2, 2), (32, 3, 8192), (40, 4, 64), (44, 2, 16), (46, 2, 2), (128, 1, 1)]

/-- A stereo node with a tap, running. -/
def tapped (s : State) : State :=
  active s { graph with nodes := [{ waitNode with kind := .engine, unit := 0x15, tap := true, body := stereoBody, overlays := [] }] }
    { inst0 with nodes := [{ nodeRun with body := stereoBody }] }

/-- A stereo node whose tile its Halter has not taken yet. -/
theorem test_node_taps :
    let s := tapped (owned openState)
    s.alive = true ∧ s.nodeRunning (refKey slot0) 0 = true ∧ nodeBusy s (refKey slot0) 0 = false ∧
      (s.node (refKey slot0) 0).kind = .engine ∧ tapsDone (refKey slot0) 0 (advance 100 s) = false := by decide +kernel

/-- A stereo node that streams, and the NE node that reads it, with what lies in the FIFO between them; the stereo node may have
ended. -/
def streaming (fifo : List (List Byte)) (first : NodePhase) : State :=
  let g := { graph with nodes :=
    [{ waitNode with kind := .engine, unit := 0x15, producer := true, body := stereoBody, overlays := [] },
     { waitNode with kind := .ne, consumer := true, overlays := [] }] }
  let i := { inst0 with nodes := [{ nodeRun with phase := first, body := stereoBody }, nodeRun] }
  let s := active (owned openState) g i
  { s with drover := { s.drover with fifos := [(portKey g 1, fifo)] } }

/-- A read of a stream port that takes nothing. -/
def readNothing (g c : Nat) (gr : Graph) (s : State) : State :=
  (s.modDrover fun d => { d with fifos := tset d.fifos (portKey gr c) (s.fifo (portKey gr c)) }).modRun g c fun r =>
    { r with taken := r.taken ++ [] }

/-- A program takes nothing from its FIFO where it asks for no packet or none is there. -/
theorem readPackets_none {g c : Nat} {gr : Graph} {s : State} {i : Inst} (hi : s.inst g = some i)
    (h : packetReads (neProgram (i.run c).body gr.blob) (i.run c).body = 0 ∨ s.fifo (portKey gr c) = []) :
    readPackets g gr c s = readNothing g c gr s := by
  rcases h with h | h <;> simp [readPackets, readNothing, hi, h]

/-- Whatever a program asks for, some node waits at a stream: a producer at a full FIFO, or a consumer of an ended producer. -/
theorem test_node_stream_waits : ∃ s n, s.alive = true ∧ s.nodeRunning (refKey slot0) n = true ∧
    nodeBusy s (refKey slot0) n = false ∧ ((s.node (refKey slot0) n).kind = .engine ∨ (s.node (refKey slot0) n).kind = .ne) ∧
    waitsRefill (advance 100 s) (refKey slot0) n = false ∧ tapsDone (refKey slot0) n (advance 100 s) = true ∧
    (streamStep (refKey slot0) n (advance 100 s)).2 = false := by
  let k := refKey slot0
  by_cases h : packetReads (neProgram waitNode.body []) waitNode.body = 0
  · let s := streaming (List.replicate 64 (List.replicate 1024 0)) (.running 0)
    let u := advance 100 s
    refine ⟨s, 0, by decide +kernel, by decide +kernel, by decide +kernel, by decide +kernel, by decide +kernel,
      by decide +kernel, ?_⟩
    obtain ⟨gr, i, hg, hi, hp, hm, hr⟩ : ∃ gr i, u.graph k = some gr ∧ u.inst k = some i ∧ (gr.node 0).producer = true ∧
        packetReads (neProgram (i.run 1).body gr.blob) (i.run 1).body = 0 ∧
        ((readNothing k 1 gr u).fifo (portKey gr 1)).foldl (fun n q => n + q.length) 0 = 65536 :=
      ⟨_, _, rfl, rfl, by decide +kernel, h, by decide +kernel⟩
    have hl : (packetsLeft k 0 u).length = 1 ∧ (packetsLeft k 0 u).all (fun p => decide (p.length ≠ 0)) = true := by
      decide +kernel
    have hn : u.nodeRunning k 1 = true := by decide +kernel
    obtain ⟨p, hl'⟩ := List.length_eq_one_iff.mp hl.1
    rw [hl'] at hl
    simp only [List.all_cons, List.all_nil, Bool.and_true, decide_eq_true_eq] at hl
    have ha : acceptPacket k gr 1 p u = none := by
      unfold acceptPacket
      rw [if_pos hn, readPackets_none hi (.inl hm)]
      exact if_neg (by rw [hr]; omega)
    show (streamStep k 0 u).2 = false
    simp [streamStep, hg, hi, hp, hl', sendPackets, ha]
  · let s := streaming [] .ended
    let u := advance 100 s
    refine ⟨s, 1, by decide +kernel, by decide +kernel, by decide +kernel, by decide +kernel, by decide +kernel,
      by decide +kernel, ?_⟩
    obtain ⟨gr, i, j, hg, hi, hp, hc, hm, hf, hj, ht, he⟩ : ∃ gr i j, u.graph k = some gr ∧ u.inst k = some i ∧
        (gr.node 1).producer = false ∧ (gr.node 1).consumer = true ∧
        packetReads (neProgram (i.run 1).body gr.blob) (i.run 1).body ≠ 0 ∧ u.fifo (portKey gr 1) = [] ∧
        (readNothing k 1 gr u).inst k = some j ∧ (j.run 1).taken.length = 0 ∧ (readNothing k 1 gr u).nodeRunning k 0 = false :=
      ⟨_, _, _, rfl, rfl, by decide +kernel, by decide +kernel, h, by decide +kernel, rfl, by decide +kernel, by decide +kernel⟩
    show (streamStep k 1 u).2 = false
    simp only [streamStep, hg, hi, hp, hc, readPackets_none hi (.inr hf), he, Bool.false_eq_true, if_false, if_true,
      decide_eq_false_iff_not]
    rw [hj]
    exact fun hw => hm (Nat.le_zero.mp (ht ▸ hw))

theorem test_lease_end :
    let s := owned openState
    s.alive = true ∧ (s.contract (0 : Fin 4)).leases[(1 : Fin 16).val]? = some { unit := 0x31, start := 0, stop := 200000 } ∧
      s.tick.window = some (window .opened) ∧ (0x31 : Nat) ≠ 0xFF ∧
      (window .opened).t0 + 1000 * 200000 ≤ (advance 200000000 s).now := by decide +kernel

theorem test_tether_wait_timeout :
    let s := active openState graph inst0
    s.alive = true ∧ s.inst (refKey slot0) = some inst0 ∧ (inst0.run 0).phase = .running 0 ∧
      (s.node (refKey slot0) 0).kind = .tetherWait ∧
      0 + nodeBound (advance 100 s) (s.node (refKey slot0) 0) ≤ (advance 100 s).now ∧
      (s.tether (bf (inst0.run 0).body 64 2)).met = false := by decide +kernel

/-- NE_OVERRUN of a node without a record, and of one with a record at row 8. -/
theorem test_ne_overrun :
    let s := running openState .ne (record 192 [])
    let v := running (owned openState) .ne (record 192 [(16, 8, 4096)])
    (s.alive = true ∧ (s.node (refKey slot0) 0).kind = .ne ∧ s.nodeRunning (refKey slot0) 0 = true ∧
      overrunRecord (refKey slot0) 0 (advance 100 s) = none) ∧
    v.alive = true ∧ (v.node (refKey slot0) 0).kind = .ne ∧ v.nodeRunning (refKey slot0) 0 = true ∧
      ∃ d, overrunRecord (refKey slot0) 0 (advance 100 v) = some (4096, d) :=
  ⟨by decide +kernel, by decide +kernel, by decide +kernel, by decide +kernel, _, rfl⟩

theorem test_replay_resume :
    let r : ReplayRun := { used := 1, closed := false, waiting := true, rows := [5] }
    let i := { inst0 with replays := [r] }
    let s := active openState graph i
    s.alive = true ∧ s.inst (refKey slot0) = some i ∧ i.replays[0]? = some r ∧ r.waiting = true ∧
      r.rows.any (thas s.loft.refills) = false := by decide +kernel

/-! ### Cameras -/

/-- Ports that listen and that do not, and virtual channels at both sides of 15. -/
theorem test_port_cases :
    let s := { base with ports := { CamPort.reset with enabled := true } :: List.replicate 7 .reset }
    s.alive = true ∧ (s.port (0 : Fin 8)).listens (advance 100 s).now = true ∧
      (s.port (1 : Fin 8)).listens (advance 100 s).now = false ∧ (15 : Fin 32).val ≤ 15 ∧ 15 < (16 : Fin 32).val := by
  decide +kernel

/-- A frame that has ended. -/
def frame : Frame :=
  { number := 1, start := 0, tickno := 0, binding := binding, image := [], lines := [some ([], 50), none], received := 1,
    linesWritten := 1, crcLines := 0, corrected := 0, short := 0, long := 0, dropped := 0, embedded := 0, damaged := true,
    refused := false, badHeader := false, ended := some (40, 0), endSeen := some 40, late := false, superseded := false,
    next := [0], wrote := [] }

theorem test_frame_record_write :
    let s := { openState with ctxs := { Ctx.reset with frame := some frame } :: List.replicate 31 .reset }
    s.alive = true ∧ (s.ctx (4 * (0 : Fin 8).val + (0 : Fin 4).val)).frame = some frame ∧
      s.tick.window = some (window .opened) ∧ frame.ended.isSome = true ∧ frame.drained (advance 50 s).now = true ∧
      rowsOut s (4 * (0 : Fin 8).val + (0 : Fin 4).val) = [] ∧
      (advance 50 s).now < (window .opened).tg := by decide +kernel

/-- LANE_INPUT nodes of a context whose frame has started and of one whose frame has not. -/
theorem test_lane_input_timeout : ∀ o : Bool,
    let b := record 192 []
    let s := { running openState .laneInput b with ctxs := { Ctx.reset with opened := o } :: List.replicate 31 .reset }
    s.alive = true ∧ (s.inst (refKey slot0)) = some { inst0 with nodes := [{ nodeRun with body := b }] } ∧
      (s.node (refKey slot0) 0).kind = .laneInput ∧
      0 + nodeBound (advance 100 s) (s.node (refKey slot0) 0) ≤ (advance 100 s).now ∧
      (s.ctx (4 * bf b 64 1 + bf b 65 1)).opened = o := by decide +kernel

theorem test_port_quiet_end :
    let s := { base with ports := { CamPort.reset with quietUntil := some 100 } :: List.replicate 7 .reset }
    s.alive = true ∧ (s.port (0 : Fin 8)).quietUntil = some 100 ∧ 100 ≤ (advance 100 s).now ∧
      (0 : Fin 8).val < s.ports.length := by decide +kernel

/-- A transfer of two records. -/
def transfer : Transfer :=
  { tenant := 0, fn := 0, cmdId := 7, mode := 2, addr := 16, offset := 20, bufAddr := 4096, buf := records, effect := some 0,
    startAt := some 20000 }

/-- A transfer whose turn has come, and one at its READ record, after which END stands. -/
theorem test_sensor_cases :
    let s := { openState with i2c := { I2c.reset with queue := [transfer] } :: List.replicate 7 .reset }
    let v := { openState with i2c := { I2c.reset with current := some (transfer, 8, []) } :: List.replicate 7 .reset }
    (s.alive = true ∧ (s.i2cCtl (0 : Fin 8)).queue = [transfer] ∧ (s.i2cCtl (0 : Fin 8)).current = none ∧
      transfer.startAt = some 20000 ∧ 20000 ≤ (advance 20000 s).now) ∧
    v.alive = true ∧ (v.i2cCtl (0 : Fin 8)).current = some (transfer, 8, []) ∧ fld transfer.buf (8 + xferLen transfer.buf 8) 1 = 0 ∧
      fld transfer.buf 8 1 = 2 ∧
      [({ record := 8, place := 8 + 4 + fld transfer.buf 9 1, data := fit (fld transfer.buf 10 2) [1, 2] } : XferRead)][0]? =
        some { record := 8, place := 13, data := [1, 2] } := by decide +kernel

/-! ### The Loft and external memory -/

/-- An access waiting at stall 0, where no cycle is spent yet, the one before, and this one; and a stall without one. -/
theorem test_stall_cases :
    let a : Access :=
      { cls := .node, client := 0, row := 0, write := none, what := .request 0 0, since := 0, lost := 0, seen := false }
    let s := fun l => { base with loft := { Loft.reset with waiting := [a], granted := l } }
    (∀ l ∈ [[], [(stallOf 0, 99)], [(stallOf 0, 100)]], (s l).alive = true ∧ stallGrant (s l) (stallOf 0) = some a ∧
      stallGrant (s l) (stallOf 0 + 1) = none) ∧
    (∀ l ∈ [[], [(stallOf 0, 99)]], cycleFree (advance 100 (s l)) (stallOf 0) = true) ∧
    cycleFree (advance 100 (s [(stallOf 0, 100)])) (stallOf 0) = false := by decide +kernel

/-- A row under refill or map-out, with its region loaded or gone. -/
def refilling (s : State) (m : Option Nat) (regions : Table Region) : State :=
  { s with
    dram := { Dram.reset with ecc := [(2, (dramBase, 2 ^ 23))] }
    loft := { Loft.reset with regions := regions, refills := [(8, { region := 5, since := 0, mapping := m })] } }

/-- REFILL_END and MAP_OUT_END: a region gone; a backing copy that is poisoned, and one that is not. -/
theorem test_refill_cases :
    let gone := fun m => refilling base m []
    let there := fun m => refilling base m [(5, region .loaded)]
    let q := fun found => readSectors ((region .loaded).backing + 512 * (8 - (region .loaded).first)) 4 8 found (advance 100 (there none))
    (∀ m ∈ [none, some 3], (gone m).alive = true ∧ tget (gone m).loft.refills 8 = some { region := 5, since := 0, mapping := m } ∧
      refillRegion (gone m) 8 { region := 5, since := 0, mapping := m } = none) ∧
    (∀ m ∈ [none, some 3], (there m).alive = true ∧ tget (there m).loft.refills 8 = some { region := 5, since := 0, mapping := m } ∧
      refillRegion (there m) 8 { region := 5, since := 0, mapping := m } = some (region .loaded)) ∧
    (q [.uncorrectable]).2.2 = true ∧ (q []).2.2 = false := by decide +kernel

theorem test_loft_scrub : base.alive = true ∧ base.boot.selfTested = true ∧ base.inStandby = false ∧ base.loft.refills = [] ∧
    base.loft.waiting = [] ∧ base.loft.tries = [] ∧ cycleFree (advance 100 base) (stallOf base.loft.scrubNext) = true ∧
    base.tick.window = none := by decide +kernel

/-- A request or message at a port: dest this device, H1 as given. -/
def packet (router port op key : Nat) (data : Bool) (h1 : BitVec 64) : Packet :=
  { h0 := H0.word { dest := router, dport := port, epoch := 0, data := data, dl := false, mcast := false, axis := 0, src := 16,
                    sport := 0, op := op, key := key, tag := 0, mask := 0, hops := 0 },
    h1 := h1, rest := ctlRest }

/-- A state with one packet in the fabric. -/
def carrying (s : State) (f : Flight) : State := { s with fabric := { s.fabric with packets := [(3, f)], nextPacket := 4 } }

/-- A read of row 2 of gate 9 at the gate service of gateway N, with the gate open and with no gate. -/
theorem test_gate_request :
    let p := packet 1 7 0x01 1 false (h1Rows (gateAddr 9 2) 1 1 0 0)
    let f : Flight := { pkt := p, place := .endpoint (gatewayRouter 0) 7, entered := none, since := 0, blocked := none }
    let s := carrying { owned openState with loft := { Loft.reset with gates := [(9, gate)] } } f
    let v := carrying (owned openState) f
    (s.alive = true ∧ firstAt s (.endpoint (gatewayRouter (0 : Fin 4)) 7) (fun p => p.isRequest && decide (p.mode = 1)) = some (3, f) ∧
      gateRefusal (advance 100 s) (tget s.loft.gates p.gate) p = none) ∧
    v.alive = true ∧ firstAt v (.endpoint (gatewayRouter (0 : Fin 4)) 7) (fun p => p.isRequest && decide (p.mode = 1)) = some (3, f) ∧
      gateRefusal (advance 100 v) (tget v.loft.gates p.gate) p = some 2 := by decide +kernel

/-- A sector read by a movement and by a running node, sound and poisoned; a full and a partial write; the sector's own bytes. -/
theorem test_dram_cases :
    let x := dramBase
    let n : NodeRef := { graph := slot0, node := 0 }
    let s := { base with moves := [(1, .memRead x 64 0 false)] }
    let v := active base graph inst0
    let w := { v with dram := { Dram.reset with poison := [0], ecc := [(2, (dramBase, 2 ^ 23))] } }
    (s.alive = true ∧ dramServes s x 64 = true ∧ readerActive s x .memRead = true) ∧
    (v.alive = true ∧ dramServes v x 64 = true ∧ readerActive v x (.node n) = true ∧
      (readSector x .clean (readerCode (.node n)) false (advance 100 v)).2.isSome = true) ∧
    (readSector x .clean (readerCode (.node n)) false (advance 100 w)).2 = none ∧ readerActive w x (.node n) = true ∧
    hitsCheck v x 64 = false ∧ hitsCheck v x 1 = false ∧ hitsBacking v x 64 = false ∧ hitsBacking v x 1 = false ∧
    (hitsBacking (regional .loaded) x 64 = true ∧ hitsBacking (regional .loaded) x 1 = true ∧ (regional .loaded).alive = true) ∧
    (hitsCheck w (dramBase + 7 * 2 ^ 20) 64 = true ∧ hitsCheck w (dramBase + 2 ^ 23 - 64) 1 = true ∧ w.alive = true) ∧
    dramServes v x 1 = true ∧
    (partialWrite x [1] .clean (advance 100 v)).2 = false ∧ (partialWrite x [1] .clean (advance 100 w)).2 = true := by
  decide +kernel

/-- A full write of the first sector, for the statement about its bytes. -/
theorem test_dram_write : base.alive = true ∧ base.memoryOk ∧ dramServes base dramBase 64 = true ∧
    hitsCheck base dramBase 64 = false ∧ hitsBacking base dramBase 64 = false ∧ (List.replicate 64 (7#8)).length = 64 ∧
    ∃ u, exec (.dramFullWrite 100 dramBase (List.replicate 64 (7#8))) base = .next u :=
  ⟨rfl, ⟨rfl, rfl⟩, by decide +kernel, rfl, rfl, rfl, _, rfl⟩

/-- Refresh, idle retraining and scrub of external memory, and a channel in training. -/
theorem test_dram_timers :
    let s := { base with dram := { Dram.reset with ecc := [(2, (dramBase, 2 ^ 23))] } }
    let v := { base with dram := { Dram.reset with channels := { Channel.reset with training := some 0 } :: List.replicate 3 .reset } }
    (base.alive = true ∧ base.boot.dramTrained = true ∧ base.inStandby = false ∧ noWindows base = true ∧ base.tick.window = none ∧
      base.dram.retrainAt + 10000000 ≤ (advance 10000000 base).now) ∧
    (s.alive = true ∧ s.tick.window = none ∧ s.fabric.packets = [] ∧ s.dram.scrubNext + 1 < eccRows s ∧
      dramServes s (eccRowAddr s s.dram.scrubNext) 512 = true) ∧
    v.alive = true ∧ (v.dram.channels.getD (0 : Fin 4).val .reset).training = some 0 := by decide +kernel

/-! ### The fabric and the P-links -/

/-- A message from router 5 to port 6 of router 5 itself, in a buffer there; a packet waiting at a client port. -/
theorem test_fabric_inject :
    let p := packet 5 6 0x05 0 false 0
    let o : Outgoing := { router := 5, port := 4, pkt := p }
    let s := { base with fabric := { base.fabric with outgoing := [o] } }
    let q : Packet := { p with h0 := ({ p.head with epoch := s.fabric.epoch } : H0).word }
    let late := ticking fun k => { k with state := .running, window := some { window .guillotined with tg := 50 } }
    let full := fun n => { s with fabric := { s.fabric with packets := (List.range n).map fun k =>
      (k, { pkt := p, place := .buffer 5 8 q.vc, entered := none, since := 0, blocked := none }) } }
    s.alive = true ∧ (s.fabric.outgoing.find? fun o => decide (o.router = (5 : Fin 16).val) && decide (o.port = (4 : Fin 8).val)) =
        some o ∧ s.tick.window = none ∧ roomFor (advance 100 s) 5 8 q = true ∧ (full 129).alive = true ∧
      ((full 129).fabric.outgoing.find? fun o => decide (o.router = (5 : Fin 16).val) && decide (o.port = (4 : Fin 8).val)) =
        some o ∧ (full 129).tick.window = none ∧ roomFor (advance 100 (full 129)) 5 8 q = false ∧ mayInject (advance 100 base) 1 = true ∧
      mayInject (advance 100 base) 0 = true ∧ late.alive = true ∧ mayInject (advance 100 late) 1 = false := by decide +kernel

theorem test_fabric_forward :
    let p := packet 5 6 0x05 0 false 0
    let f : Flight := { pkt := p, place := .buffer 5 8 0, entered := none, since := 0, blocked := none }
    let s := carrying base f
    let h := advance 100 s
    s.alive = true ∧ (headsOf h 5).filter (fun c => (outputOf h 5 c.2.pkt).isNone) = [] ∧
      (headsOf h 5).filter (fun c => decide (outputOf h 5 c.2.pkt = some (10 : Fin 12).val)) = [(3, f)] ∧
      canAdvance h 5 10 f = true := by decide +kernel

/-- What a port takes: a message, a request at a stall port, a request at a DRAM port. -/
theorem test_fabric_deliver :
    let at_ := fun (r q op : Nat) => (packet r q op 1 false (h1Rows 0 0 1 0 0))
    let one := fun (r q op : Nat) => carrying base { pkt := at_ r q op, place := .endpoint r q, entered := none, since := 0, blocked := none }
    let late := fun s : State => { s with tick := { s.tick with window := some { window .guillotined with tg := 50 } } }
    let test := fun p : Packet => !p.isResponse && !(p.isRequest && decide (p.mode = 1)) && decide (p.op ≠ 0x04)
    (∀ x ∈ [(5, 6, 5), (5, 3, 1), (12, 4, 1)], (one x.1 x.2.1 x.2.2).alive = true ∧
      (firstAt (one x.1 x.2.1 x.2.2) (.endpoint x.1 x.2.1) test).isSome = true) ∧
    (at_ 5 6 5).isRequest = false ∧ (at_ 5 3 1).isRequest = true ∧ 3 < 4 ∧ (at_ 12 4 1).isRequest = true ∧
      (∀ x ∈ [(5, 3, 1), (12, 4, 1)], mayInject (advance 100 (one x.1 x.2.1 x.2.2)) 1 = true ∧
        mayInject (advance 100 (late (one x.1 x.2.1 x.2.2))) 1 = false ∧ (late (one x.1 x.2.1 x.2.2)).alive = true ∧
        (firstAt (late (one x.1 x.2.1 x.2.2)) (.endpoint x.1 x.2.1) test).isSome = true) ∧
      ∃ c < 4, dramPort c = (12, 4) := by decide +kernel

/-- A request of tag 0 at port 6 of router 5, of key 1, that expires at 200. -/
def request : Request :=
  { issuer := .lane 0 0, pkt := packet 7 7 0x01 1 false 0, injected := 0, expiry := 200, waiting := [0], refusals := [], filter := none }

/-- An answer, for no request, with another key, after the expiry and in time; an expired request; a tag held back for 10 ms. -/
theorem test_fabric_response :
    let answer := fun key => packet 5 6 0x02 key false 0
    let f := fun key since =>
      ({ pkt := answer key, place := .endpoint 5 6, entered := none, since := since, blocked := none } : Flight)
    let s := carrying base (f 1 0)
    let v := fun key since => { carrying base (f key since) with fabric := { (carrying base (f key since)).fabric with
      reqs := [(reqKey 5 6 0, request)], tagHold := [(reqKey 5 6 1, 0)] } }
    (s.alive = true ∧ firstAt s (.endpoint 5 6) Packet.isResponse = some (3, f 1 0) ∧
      tget s.fabric.reqs (reqKey 5 6 (answer 1).tag) = none) ∧
    (∀ key ∈ [1, 2], ∀ x ∈ [200, 201], (v key x).alive = true ∧
      firstAt (v key x) (.endpoint 5 6) Packet.isResponse = some (3, f key x) ∧
      tget (v key x).fabric.reqs (reqKey 5 6 (answer key).tag) = some request) ∧
    request.pkt.key = (answer 1).key ∧ request.pkt.key ≠ (answer 2).key ∧ request.expiry < (f 1 201).since ∧
      (f 1 200).since ≤ request.expiry ∧
    (request.expiry ≤ (advance 201 (v 1 201)).now ∧ inTime (advance 201 (v 1 201)) 5 6 0 request = false ∧
      request.expiry ≤ (advance 200 (v 2 200)).now ∧ inTime (advance 200 (v 2 200)) 5 6 0 request = false) ∧
    (advance 199 (v 1 201)).now < request.expiry ∧ inTime (advance 201 (v 1 200)) 5 6 0 request = true ∧
      inTime (advance 200 (v 1 201)) 5 6 0 request = true ∧
    tget (v 1 200).fabric.tagHold (reqKey 5 6 1) = some 0 ∧ (v 1 200).tick.window = none ∧
      0 + 10000000 ≤ (advance 10000000 (v 1 200)).now := by decide +kernel

/-- Ports in training, before and after a failure and due to try again; DOWN for 1 µs; UP and silent for 50 µs. -/
theorem test_link_states :
    let training := fun b r => linked base { PLink.reset with state := .training, failedOnce := b, retryAt := r }
    let down := linked base { PLink.reset with state := .down }
    (∀ b : Bool, (training b none).alive = true ∧ ((training b none).plink (0 : Fin 4)).state = .training ∧
      ((training b none).plink (0 : Fin 4)).retryAt = none ∧ ((training b none).plink (0 : Fin 4)).failedOnce = b) ∧
    ((training true (some 100)).plink (0 : Fin 4)).retryAt = some 100 ∧ 100 ≤ (advance 100 base).now ∧
    (down.plink (0 : Fin 4)).state = .down ∧ (down.plink (0 : Fin 4)).since + 1000 ≤ (advance 1000 down).now ∧
    ((linked base upLink).plink (0 : Fin 4)).state = .up ∧ (linked base upLink).alive = true ∧
      ((linked base upLink).plink (0 : Fin 4)).lastRx + 50000 ≤ (advance 50000 base).now ∧
      recalibrating (advance 100 (linked base upLink)) (0 : Fin 4) = false ∧ noWindows (linked base upLink) = true := by
  decide +kernel

/-- Blocks whose type the partner may not send. -/
theorem test_partner_block : (0x00#8) ≠ 0x78#8 ∧ (0x00#8) ≠ 0x66#8 ∧ (0x00#8).toNat ∉ [0x1E, 0x33, 0x4B, 0x55, 0x87] := by decide

/-- Frames numbered as expected, ahead at both ends of the range, and behind; a NAK that may go; replay and acknowledgement due. -/
theorem test_link_frames :
    let s := linked base { upLink with rxExpected := 5, replay := [(9, packet 5 6 0x05 0 false 0)] }
    let l := s.plink (0 : Fin 4)
    let d := fun n => (n + 4096 - l.rxExpected) % 4096
    s.alive = true ∧ l.state = .up ∧ d 5 = 0 ∧ (0 < d 6 ∧ d 2052 ≤ 2047) ∧ 2047 < d 2053 ∧ 2047 < d 4 ∧
      (l.lastNak.all fun n => decide (n + 1000 ≤ (advance 100 s).now)) = true ∧ l.replay ≠ [] ∧
      l.progressAt + 4000 ≤ (advance 4000 s).now ∧ l.lastTx + 1000 ≤ (advance 1000 s).now := by decide +kernel

/-- An ABORT of key 1, slot 0 and STC 0 at gateway N: one this device has seen, one that names nothing here, one that names the
active run of a SYSTEM graph. -/
theorem test_abort_received :
    let p := packet 1 7 0x04 1 false 0
    let f : Flight := { pkt := p, place := .endpoint (gatewayRouter 0) 7, entered := none, since := 0, blocked := none }
    let s := carrying (linked base upLink) f
    let seen := { s with aborts := [{ key := 1, slot := 0, stc := 0 }] }
    let hit := active s { graph with system := true } inst0
    let flood := fun u : State => floodAbort p.key (hbits p.h1 7 0) (hbits p.h1 15 8) (hbits p.h1 23 16)
      (BitVec.ofNat 32 (hbits p.h1 63 32)) (some (0, p)) (spoilGateRows p.key (removePacket 3 (advance 100 u)))
    let target := fun u : State => abortTarget (flood u).1 p.key (hbits p.h1 7 0) (BitVec.ofNat 32 (hbits p.h1 63 32))
    (∀ u ∈ [s, seen, hit], u.alive = true ∧ (u.plink (0 : Fin 4)).state = .up ∧
      firstAt u (.endpoint (gatewayRouter (0 : Fin 4)) 7) (fun p => decide (p.op = 0x04)) = some (3, f)) ∧
    (flood seen).2 = false ∧ (flood s).2 = true ∧ target s = none ∧ (flood hit).2 = true ∧
      target hit = some (graphKey 0 0) := by decide +kernel

/-- Firmware messages: at the master of a reroute, and elsewhere; a push to a device that waits for one. -/
theorem test_firmware_messages :
    let r := fun m => ({ port := 0, version := 1, switchStc := none, confirmed := [2], misses := 0, master := m } : Reroute)
    let s := fun m => { linked base upLink with reroute := some (r m) }
    let w := { linked base upLink with boot := { base.boot with romRunning := true, waitPlink := true } }
    (∀ m : Bool, (s m).alive = true ∧ ((s m).plink (0 : Fin 4)).state = .up ∧ (s m).fw.state = .ready ∧
      (s m).reroute = some (r m) ∧ (r m).master = m ∧ (1 : Fin 16).val ∉ (r m).confirmed) ∧
    w.alive = true ∧ (w.plink (0 : Fin 4)).state = .up ∧ w.boot.romRunning = true ∧ w.boot.waitPlink = true := by decide +kernel

theorem test_new_table : routesOk base.chip (fit 192 routesImage) = true := routesImage_ok

/-! ### Halters, egress, heat, Tally -/

/-- The tile of a tapped stereo node at a unit that takes it and at one that is disabled; a node whose tiles are all sent; no
node. -/
theorem test_halter_tile :
    let x := { Halter.reset with state := .clear, config := some halterRecord, pinA := true }
    let s := tapped (guarded openState x)
    let v := tapped (guarded openState .reset)
    let sent := { tapped (guarded openState x) with drover := { (tapped base).drover with insts :=
      [(refKey slot0, { inst0 with nodes := [{ nodeRun with body := stereoBody, tapped := 1 }] })] } }
    let n : NodeRef := { graph := slot0, node := 0 }
    let next := fun u => nextTap (refKey slot0) 0 (advance 100 u)
    let at_ := fun tile : List Byte => decide (fld tile 8 1 = (0 : Fin 4).val) && decide (fld tile 0 2 = 0) && decide (fld tile 2 2 = 0)
    (s.alive = true ∧ tapsHalter s (1 : Fin 2) n = true ∧ ((next s).any fun tile => at_ tile &&
      decide ((s.halter (1 : Fin 2)).state ≠ .disabled) && bit (hcfg (s.halter (1 : Fin 2)) 5 1) n.graph.tenant &&
      (watched ((s.halter (1 : Fin 2)).config.getD [])).contains (fld tile 8 1) &&
      !(((s.halter (1 : Fin 2)).pairs.getD (fld tile 8 1) .reset).owner.any (· ≠ (refKey n.graph, n.node)))) = true) ∧
    (v.alive = true ∧ tapsHalter v (1 : Fin 2) n = true ∧ (next v).any at_ = true ∧
      ¬((v.halter (1 : Fin 2)).state ≠ .disabled)) ∧
    (sent.alive = true ∧ next sent = none) ∧ base.alive = true ∧ tapsHalter base (1 : Fin 2) n = false := by decide +kernel

/-- Acknowledgements awaited and not; a frame past its deadline; gaps of frames and of tiles; a heartbeat edge that is due. -/
theorem test_halter_timers :
    let x := { Halter.reset with
      state := .clear, config := some halterRecord, pinA := true, edgeDue := some 50000
      pairs := { Pair.reset with lastTile := some 0 } :: List.replicate 3 .reset }
    let s := guarded openState x
    let v := guarded openState { x with state := .stop, awaitAck := some 100 }
    let coming := { s with pending := [.halterTile 50000 1 { graph := slot0, node := 0 } 0 0 0] }
    s.alive = true ∧ v.alive = true ∧ 100 + 1000 ≤ (advance 1100 v).now ∧ (v.halter (1 : Fin 2)).awaitAck = some 100 ∧
      (s.halter (1 : Fin 2)).awaitAck = none ∧
      (∀ t ∈ [50000, 100000], tileComing (advance t s) 1 = false ∧ tileComing (advance t coming) 1 = true) ∧
      coming.alive = true ∧ s.tick.window = some (window .opened) ∧ (s.halter (1 : Fin 2)).frameDone = false ∧
      min ((window .opened).t0 + 1000 * hcfg x 8 4) (window .opened).tg ≤ (advance 100000 s).now ∧
      (s.halter (1 : Fin 2)).gapFrom + 1000 * hcfg x 12 4 ≤ (advance 100000 s).now ∧
      ((s.halter (1 : Fin 2)).pairs.getD (0 : Fin 4).val .reset).lastTile = some 0 ∧
      0 + 1000 * hcfg x 16 4 ≤ (advance 100000 s).now ∧ (s.halter (1 : Fin 2)).edgeDue = some 50000 ∧
      50000 ≤ (advance 50000 s).now := by decide +kernel

def result : Result :=
  { slot := 0, mode := 0, input := .ok, tickno := 0, stc := 0, status := .ok, firstCut := 0xFFFF, endUs := 5, pages := [0],
    delivered := 0, dropped := 0, firstPage := 0, started := false, backlogged := false }

/-- Egress: nothing to grant; a page to grant with room in the endpoint and with eight pages there; a result without pages left; a
descriptor unsignalled for RES_TIME. -/
theorem test_egress_cases :
    let full := List.replicate 8 (EndpointItem.page 0 2 0 [])
    let s := egress base { resultRing with queue := [result] }
    let v := { s with egress := { s.egress with queue := full } }
    let row := (grantRow s 0 2).getD 0
    let late := { s with loft := { s.loft with waiting := [{ ahead with row := row }] } }
    let g := { resultRing with queue := [{ result with pages := [], started := true }] }
    let o := { resultRing with unsignalled := 1, oldest := some 0 }
    base.alive = true ∧ egressGrant base = none ∧ egressGrant s = some (0, 2) ∧ queuedPages s < 8 ∧
      (grantRow s 0 2 = some row ∧ (passStalls .node (2 ^ 48) [(row, 8)] (advance 100 s)).2 = true) ∧
      (late.alive = true ∧ egressGrant late = some (0, 2) ∧ queuedPages late < 8 ∧ grantRow late 0 2 = some row ∧
        (passStalls .node (2 ^ 48) [(row, 8)] (advance 100 late)).2 = false) ∧
      egressGrant v = some (0, 2) ∧ 8 ≤ queuedPages v ∧ (egress base g).resultRing (0 : Fin 4) (2 : Fin 64) = some g ∧
      g.queue = [{ result with pages := [], started := true }] ∧ g.frozen = false ∧
      (egress base o).resultRing (0 : Fin 4) (2 : Fin 64) = some o ∧ o.oldest = some 0 ∧
      0 + 1000 * o.resTimeUs ≤ (advance 10000 (egress base o)).now := by decide +kernel

/-- Heat: the always-on supply good and gone; the trip due and done; an evaluation 1 ms after the last; each end of a change of
power state. -/
theorem test_heat_cases :
    let off := { base with pins := { base.pins with pwrgdAon := false } }
    let tripped := { base with pins := { base.pins with thermtrip := true } }
    let job := fun p => { base with power := { base.power with job := some { target := p, cmd := 1 } } }
    base.pins.pwrgdAon = true ∧ base.pins.thermtrip = false ∧ off.pins.pwrgdAon = false ∧ tripped.pins.thermtrip = true ∧
      noWindows base = true ∧ base.power.evaluated + 1000000 ≤ (advance 1000000 base).now ∧
      ∀ p ∈ [PowerState.active, .decaf, .standbyRetain, .standby], (job p).alive = true ∧
        (job p).power.job = some { target := p, cmd := 1 } ∧ (job p).fw.crashed = false ∧ (job p).fw.state = .ready ∧
        ({ job p with fw := { (job p).fw with crashed := true } } : State).alive = true ∧
        ({ job p with fw := { (job p).fw with state := .restarting } } : State).alive = true := by decide +kernel

/-- Tally: a row to write with room in the ring and at its end; an overflow episode with 4 KiB free. -/
theorem test_tally_cases :
    let c := parseTally tallyRecord
    let t := { Tally.reset with state := .running, portTaken := 512, fifo := List.replicate 512 0, episode := some 9 }
    let s := traced t
    let e := { s with tally := { s.tally with ringPos := 0x10000, config := some { c with stopWhenFull := true } } }
    let v := tracePort (advance 100 s)
    let w := tracePort (advance 100 e)
    let b := { s with fabric := { s.fabric with
      reqs := (List.range 64).map fun k => (reqKey 2 7 k, { request with issuer := .tally }) } }
    let q := tracePort (advance 100 b)
    (s.alive = true ∧ s.tally.config = some c ∧ c.ring = true ∧ v.tally.state ≠ .full ∧
      512 ≤ v.tally.fifo.length - v.tally.ringTaken ∧ ringTime v = true ∧ v.inStandby = false ∧ v.tally.lastWrite = none ∧
      0 < min (min ((v.tally.fifo.length - v.tally.ringTaken) / 512) 8) ((c.ringSize - v.tally.ringPos % c.ringSize) / 512)) ∧
    (e.alive = true ∧ w.tally.state ≠ .full ∧ 512 ≤ w.tally.fifo.length - w.tally.ringTaken ∧ ringTime w = true ∧
      min (min ((w.tally.fifo.length - w.tally.ringTaken) / 512) 8) ((c.ringSize - w.tally.ringPos) / 512) = 0) ∧
    (sendRing c.ringBase (v.tally.fifo.take 512) v).2 = true ∧ (sendRing c.ringBase (q.tally.fifo.take 512) q).2 = false ∧
      (b.alive = true ∧ b.tally.config = some c ∧ q.tally.state ≠ .full ∧ 512 ≤ q.tally.fifo.length - q.tally.ringTaken ∧
        ringTime q = true ∧ q.inStandby = false ∧ q.tally.lastWrite = none ∧
        0 < min (min ((q.tally.fifo.length - q.tally.ringTaken) / 512) 8) ((c.ringSize - q.tally.ringPos % c.ringSize) / 512)) ∧
    v.tally.episode = some 9 ∧ v.tally.fifo.length + 4096 ≤ tallyFifo := by decide +kernel

/-! ### Reset, boot and long commands -/

theorem test_reset_cases :
    let held := { base with pins := { base.pins with perstN := false } }
    let due := { base with fw := { base.fw with resetDue := true } }
    (held.pins.pwrgdAon = true ∧ held.pins.pwrgdCore = true ∧ held.pins.pwrgdIo = true ∧ held.pins.perstN = false) ∧
    base.pins.perstN = true ∧ due.alive = true ∧ due.fw.resetDue = true ∧ base.alive = true ∧ base.fw.resetDue = false ∧
    (false && true && true) = false := by decide

/-- Booting: before the self-test and training; with a slot to read; with every part ended, and fuses that take and that do
not. -/
theorem test_boot_cases :
    let s := State.reset
    let k : Fin 2 := 0
    let done := { State.reset with boot := { Boot.reset with started := true, selfTested := true, dramTrained := true } }
    s.alive = true ∧ s.fw.state = .booting ∧ s.boot.selfTested = false ∧ s.boot.dramTrained = false ∧ s.boot.dramFailed = false ∧
      s.boot.romRunning = true ∧ s.boot.candidates.contains k.val = true ∧
      newerSlot { advance 100 s with boot := { s.boot with slots := s.boot.slots.set k.val (some []) } } k.val = false ∧
      done.alive = true ∧ done.fw.state = .booting ∧ done.boot.started = true ∧ done.boot.selfTested = true ∧
      done.boot.dramTrained = true ∧ (blowFuses true (advance 100 done)).2 = true := by decide +kernel

/-- Fuses that do not take: a package of security version 1 on a device at 0. -/
theorem test_fuse_failure :
    let done := { State.reset with boot := { Boot.reset with
      started := true, selfTested := true, dramTrained := true, package := List.replicate 72 0 ++ [1] } }
    (blowFuses false (advance 100 done)).2 = false := by decide +kernel

/-- A movement that can end, and one that waits for a row under refill; a flash write. -/
theorem test_long_commands :
    let m : Move := .memRead 4096 512 0 false
    let s := { base with moves := [(1, m)] }
    let v := { refilling base none [(5, region .loaded)] with moves := [(1, m)] }
    let j : FlashJob := { cmd := 1, slot := 1, seq := 1, package := [] }
    let f := { base with flash := some j }
    let a := { s with loft := { s.loft with waiting := [{ ahead with row := 8 }] } }
    (s.alive = true ∧ tget s.moves 1 = some m ∧ moveWaits s 1 m = false ∧
      (passStalls .host (2 ^ 24 + 1) (moveRows s m) (advance 100 s)).2 = true) ∧
    (a.alive = true ∧ tget a.moves 1 = some m ∧ moveWaits a 1 m = false ∧
      (passStalls .host (2 ^ 24 + 1) (moveRows a m) (advance 100 a)).2 = false) ∧
    (v.alive = true ∧ tget v.moves 1 = some m ∧ moveWaits v 1 m = true) ∧
    f.alive = true ∧ f.fw.state = .ready ∧ f.flash = some j := by decide +kernel

/-! ### The block as a whole -/

theorem test_idle_queue : State.reset.pending = [] := rfl

theorem test_sound : base.Sound := by
  refine ⟨⟨rfl, rfl⟩, shape_base, by unfold State.pinsOk; decide, ?_, ?_, ?_⟩
  · have h : ∀ a b : Fin 4, a.1 ≠ b.1 →
        contractsClash (base.contracts.getD a.1 (.reset a.1)) (base.contracts.getD b.1 (.reset b.1)) = false := by decide +kernel
    exact fun a b ha hb hn => h ⟨a, ha⟩ ⟨b, hb⟩ hn
  · intro n c b h
    cases h
  · intro n c m d h
    cases h

theorem test_next_state : ∃ u, exec (.internalTick 100 0) base = .next u := ⟨_, rfl⟩

/-- A command that waits for the flash, one whose entry is not at the front, one past its start timeout, one sent in STANDBY, one with
two failing checks. -/
theorem test_command_cases :
    let e := entry 0x0106 []
    let late := entry 0x0302 [(8, 1)]
    let s := given { base with flash := some { cmd := 1, slot := 1, seq := 1, package := [] } } e
    let start := entry 0x0302 []
    let asleep := given { base with power := { base.power with state := .standby } } start
    let bad := entry 0x0302 [(17, 1)]
    let run := given { runningState with tick := { runningState.tick with state := .running } } bad
    waitsFor (.fwUpdate 100 admin e none) s = true ∧ takeFront 0x0302 admin start (advance 100 base) = none ∧
    (acregaOf (.tickStart 5000 admin late) = some (0x0302, 5000, admin, late) ∧
      waitsFor (.tickStart 5000 admin late) (given base late) = false ∧
      takeFront 0x0302 admin late (advance 5000 (given base late)) = some (1, waiting late) ∧ efld late 8 4 ≠ 0 ∧
      (waiting late).doorbell + 1000 * efld late 8 4 < (accepted 1 5000 (given base late)).now) ∧
    (takeFront 0x0302 admin start (advance 100 asleep) = some (1, waiting start) ∧
      timedOut (accepted 1 100 asleep) (waiting start) = false ∧ asleep.inStandby = true ∧ 0x0302 ∉ standbyOpcodes) ∧
    takeFront 0x0302 admin bad (advance 100 run) = some (1, waiting bad) ∧
      timedOut (accepted 1 100 run) (waiting bad) = false ∧ layout bad [] = (true, .badParam) := by decide +kernel

/-- Checks that fail with two codes, and the lowest. -/
theorem test_lowest_code : (true, Status.badParam) ∈ [(true, Status.badState), (true, .badParam)] ∧
    ∀ x, (true, x) ∈ [(true, Status.badState), (true, Status.badParam)] → Status.badParam.code ≤ x.code := by
  refine ⟨by decide, fun x h => ?_⟩
  simp only [List.mem_cons, Prod.mk.injEq, true_and, List.not_mem_nil, or_false] at h
  rcases h with rfl | rfl <;> decide

/-- An accepted command of a ring whose function may write. -/
theorem test_completion_case :
    let c := { waiting (entry 0x0101 []) with phase := .accepted 5 0 }
    let s := { base with cmds := [(1, c)] }
    tget s.cmds 1 = some c ∧ c.phase = .accepted 5 0 ∧ c.muted = false ∧ s.ring c.fn c.ring = some ring ∧ ring.stop = none ∧
      s.mayRequest c.fn = true := by decide +kernel

/-! ### Well-formedness: an ill-formed term for each check, and a well-formed one -/

/-- A lane, a graph and a node to name in a command. -/
def g0 : GraphRef := { tenant := 0, slot := 0 }
def n0 : NodeRef := { graph := g0, node := 0 }

theorem test_wf_time : (Instr.drainStart (2 ^ 64)).wf = false ∧ (Instr.drainStart (2 ^ 64 - 1)).wf = true := by decide +kernel

theorem test_wf_bar2 :
    (Instr.bar2Read 0 0 0 0 []).wf = false ∧ (Instr.bar2Read 0 0 0 4097 []).wf = false ∧
    (Instr.bar2Read 0 0 0x1FFFFFFF#29 2 []).wf = false ∧ (Instr.bar2Read 0 0 0x1FFFFFFF#29 1 []).wf = true ∧
    (Instr.bar2Write 0 0 0 []).wf = false ∧ (Instr.bar2Write 0 0 0x1FFFFFFF#29 [0, 0]).wf = false ∧
    (Instr.bar2Write 0 0 0x1FFFFFFF#29 [0]).wf = true := by decide +kernel

theorem test_wf_registers :
    (Instr.deviceTimeLoRead 0 { fn := 0, len := 0 }).wf = false ∧ (Instr.deviceTimeLoRead 0 { fn := 0, len := 4097 }).wf = false ∧
    (Instr.deviceTimeLoRead 0 { fn := 0, len := 4096 }).wf = true ∧
    (Instr.halterTile 0 0 { graph := slot0, node := 0 } 0 65536 0).wf = false ∧
    (Instr.halterTile 0 0 { graph := slot0, node := 0 } 0 0 65536).wf = false ∧
    (Instr.halterTile 0 0 { graph := slot0, node := 0 } 0 65535 65535).wf = true ∧ (Instr.registerWrite 0 0 0 0 0).wf = false ∧
    (Instr.registerWrite 0 0 0 0 513).wf = false ∧ (Instr.registerWrite 0 0 0 0 512).wf = true := by decide +kernel

theorem test_wf_nodes :
    (Instr.nodeDispatch 0 g0 4096).wf = false ∧ (Instr.nodeEnd 0 g0 4096 false).wf = false ∧
    (Instr.tetherWaitTimeout 0 g0 4096).wf = false ∧ (Instr.neOverrun 0 g0 4096).wf = false ∧
    (Instr.laneInputTimeout 0 g0 4096).wf = false ∧ (Instr.replayResume 0 g0 1024).wf = false ∧
    (Instr.nodeDispatch 0 g0 4095).wf = true ∧ (Instr.replayResume 0 g0 1023).wf = true := by decide +kernel

theorem test_wf_rows :
    (Instr.maintenanceSlot 0 [786432] 0 false).wf = false ∧ (Instr.refillEnd 0 786432 [] true).wf = false ∧
    (Instr.refillEnd 0 0 (List.replicate 9 .clean) true).wf = false ∧ (Instr.mapOutEnd 0 786432 true).wf = false ∧
    (Instr.loftSelfTestEnd 0 [4096] []).wf = false ∧ (Instr.loftSelfTestEnd 0 [] [786432]).wf = false ∧
    (Instr.maintenanceSlot 0 [786431] 0 false).wf = true ∧ (Instr.refillEnd 0 786431 (List.replicate 8 .clean) true).wf = true ∧
    (Instr.loftSelfTestEnd 0 [4095] [786431]).wf = true := by decide +kernel

theorem test_wf_dram :
    (Instr.dramSectorRead 0 1 .clean .memRead).wf = false ∧ (Instr.dramSectorRead 0 (2 ^ 40) .clean .memRead).wf = false ∧
    (Instr.dramFullWrite 0 1 (List.replicate 64 0)).wf = false ∧ (Instr.dramFullWrite 0 (2 ^ 40) (List.replicate 64 0)).wf = false ∧
    (Instr.dramFullWrite 0 64 (List.replicate 63 0)).wf = false ∧ (Instr.dramFullWrite 0 64 (List.replicate 64 0)).wf = true ∧
    (Instr.dramPartialWrite 0 (2 ^ 40) [0] .clean none).wf = false ∧ (Instr.dramPartialWrite 0 0 [] .clean none).wf = false ∧
    (Instr.dramPartialWrite 0 63 [0, 0] .clean none).wf = false ∧
    (Instr.dramPartialWrite 0 0 (List.replicate 64 0) .clean none).wf = false ∧
    (Instr.dramPartialWrite 0 62 [0, 0] .clean none).wf = true := by decide +kernel

theorem test_wf_packets :
    (Instr.linkFrameReceived 0 0 0 0 0 (List.replicate 17 0) true).wf = false ∧
    (Instr.linkFrameReceived 0 0 0 0 0 [] true).wf = false ∧
    (Instr.linkFrameReceived 0 0 0 0 0 (List.replicate 4608 0) true).wf = false ∧
    (Instr.linkFrameReceived 0 0 0 0 0 (List.replicate 512 0) true).wf = true ∧
    (Instr.thermalSample 0 (List.replicate 7 0)).wf = false ∧ (Instr.thermalSample 0 (List.replicate 8 0)).wf = true := by
  decide +kernel

/-- Data one byte too long, and just short enough: the length is written out so that no check builds the list. -/
theorem test_wf_long (d e : List Byte) (hd : d.length = 65536) (he : e.length = 2 ^ 25 + 1) :
    (Instr.csiLongPacket 0 0 0 0 d .sound true).wf = false ∧ (Instr.csiEmbeddedData 0 0 0 d .sound true).wf = false ∧
    (Instr.bootPush 0 0 e).wf = false ∧ (Instr.bootCandidateRead 0 .host e).wf = false ∧ (Instr.bootPush 0 0 d).wf = true := by
  simp [Instr.wf, Instr.operandsOk, Instr.time, hd, he]

/-- There are such data. -/
theorem test_wf_long_data : ∃ d e : List Byte, d.length = 65536 ∧ e.length = 2 ^ 25 + 1 :=
  ⟨_, _, List.length_replicate (n := 65536) (a := 0), List.length_replicate (n := 2 ^ 25 + 1) (a := 0)⟩

/-! ### Values worked out outside the model -/

/-- The check value of CRC-32 with the IEEE 802.3 polynomial, of the digits 1 to 9 (R182). -/
theorem test_crc : crc32 (le 9 0x393837363534333231) = 0xCBF43926 := by decide +kernel

/-- The SHA-384 digest of the three bytes abc, from the standard that R633 names; the base point of P-384 is on the curve. -/
theorem test_signature_parts : (beNat (sha384 (le 3 0x636261))) =
      0xcb00753f45a35e8bb5a03d699ac65007272c32ab0eded1631a8b605a43ff5bed8086072ba1e7cc2358baeca134c825a7 ∧
    onCurve gx384 gy384 = true := by decide +kernel

end Sys2Proof.Tests
end

/-! ## The block as a whole: what one step does -/

namespace Sys2Proof.Machine

/-- With a command at the front of its queue the block runs that command on the state that keeps the rest. -/
theorem step_of_pending_cons {c : Instr} {rest : List Instr} {s : State} (h : s.pending = c :: rest) :
    step s = exec c { s with pending := rest } := by
  simp only [step, h]

/-- With no command in its queue the block idles (assumption log 3). -/
theorem step_of_pending_nil {s : State} (h : s.pending = []) : step s = .next s := by
  simp only [step, h]

/-- Settles O49, by the two cases of the queue: taking the command that was put in front of the queue of `s` gives `s`
back, and on that state the command runs; on an empty queue the block idles. -/
theorem stepTakesTheFrontCommand : Obligations.StepTakesTheFrontCommand := by
  unfold Obligations.StepTakesTheFrontCommand
  exact ⟨fun _ _ => step_of_pending_cons rfl, fun _ => step_of_pending_nil⟩

end Sys2Proof.Machine

/-! ## Frames and windows: acceptance and the passing of time -/

namespace Sys2Proof.Machine

section
variable (t : Instant) (s : State)
@[simp] theorem advance_graph (k : Nat) : (advance t s).graph k = s.graph k := rfl
@[simp] theorem advance_inst (k : Nat) : (advance t s).inst k = s.inst k := rfl
@[simp] theorem advance_node (k n : Nat) : (advance t s).node k n = s.node k n := rfl
@[simp] theorem advance_nodeRunning (k n : Nat) : (advance t s).nodeRunning k n = s.nodeRunning k n := rfl
@[simp] theorem advance_contract (n : Nat) : (advance t s).contract n = s.contract n := rfl
@[simp] theorem nodeBusy_advance (k n : Nat) : nodeBusy (advance t s) k n = nodeBusy s k n := rfl
@[simp] theorem accepted_tick (seq : Nat) : (accepted seq t s).tick = s.tick := rfl
@[simp] theorem accepted_graph (seq k : Nat) : (accepted seq t s).graph k = s.graph k := rfl
end

@[simp] theorem layout_fst {e : Entry} {used : List (Nat × Nat)} : (layout e used).1 = !unusedZero e used := rfl

@[simp] theorem badIf_fst {p : Bool} : (badIf p).1 = p := rfl

end Sys2Proof.Machine

/-! ## The tick commands: the checks that pass, and what is left -/

namespace Sys2Proof.Machine

/-- OPEN of the configuration that a source code names: only TICK_IN takes a guard (R27, R40). -/
theorem openUs_sourceOf (code : Nat) (prm : TickParams) :
    openUs (sourceOf code) prm = prm.p - (if code = 1 then ceilDiv prm.p 50 else 0) - prm.r := by
  match code with
  | 0 => rfl
  | 1 => rfl
  | n + 2 =>
    have : n + 2 ≠ 1 := by omega
    simp [openUs, sourceOf, guardUs, this]

/-- The source that a valid code names (Table 4.7). -/
theorem sourceOf_eq (code : Nat) :
    sourceOf code = if code = 0 then .internal else if code = 1 then .tickIn else .plink := by
  match code with
  | 0 => rfl
  | 1 => rfl
  | n + 2 => simp [sourceOf]

/-- TICK_CONFIG is taken where no change is in the way (R64). -/
theorem configState_eq_false {s : State} {prm : TickParams} (h1 : s.tick.state ≠ .switching)
    (h2 : s.tick.state = .running → prm = prmSoon s)
    (h3 : s.tick.state = .paused → ∀ w, s.tick.switch = some w → w.tk = none) : configState s prm = false := by
  unfold configState
  cases hx : s.tick.state with
  | switching => exact absurd hx h1
  | running => simp [h2 hx]
  | paused =>
    cases hw : s.tick.switch with
    | none => simp
    | some w => simp [h3 hx w hw]
  | stopped => simp
  | lost => simp

/-- The operands of a TICK_CONFIG are in range, and its window holds Q and leaves 100 µs of OPEN (R27, R28, R40). -/
structure ConfigOperandsOk (e : Entry) (s : State) : Prop where
  unlisted : unusedZero e [(16, 12)] = true
  code : efld e 16 1 ≤ 2
  port : if efld e 16 1 = 2 then efld e 17 1 ≤ 3 else efld e 17 1 = 0
  period : 500 ≤ (configPrm e).p ∧ (configPrm e).p ≤ 200000
  reserve : 20 ≤ (configPrm e).r ∧ (configPrm e).r ≤ 2000
  slot : 5 ≤ (configPrm e).m ∧ (configPrm e).m ≤ 100
  quiesce : quiesceNs s (configPrm e).m ≤ 1000 * (configPrm e).r
  opens : 100 ≤ openUs (sourceOf (efld e 16 1)) (configPrm e)

/-- A TICK_CONFIG whose operands are sound, whose state allows it and whose graphs fit is in force at once in STOPPED and LOST
and recorded elsewhere (R64). -/
theorem execTickConfig_runs {t : Instant} {r : RingRef} {e : Entry} {seq : Nat} {c : Cmd} {s : State}
    (h : Accepts 0x0301 t r e seq c s) (ho : ConfigOperandsOk e (accepted seq t s))
    (hs : configState (accepted seq t s) (configPrm e) = false)
    (hl : longestArmed (foreseen (accepted seq t s)) (stretchNow (accepted seq t s)) ≤
      openUs (sourceOf (efld e 16 1)) (configPrm e)) :
    exec (.tickConfig t r e) s = .next (settle (if s.tick.state = .stopped ∨ s.tick.state = .lost then
        applyConfig seq (sourceOf (efld e 16 1)) (efld e 17 1) (configPrm e) (accepted seq t s)
      else deferConfig seq (sourceOf (efld e 16 1)) (efld e 17 1) (configPrm e) (accepted seq t s))) := by
  obtain ⟨hz, hc, hport, hp, hr, hm, hq, hopen⟩ := ho
  change execTickConfig t r e s = _
  rw [execTickConfig, command_runs h]
  · rfl
  · simpa [hz, hc, hp, hr, hm, hq, hopen, hs, hl] using hport

/-- New values of P, R and M in force change nothing but the tick machine and what FSYNC has reported of it. -/
theorem setPrm_spec (prm : TickParams) (s : State) :
    (setPrm prm s).tick = { s.tick with prm := prm, newParams := if prm = s.tick.prm then s.tick.newParams else none } ∧
      ({ setPrm prm s with tick := s.tick, fsync := s.fsync } : State) = s := by
  unfold setPrm
  by_cases hp : prm = s.tick.prm
  · rw [if_pos hp, if_pos hp, hp]
    exact ⟨rfl, rfl⟩
  · rw [if_neg hp, if_neg hp]
    simp only [takeParams, State.modTick, and_self]

/-- In STOPPED a TICK_CONFIG takes its source, its port and its parameters and completes (R64). -/
theorem applyConfig_stopped {seq : Nat} {src : TickSource} {port : Nat} {prm : TickParams} {s : State}
    (h : s.tick.state = .stopped) : applyConfig seq src port prm s =
      finish seq .ok 0 ((setPrm prm s).modTick fun k => { k with source := src, port := port }) := by
  have hx : (setPrm prm s).tick.state = .stopped := (congrArg Tick.state (setPrm_spec prm s).1).trans h
  simp [applyConfig, hx, done]

/-- Settles O5: the checks pass, and in STOPPED `setPrm_spec` says what is left. -/
theorem tickConfigTakesEffect : Obligations.TickConfigTakesEffect := by
  unfold Obligations.TickConfigTakesEffect
  intro t r e seq c s
  dsimp only
  intro h hz hc hport hp hp' hr hr' hm hm' hq ho hsw hrun hpaused hlong
  have hopen := openUs_sourceOf (efld e 16 1) (configPrm e)
  have hrun := execTickConfig_runs h ⟨hz, hc, hport, ⟨hp, hp'⟩, ⟨hr, hr'⟩, ⟨hm, hm'⟩, hq, ho.trans_eq hopen.symm⟩
    (configState_eq_false hsw hrun hpaused) (hlong.trans_eq hopen.symm)
  refine ⟨hrun, fun hx => ⟨(setPrm (configPrm e) (accepted seq t s)).modTick fun k =>
    { k with source := sourceOf (efld e 16 1), port := efld e 17 1 }, ?_, ?_, ?_⟩⟩
  · rw [hrun, if_pos (.inl hx), applyConfig_stopped (s := accepted seq t s) hx]
  · rw [State.modTick_self, (setPrm_spec _ _).1, sourceOf_eq]
    rfl
  · exact (setPrm_spec (configPrm e) (accepted seq t s)).2

/-- Settles O6: both commands pass their checks. -/
theorem tickStartAndStatusTakeEffect : Obligations.TickStartAndStatusTakeEffect := by
  unfold Obligations.TickStartAndStatusTakeEffect
  intro t r e seq c s
  dsimp only
  refine ⟨fun h hz hx => ?_, fun h hz ha hlen => ?_⟩
  · exact command_runs h (by simp [hz, hx])
  · exact command_runs h (by simp [bufChecks, hz, ha, hlen])

/-- A PAUSE or an entry to PAUSED is pending. -/
theorem pausePending_iff {k : Tick} : k.pausePending = true ↔ k.pause.isSome ∨ k.haltPending = true := by
  simp [Tick.pausePending]

section
variable {t : Instant} {r : RingRef} {e : Entry} {seq : Nat} {c : Cmd} {s : State}

/-- A valid PAUSE is recorded, or names the state to return to from LOST (R35, R59). -/
theorem execPause_runs (h : Accepts 0x0303 t r e seq c s) (hz : unusedZero e [(16, 4)] = true)
    (hv : pauseValid s.tick = true) : exec (.pause t r e) s = .next (settle (if s.tick.state = .lost then
        finish seq .ok 0 ((accepted seq t s).modTick fun x => { x with returnTo := .paused })
      else finish seq .deferred 0 ((accepted seq t s).modTick fun x =>
        { x with pause := some (effectTick (accepted seq t s) (efld e 16 4)) }))) :=
  command_runs h (by simp [hz, hv])

/-- A valid RESUME cancels a PAUSE, is recorded, or names the state to return to from LOST (R35, R60, R63). -/
theorem execResume_runs (h : Accepts 0x0304 t r e seq c s) (hz : unusedZero e [(16, 4)] = true)
    (hv : resumeValid s.tick = true) : exec (.resume t r e) s = .next (settle (if s.tick.state = .lost then
        finish seq .ok 0 ((accepted seq t s).modTick fun x => { x with returnTo := .running })
      else if s.tick.pausePending then
        finish seq .ok 0 ((accepted seq t s).modTick fun x => { x with pause := none, haltPending := false })
      else finish seq .deferred 0 ((accepted seq t s).modTick fun x =>
        { x with resume := some (effectTick (accepted seq t s) (efld e 16 4)) }))) :=
  command_runs h (by simp [hz, hv])

/-- HALT in every state but STOPPED (R35, R62, R63). -/
theorem execHalt_runs (h : Accepts 0x0305 t r e seq c s) (hz : unusedZero e [] = true) (hx : s.tick.state ≠ .stopped) :
    exec (.halt t r e) s = .next (settle (match s.tick.state with
      | .lost => finish seq .ok 0 ((accepted seq t s).modTick fun x => { x with returnTo := .paused })
      | .paused => finish seq .ok 0 ((accepted seq t s).modTick fun x => { x with pause := none, resume := none })
      | _ => finish seq .ok 0 (haltNow (accepted seq t s)))) :=
  command_runs h (by simp [hz, hx])

end

/-- HALT ends the instances of the window that is open (R62). -/
theorem haltNow_eq (s : State) :
    haltNow s = if s.tick.window.isSome = true then
        haltAll (s.modTick fun x => { x with
          pause := none, resume := none, haltPending := true
          window := x.window.map fun w => { w with halted := true } })
      else s.modTick fun x => { x with
        pause := none, resume := none, haltPending := true
        window := x.window.map fun w => { w with halted := true } } := by
  unfold haltNow
  simp only [State.modTick_self, Option.isSome_map]

/-- Settles O7: in each state the command is valid, and one branch of its effect is taken. -/
theorem pauseCommandsTakeEffect : Obligations.PauseCommandsTakeEffect := by
  unfold Obligations.PauseCommandsTakeEffect
  intro t r e seq c s
  dsimp only
  simp only [← pausePending_iff, Bool.not_eq_true]
  refine ⟨fun h hz => ?_, fun h hz => ?_, fun h hz => ?_⟩
  · refine ⟨fun hx => ?_, fun hx => ?_⟩
    · rw [execPause_runs h hz (by simp [pauseValid, hx]), if_pos hx]
    · obtain ⟨hv, hn⟩ : pauseValid s.tick = true ∧ s.tick.state ≠ .lost := by
        rcases hx with ⟨hx | hx, hp⟩ | ⟨hx, hr, hp⟩ <;> simp [pauseValid, *]
      rw [execPause_runs h hz hv, if_neg hn]
      rfl
  · refine ⟨fun hx => ?_, fun hx => ?_, fun ⟨hx, hr, hp⟩ => ?_⟩
    · rw [execResume_runs h hz (by simp [resumeValid, hx]), if_pos hx]
    · have hp : s.tick.pausePending = true := hx.elim (·.2) fun hx => pausePending_iff.2 (.inl hx.2.2)
      obtain ⟨hv, hn⟩ : resumeValid s.tick = true ∧ s.tick.state ≠ .lost := by
        rcases hx with ⟨hx | hx, -⟩ | ⟨hx, -, hx'⟩ <;> simp [resumeValid, *]
      rw [execResume_runs h hz hv, if_neg hn, if_pos hp]
    · rw [execResume_runs h hz (by simp [resumeValid, hx, hr]), if_neg (by simp [hx]), hp]
      rfl
  · refine ⟨fun hx => ?_, fun hx => ?_, fun hx => ⟨_, rfl, ?_⟩⟩
    · rw [execHalt_runs h hz (by simp [hx]), hx]
    · rw [execHalt_runs h hz (by simp [hx]), hx]
    · refine Eq.trans ?_ (congrArg (fun u => Host.Outcome.next (settle (finish seq .ok 0 u))) (haltNow_eq (accepted seq t s)))
      rcases hx with hx | hx <;> rw [execHalt_runs h hz (by simp [hx]), hx]

end Sys2Proof.Machine

/-! ## GRAPH_ARM, GRAPH_DISARM and GRAPH_PARAM_SET -/

namespace Sys2Proof.Machine

/-- A present key's value changed. -/
theorem tmod_eq_tset {α : Type} {m : Table α} {k : Nat} {x : α} {f : α → α} (h : tget m k = some x) :
    tmod m k f = tset m k (f x) := by
  simp only [tmod, h]

/-- A loaded graph changed. -/
theorem State.modGraph_of_graph {s : State} {g : Nat} {gr : Graph} {f : Graph → Graph} (h : s.graph g = some gr) :
    s.modGraph g f = { s with drover := { s.drover with graphs := tset s.drover.graphs g (f gr) } } := by
  have hm : tmod s.drover.graphs g f = tset s.drover.graphs g (f gr) := tmod_eq_tset h
  simp only [State.modGraph, State.modDrover, hm]

/-- A slot that holds a graph passes the check for one. -/
theorem noGraph_fst {s : State} {e : Entry} {gr : Graph} (h : s.graph (graphOf e) = some gr) : (noGraph s e).1 = false := by
  simp [noGraph, h]

section
variable {t : Instant} {r : RingRef} {e : Entry} {gr : Graph} {seq : Nat} {c : Cmd} {s : State}
  (hb : graphBusy s e = false) (ht : efld e 16 1 ≤ 3) (hg : efld e 17 1 ≤ 63) (hgr : s.graph (graphOf e) = some gr)
include hb ht hg hgr

/-- A sound GRAPH_ARM is recorded (R194, R497). -/
theorem exec_graphArm (h : Accepts 0x0503 t r e seq c s) (hz : unusedZero e [(16, 16)] = true)
    (hx : s.tick.state ≠ .lost) (hp : ∀ x ∈ armParams e, x.1 = false)
    (hc : ∀ x ∈ armChecks e (accepted seq t s) gr, x.1 = false) :
    exec (.graphArm t r e) s = .next (settle (deferredOk seq (
      if gr.system then
        defer (.systemArm (graphOf e)) ((accepted seq t s).modGraph (graphOf e) fun x =>
          { x with systemArm := some (armSpec e) })
      else defer (.arm (graphOf e) (armSpec e)) (accepted seq t s)))) := by
  change execGraphArm t r e s = _
  rw [execGraphArm, graphCommand_runs h hb ht hg]
  · simp only [accepted_graph, hgr]
  · simp only [accepted_graph, hgr, List.mem_append, List.mem_cons, List.not_mem_nil, or_false]
    rintro x (((rfl | rfl | rfl) | hx') | hx')
    · simp [hz]
    · exact noGraph_fst (s := accepted seq t s) hgr
    · simp [hx]
    · exact hp x hx'
    · exact hc x hx'

/-- A GRAPH_DISARM of an armed graph cancels its pending arm or is recorded (R175). -/
theorem exec_graphDisarm (h : Accepts 0x0504 t r e seq c s) (hz : unusedZero e [(16, 2)] = true)
    (ha : ∀ x, (foreseen (accepted seq t s)).graph (graphOf e) = some x → x.isArmed = true) :
    exec (.graphDisarm t r e) s = .next (settle (
      if armPending (accepted seq t s) (graphOf e) then
        done seq ({ accepted seq t s with deferred := (accepted seq t s).deferred.filter fun d =>
            match d with | .arm k _ | .systemArm k => decide (k ≠ graphOf e) | _ => true }.modGraph
          (graphOf e) fun x => { x with systemArm := none })
      else deferredOk seq (defer (.disarm (graphOf e)) (accepted seq t s)))) := by
  refine graphCommand_runs h hb ht hg ?_
  simp only [List.mem_cons, List.not_mem_nil, or_false]
  rintro x (rfl | rfl | rfl)
  · simp [hz]
  · exact noGraph_fst (s := accepted seq t s) hgr
  · cases hf : (foreseen (accepted seq t s)).graph (graphOf e) with
    | none => rfl
    | some x => simp [ha x hf]

/-- A GRAPH_PARAM_SET whose bodies stay sound is recorded (R209, R210). -/
theorem exec_graphParamSet (h : Accepts 0x0505 t r e seq c s) (hz : unusedZero e [(16, 5), (24, 40)] = true)
    (hl : 1 ≤ efld e 20 1) (hl' : efld e 20 1 ≤ 40) (hr : zeros (ebytes e 24 40) (efld e 20 1) (40 - efld e 20 1) = true)
    (hn : efld e 18 2 + efld e 20 1 ≤ gr.param.length) {bodies : List (Node × List Byte)}
    (hbs : bodies = changedBodies gr (patch (paramSoon (accepted seq t s) (graphOf e) gr) (efld e 18 2)
      (ebytes e 24 (min (efld e 20 1) 40))) (efld e 18 2) (efld e 20 1))
    (hok : (bodies.all fun b => bodyOk (accepted seq t s) b.1 b.2 gr.blob) = true)
    (hin : (bodies.all fun b => bodyInside (accepted seq t s) (efld e 16 1) b.1 b.2 gr.blob) = true) :
    exec (.graphParamSet t r e) s = .next (settle (deferredOk seq (defer
      (.param (graphOf e) (efld e 18 2) (ebytes e 24 (min (efld e 20 1) 40))) (accepted seq t s)))) := by
  change execGraphParamSet t r e s = _
  rw [execGraphParamSet, graphCommand_runs h hb ht hg]
  simp only [accepted_graph, hgr, if_neg (Nat.not_lt.2 hn), ← hbs, List.mem_append, List.mem_cons, List.not_mem_nil, or_false]
  rintro x ((rfl | rfl | rfl | rfl) | rfl | rfl)
  · simp [hz]
  · exact noGraph_fst (s := accepted seq t s) hgr
  · simp [Nat.ne_of_gt hl, hl']
  · simp [hr]
  · simp [hok]
  · simp [hin]

end

/-- Settles O13: each command passes its checks, and the effect it records is written out. -/
theorem graphArmingCommandsTakeEffect : Obligations.GraphArmingCommandsTakeEffect := by
  unfold Obligations.GraphArmingCommandsTakeEffect
  intro t r e gr seq c s
  dsimp only
  intro hb ht hg hgr
  have hgr : s.graph (graphOf e) = some gr := hgr
  refine ⟨fun h hz hx hp hc => ?_, fun h hz ha => ?_, fun h hz hl hl' hr hn hok hin => ?_⟩
  · rw [exec_graphArm hb ht hg hgr h hz hx hp hc, State.modGraph_of_graph (s := accepted seq t s) hgr]
    rfl
  · have hrun := exec_graphDisarm hb ht hg hgr h hz ha
    refine ⟨fun hpend => ?_, fun hpend => ?_⟩
    · rw [hrun, if_pos (show armPending (accepted seq t s) (graphOf e) = true from hpend)]
      exact congrArg (fun u => Host.Outcome.next (settle (done seq u))) (State.modGraph_of_graph (by exact hgr))
    · rw [hrun, if_neg (show ¬armPending (accepted seq t s) (graphOf e) = true from Bool.eq_false_iff.1 hpend)]
      rfl
  · exact exec_graphParamSet hb ht hg hgr h hz hl hl' hr hn rfl hok hin

end Sys2Proof.Machine

/-! ## The tick sources: what an edge, the end of a band and a tick leave -/

namespace Sys2Proof.Machine

section
variable (x : Instant) (k : Tick)
@[simp] theorem timerNext_last : (timerNext x k).last = k.last := by unfold timerNext; split <;> rfl
@[simp] theorem timerNext_prm : (timerNext x k).prm = k.prm := by unfold timerNext; split <;> rfl
@[simp] theorem timerNext_stc : (timerNext x k).stc = k.stc := by unfold timerNext; split <;> rfl
@[simp] theorem timerNext_tickno : (timerNext x k).tickno = k.tickno := by unfold timerNext; split <;> rfl
@[simp] theorem timerNext_window : (timerNext x k).window = k.window := by unfold timerNext; split <;> rfl

/-- Only TICK_IN has no timer: the other sources' next tick is P later (R29, R487). -/
@[simp] theorem timerNext_due :
    (timerNext x k).due = if k.source = .tickIn then none else some (x + 1000 * k.prm.p) := by
  unfold timerNext
  split <;> simp_all
end

/-- What every tick at `x` leaves of a tick machine `k` without a switch in progress: its instant, the parameters that were
pending, the next STC and the timer. -/
def Tick.Stepped (k : Tick) (x : Instant) (u : State) : Prop :=
  u.tick.last = some x ∧ u.tick.prm = k.newParams.getD k.prm ∧ u.tick.stc = k.stc + 1 ∧
    u.tick.due = if k.source = .tickIn then none else some (x + 1000 * (k.newParams.getD k.prm).p)

/-- What a tick at `x` leaves where no switch is in progress: an open window in RUNNING, none in PAUSED (R38, R57, R61). -/
def Tick.Ticked (k : Tick) (x : Instant) (u : State) : Prop :=
  k.switch = none →
    (k.state = .running → k.pause = none → k.haltPending = false → k.Stepped x u ∧ u.tick.state = .running ∧
      u.tick.tickno = k.tickno + 1 ∧ u.tick.lastOpen = x ∧ ∃ v, u.tick.window = some v ∧ v.t0 = x ∧
        v.te = x + 1000 * ((k.newParams.getD k.prm).p - guardUs k.source (k.newParams.getD k.prm).p) ∧ v.phase = .opened) ∧
    (k.state = .paused → k.resume = none → k.Stepped x u ∧ u.tick.state = .paused ∧ u.tick.tickno = k.tickno ∧
      u.tick.window = none)

/-- What the timer is set to at a tick, with whatever state and window that tick leaves. -/
theorem Ticks.stepped {k j : Tick} {x : Instant} {u : State} (h : Ticks j u) (hl : j.last = some x)
    (hp : j.prm = k.newParams.getD k.prm) (hs : j.stc = k.stc + 1)
    (hd : j.due = if k.source = .tickIn then none else some (x + 1000 * (k.newParams.getD k.prm).p)) : k.Stepped x u :=
  ⟨(congrArg Tick.last h.eq).trans hl, (congrArg Tick.prm h.eq).trans hp, (congrArg Tick.stc h.eq).trans hs,
    (congrArg Tick.due h.eq).trans hd⟩

/-- A recognised tick that carries no STC of its own leaves the tick machine as `Tick.Ticked` says. -/
theorem tickAt_ticked (x : Instant) (fromNew : Bool) (evs : List Nat) (upset : BitVec 2) (s : State) :
    s.tick.Ticked x (tickAt x fromNew none evs upset s) := by
  intro hs
  refine ⟨fun hr hp hh => ?_, fun hr hp => ?_⟩
  · obtain ⟨b, hb⟩ := tickAt_opens (t0 := x) (fromNew := fromNew) (stc := none) (evs := evs) (upset := upset) hs hr hp hh
    exact ⟨hb.stepped (timerNext_last ..) (timerNext_prm ..) (timerNext_stc ..) (timerNext_due ..),
      congrArg Tick.state hb.eq, congrArg Tick.tickno hb.eq, congrArg Tick.lastOpen hb.eq, _, hb.window, rfl, rfl, rfl⟩
  · have h := tickAt_paused (t0 := x) (fromNew := fromNew) (stc := none) (evs := evs) (upset := upset) hs hr hp
    exact ⟨h.stepped (timerNext_last ..) (timerNext_prm ..) (timerNext_stc ..) (timerNext_due ..),
      congrArg Tick.state h.eq, (congrArg Tick.tickno h.eq).trans (timerNext_tickno ..), h.window.trans (timerNext_window ..)⟩

/-- Holdover and its count have no part in what a tick leaves. -/
theorem Tick.ticked_held {k : Tick} {x : Instant} {b : Bool} {n : Nat} {u : State} :
    ({ k with holdover := b, synth := n } : Tick).Ticked x u ↔ k.Ticked x u := Iff.rfl

/-- A tick of a state whose tick machine is `k` but for holdover and its count. -/
theorem tickAt_ticked_of_held {k : Tick} {b : Bool} {n : Nat} (x : Instant) (fromNew : Bool) (evs : List Nat) (upset : BitVec 2)
    {s : State} (h : s.tick = { k with holdover := b, synth := n }) :
    k.Ticked x (tickAt x fromNew none evs upset s) := by
  have ht := tickAt_ticked x fromNew evs upset s
  rw [h] at ht
  exact Tick.ticked_held.1 ht

/-- So does a synthesised tick (R32, R33). -/
theorem synthesise_ticked (x : Instant) (fromNew : Bool) (upset : BitVec 2) (s : State) :
    s.tick.Ticked x (synthesise x fromNew upset s) := by
  unfold synthesise
  exact tickAt_ticked_of_held x fromNew _ upset rfl

section
variable {s : State} {src : TickSource}

/-- Ticks of a source are recognised in RUNNING and PAUSED, until a switch away from it has reached t_k (R66). -/
theorem followsSource_iff : followsSource s src = true ↔ s.tick.source = src ∧
    (s.tick.state = .running ∨ s.tick.state = .paused) ∧
      (s.tick.switch.all fun w => decide (w.tk = none)) = true := by
  unfold followsSource
  cases s.tick.switch <;> simp [and_assoc]

/-- No switch goes to the source. -/
theorem switchTo_eq_none (h : (s.tick.switch.all fun w => decide (w.source ≠ src)) = true) : switchTo s src = none := by
  unfold switchTo
  cases hw : s.tick.switch with
  | none => rfl
  | some w => simp_all

/-- The switch in progress goes to the source. -/
theorem switchTo_eq_some {w : Switch} (hw : s.tick.switch = some w) (hs : w.source = src) : switchTo s src = some w := by
  simp [switchTo, hw, hs]

end

section
variable {s : State} {upset : BitVec 2}

/-- Without a switch to TICK_IN an edge is one of the source in force. -/
theorem takeEdge_eq_ownEdge (h : switchTo s .tickIn = none) : takeEdge upset s = ownEdge upset s := by
  simp only [takeEdge, h]

/-- Where another source is in force, an edge has no effect. -/
theorem ownEdge_other (h : s.tick.source ≠ .tickIn) : ownEdge upset s = s := if_pos h

/-- An edge in LOST may reacquire (R34). -/
theorem ownEdge_lost (h : s.tick.source = .tickIn) (hl : s.tick.state = .lost) :
    ownEdge upset s = qualifyEdge (fun u => reacquire s.now none upset u) s := by
  simp [ownEdge, h, hl]

/-- An edge after TICK_START may be the first tick (R57). -/
theorem ownEdge_starting (h : followsSource s .tickIn = true) (ha : s.tick.startedAt.isSome = true) :
    ownEdge upset s = qualifyEdge (fun u => tickAt s.now false none [] upset u) s := by
  obtain ⟨hs, hr, -⟩ := followsSource_iff.1 h
  have hl : s.tick.state ≠ .lost := by rcases hr with hr | hr <;> simp [hr]
  simp [ownEdge, hs, hl, ha]

/-- An edge of the source that is followed: early, in its band, or late (R30, R31, R33). -/
theorem ownEdge_follows (h : followsSource s .tickIn = true) (ha : s.tick.startedAt = none) :
    ownEdge upset s = if s.now < (tickBand s).1 then
        tickFault .early (s.modTick fun k => { k with edgesIgnored := k.edgesIgnored + 1 })
      else if s.now ≤ (tickBand s).2 then tickAt s.now false none (endHoldover s).2 upset (endHoldover s).1
      else s := by
  obtain ⟨hs, hr, -⟩ := followsSource_iff.1 h
  have hl : s.tick.state ≠ .lost := by rcases hr with hr | hr <;> simp [hr]
  simp [ownEdge, hs, hl, ha, h]

/-- Two edges P apart, within G, qualify (R34, R57). -/
theorem qualifyEdge_pair {f : State → State} (h : (s.tick.edges.any fun e =>
    spaced (periodNs s) (guardNs s .tickIn) e s.now) = true) : qualifyEdge f s = f s := if_pos h

/-- An edge that none precedes by P is noted. -/
theorem qualifyEdge_first {f : State → State} (h : ¬(s.tick.edges.any fun e =>
    spaced (periodNs s) (guardNs s .tickIn) e s.now) = true) : qualifyEdge f s = s.modTick fun k =>
      { k with edges := s.now :: recentEdges (periodNs s) (guardNs s .tickIn) s.now k.edges } := if_neg h

/-- The end of a band of the source in force: a synthesised tick, LOST after 16 of them, or nothing before it (R32, R34). -/
theorem bandExpiry_own (h : switchTo s .tickIn = none) : bandExpiry upset s =
    if followsSource s .tickIn && s.tick.startedAt.isNone then
      if (tickBand s).2 ≤ s.now then
        if 16 ≤ s.tick.synth then enterLost s else synthesise (tickBand s).2 false upset s
      else s
    else s := by
  simp only [bandExpiry, h, Option.bind_none]

/-- Where ticks of TICK_IN are not followed, or none has come since TICK_START, no band ends. -/
theorem bandExpiry_idle (h : switchTo s .tickIn = none)
    (hf : followsSource s .tickIn = false ∨ s.tick.startedAt.isNone = false) : bandExpiry upset s = s := by
  rw [bandExpiry_own h]
  rcases hf with hf | hf <;> simp [hf]

/-- An edge of a source that a switch goes to, before t_k, qualifies it or moves its anchor (R65, R679). -/
theorem takeEdge_qualifying {w : Switch} (hw : switchTo s .tickIn = some w) (hk : w.tk = none) :
    takeEdge upset s = followSwitch w s.now s := by
  simp only [takeEdge, hw, hk]

/-- After t_k, an edge in the first band of the new source is its first tick (R66, R679). -/
theorem takeEdge_first {w : Switch} {tk : Instant} (hw : switchTo s .tickIn = some w) (hk : w.tk = some tk) :
    takeEdge upset s = if (newBand s (w.anchor.getD tk) tk).1 ≤ s.now ∧ tk ≤ s.now ∧
        s.now ≤ (newBand s (w.anchor.getD tk) tk).2 then tickAt s.now true none [] upset s else s := by
  simp only [takeEdge, hw, hk]

/-- After t_k, the end of that band is a synthesised tick of the new source (R679). -/
theorem bandExpiry_first {w : Switch} {tk : Instant} (hw : switchTo s .tickIn = some w) (hk : w.tk = some tk) :
    bandExpiry upset s = if (newBand s (w.anchor.getD tk) tk).2 ≤ s.now then
      synthesise (newBand s (w.anchor.getD tk) tk).2 true upset s else s := by
  simp only [bandExpiry, hw, hk, Option.bind_some, Option.map_some]

end

end Sys2Proof.Machine

/-! ## The rows of INTERNAL and TICK_IN -/

namespace Sys2Proof.Machine

section
variable {t : Instant} {upset : BitVec 2} {s : State}

/-- The internal timer at its due instant (R29). -/
theorem execInternalTick_due {d : Instant} (hl : s.alive = true) (hf : followsSource s .internal = true)
    (hd : s.tick.due = some d) (hn : d ≤ (advance t s).now) :
    exec (.internalTick t upset) s = .next (tickAt d false none [] upset (advance t s)) := by
  have hf' : followsSource (advance t s) .internal = true := hf
  change execInternalTick t upset s = _
  rw [execInternalTick, event_runs hl]
  simp only [advance_tick, hd, hf', hn, and_self, if_true]

/-- Before its due instant, and with no tick due, the internal timer gives none. -/
theorem execInternalTick_early {d : Instant} (hl : s.alive = true)
    (hd : s.tick.due = none ∨ s.tick.due = some d ∧ (advance t s).now < d) :
    exec (.internalTick t upset) s = .next (advance t s) := by
  change execInternalTick t upset s = _
  rw [execInternalTick, event_runs hl]
  rcases hd with hd | ⟨hd, hn⟩
  · simp only [advance_tick, hd]
  · simp only [advance_tick, hd, Nat.not_le.2 hn, and_false, if_false]

/-- An edge of TICK_IN is taken where clocks run. -/
theorem execTickInEdge_runs (hl : s.alive = true) :
    exec (.tickInEdge t upset) s = .next (takeEdge upset (advance t s)) := event_runs hl

/-- The end of a band is taken where clocks run. -/
theorem execTickInBandExpiry_runs (hl : s.alive = true) :
    exec (.tickInBandExpiry t upset) s = .next (bandExpiry upset (advance t s)) := event_runs hl

/-- 16 P after TICK_START without a tick (R57). -/
theorem execTickQualifyTimeout_started {a : Instant} (hl : s.alive = true) (ha : s.tick.startedAt = some a) :
    exec (.tickQualifyTimeout t) s = .next (if a + 16 * periodNs s ≤ (advance t s).now then
      enterStopped (tickFault .noQualify (advance t s)) else advance t s) := by
  change execTickQualifyTimeout t s = _
  rw [execTickQualifyTimeout, event_runs hl]
  simp only [advance_tick, ha]
  rfl

/-- 16 P of the configuration to come without qualification of the source a switch goes to (R67). -/
theorem execTickQualifyTimeout_switch {w : Switch} (hl : s.alive = true) (ha : s.tick.startedAt = none)
    (hw : s.tick.switch = some w) : exec (.tickQualifyTimeout t) s = .next (
      if w.qualified.isNone = true ∧ w.accepted + 16 * switchPeriod (advance t s) ≤ (advance t s).now then
        tickFault .noQualify ((advance t s).modTick fun k => { k with switch := none }) else advance t s) := by
  change execTickQualifyTimeout t s = _
  rw [execTickQualifyTimeout, event_runs hl]
  simp only [advance_tick, ha, hw]

/-- With neither a start nor a switch in progress nothing waits for qualification. -/
theorem execTickQualifyTimeout_idle (hl : s.alive = true) (ha : s.tick.startedAt = none) (hw : s.tick.switch = none) :
    exec (.tickQualifyTimeout t) s = .next (advance t s) := by
  change execTickQualifyTimeout t s = _
  rw [execTickQualifyTimeout, event_runs hl]
  simp only [advance_tick, ha, hw]

end

/-- The device in LOST: no window, and the state says so (R34, R35). -/
theorem enterLost_tick (s : State) : (enterLost s).tick.state = .lost ∧ (enterLost s).tick.window = none := by
  obtain ⟨r, h⟩ := enterLost_ticks (Ticks.self s)
  exact ⟨congrArg Tick.state h.eq, h.window⟩

/-- The device that no tick has reached since TICK_START is in STOPPED again (R57). -/
theorem enterStopped_noQualify_tick (s : State) :
    (enterStopped (tickFault .noQualify s)).tick.state = .stopped ∧
      (enterStopped (tickFault .noQualify s)).tick.switch = none ∧
      (enterStopped (tickFault .noQualify s)).tick.startedAt = none := by
  have h := enterStopped_ticks (tickFault_ticks (f := .noQualify) (Ticks.self s))
  exact ⟨congrArg Tick.state h.eq, congrArg Tick.switch h.eq, congrArg Tick.startedAt h.eq⟩

/-- A switch whose source has not qualified is given up, the source in force kept (R67). -/
theorem giveUpSwitch_tick (s : State) :
    let u := tickFault .noQualify (s.modTick fun k => { k with switch := none })
    u.tick.switch = none ∧ u.tick.source = s.tick.source ∧ u.tick.state = s.tick.state := by
  have h := tickFault_ticks (f := .noQualify) (Ticks.self (s.modTick fun k => { k with switch := none }))
  exact ⟨congrArg Tick.switch h.eq, (congrArg Tick.source h.eq).trans rfl, (congrArg Tick.state h.eq).trans rfl⟩

section
variable {t : Instant} {upset : BitVec 2} {s : State} (hl : s.alive = true)
include hl

/-- Rows of TICK_IN while its ticks are followed (R30 to R34). -/
theorem tickIn_followed (hf : followsSource s .tickIn = true) (he : switchTo s .tickIn = none)
    (ha : s.tick.startedAt = none) :
    let h := advance t s
    (h.now < (tickBand s).1 → exec (.tickInEdge t upset) s =
      .next (tickFault .early (h.modTick fun k => { k with edgesIgnored := k.edgesIgnored + 1 }))) ∧
    ((tickBand s).1 ≤ h.now → h.now ≤ (tickBand s).2 → exec (.tickInEdge t upset) s =
      .next (tickAt h.now false none (endHoldover h).2 upset (endHoldover h).1)) ∧
    ((tickBand s).1 ≤ h.now → (tickBand s).2 < h.now → exec (.tickInEdge t upset) s = .next h) ∧
    ((tickBand s).2 ≤ h.now → s.tick.synth < 16 → exec (.tickInBandExpiry t upset) s =
      .next (synthesise (tickBand s).2 false upset h)) ∧
    ((tickBand s).2 ≤ h.now → 16 ≤ s.tick.synth → exec (.tickInBandExpiry t upset) s = .next (enterLost h)) ∧
    (h.now < (tickBand s).2 → exec (.tickInBandExpiry t upset) s = .next h) := by
  intro h
  have hf' : followsSource h .tickIn = true := hf
  have he' : switchTo h .tickIn = none := he
  have ha' : h.tick.startedAt = none := ha
  have hb : tickBand h = tickBand s := rfl
  have hs : h.tick.synth = s.tick.synth := rfl
  rw [execTickInEdge_runs hl, execTickInBandExpiry_runs hl, takeEdge_eq_ownEdge he', ownEdge_follows hf' ha',
    bandExpiry_own he', hf', ha', hb, hs]
  refine ⟨fun h1 => by rw [if_pos h1], fun h1 h2 => by rw [if_neg (Nat.not_lt.2 h1), if_pos h2],
    fun h1 h2 => by rw [if_neg (Nat.not_lt.2 h1), if_neg (Nat.not_le.2 h2)], fun h1 h2 => ?_, fun h1 h2 => ?_, fun h1 => ?_⟩
  · simp [h1, Nat.not_le.2 h2]
  · simp [h1, h2]
  · simp [Nat.not_le.2 h1]

/-- Edges after TICK_START: the second of two P apart is the tick, and no band ends before it (R57). -/
theorem tickIn_starting (hf : followsSource s .tickIn = true) (he : switchTo s .tickIn = none) {a : Instant}
    (ha : s.tick.startedAt = some a) :
    let h := advance t s
    exec (.tickInEdge t upset) s = .next (qualifyEdge (fun u => tickAt h.now false none [] upset u) h) ∧
      exec (.tickInBandExpiry t upset) s = .next h := by
  intro h
  have he' : switchTo h .tickIn = none := he
  have ha' : h.tick.startedAt = some a := ha
  rw [execTickInEdge_runs hl, execTickInBandExpiry_runs hl, takeEdge_eq_ownEdge he',
    ownEdge_starting (s := h) hf (by rw [ha']; rfl), bandExpiry_idle he' (.inr (by rw [ha']; rfl))]
  exact ⟨rfl, rfl⟩

/-- Edges in LOST: the second of two P apart reacquires, and no band ends (R34, R35). -/
theorem tickIn_lost (hs : s.tick.source = .tickIn) (hx : s.tick.state = .lost) (hw : s.tick.switch = none) :
    let h := advance t s
    exec (.tickInEdge t upset) s = .next (qualifyEdge (fun u => reacquire h.now none upset u) h) ∧
      exec (.tickInBandExpiry t upset) s = .next h := by
  intro h
  have he : switchTo h .tickIn = none := switchTo_eq_none (s := h) (by rw [show h.tick.switch = none from hw]; rfl)
  have hf : followsSource h .tickIn = false := by
    rw [Bool.eq_false_iff, Ne, followsSource_iff]
    rintro ⟨-, hr, -⟩
    have hx' : h.tick.state = .lost := hx
    simp [hx'] at hr
  rw [execTickInEdge_runs hl, execTickInBandExpiry_runs hl, takeEdge_eq_ownEdge he, ownEdge_lost (s := h) hs hx,
    bandExpiry_idle he (.inl hf)]
  exact ⟨rfl, rfl⟩

/-- With another source in force and no switch to TICK_IN its rows let time pass (R29). -/
theorem tickIn_unselected (hs : s.tick.source ≠ .tickIn) (he : switchTo s .tickIn = none) :
    exec (.tickInEdge t upset) s = .next (advance t s) ∧ exec (.tickInBandExpiry t upset) s = .next (advance t s) := by
  have he' : switchTo (advance t s) .tickIn = none := he
  have hf : followsSource (advance t s) .tickIn = false := by
    rw [Bool.eq_false_iff, Ne, followsSource_iff]
    exact fun h => hs h.1
  rw [execTickInEdge_runs hl, execTickInBandExpiry_runs hl, takeEdge_eq_ownEdge he', ownEdge_other (s := advance t s) hs,
    bandExpiry_idle he' (.inl hf)]
  exact ⟨rfl, rfl⟩

/-- Edges that qualify the source of a switch (R65). -/
theorem tickIn_qualifying {w : Switch} (hw : s.tick.switch = some w) (hs : w.source = .tickIn) (hk : w.tk = none) :
    exec (.tickInEdge t upset) s = .next (followSwitch w (advance t s).now (advance t s)) := by
  rw [execTickInEdge_runs hl, takeEdge_qualifying (s := advance t s) (switchTo_eq_some hw hs) hk]

/-- The first band of the new source after t_k of a switch: an edge in it, or its end, is the tick (R66, R679). -/
theorem tickIn_switched {w : Switch} {a : Instant} (hw : s.tick.switch = some w) (hs : w.source = .tickIn)
    (hk : w.tk = some a) :
    let h := advance t s
    let first := newBand h (w.anchor.getD a) a
    (first.1 ≤ h.now → a ≤ h.now → h.now ≤ first.2 →
      exec (.tickInEdge t upset) s = .next (tickAt h.now true none [] upset h)) ∧
    (h.now < first.1 ∨ h.now < a ∨ first.2 < h.now → exec (.tickInEdge t upset) s = .next h) ∧
    (first.2 ≤ h.now → exec (.tickInBandExpiry t upset) s = .next (synthesise first.2 true upset h)) ∧
    (h.now < first.2 → exec (.tickInBandExpiry t upset) s = .next h) := by
  intro h first
  have he : switchTo h .tickIn = some w := switchTo_eq_some (s := h) hw hs
  rw [execTickInEdge_runs hl, execTickInBandExpiry_runs hl, takeEdge_first he hk, bandExpiry_first he hk]
  refine ⟨fun h1 h2 h3 => by rw [if_pos ⟨h1, h2, h3⟩], fun hn => ?_, fun h1 => by rw [if_pos h1],
    fun h1 => by rw [if_neg (Nat.not_le.2 h1)]⟩
  rw [if_neg]
  rintro ⟨h1, h2, h3⟩
  rcases hn with hn | hn | hn
  · exact Nat.not_le.2 hn h1
  · exact Nat.not_le.2 hn h2
  · exact Nat.not_le.2 hn h3

end

/-- Settles O31, source by source and case by case, with what each tick leaves by `tickAt_ticked`. -/
theorem tickSourcesTakeEffect : Obligations.TickSourcesTakeEffect := by
  unfold Obligations.TickSourcesTakeEffect
  intro t upset a w s hl
  dsimp only
  refine ⟨fun hf hd hn =>
      ⟨execInternalTick_due hl (followsSource_iff.2 hf) hd hn, tickAt_ticked a false [] upset (advance t s)⟩,
    execInternalTick_early hl, fun hf he ha => ?_, fun hf he ha => ?_, fun hs hx hw => ?_,
    fun hs he => tickIn_unselected hl hs (switchTo_eq_none he),
    fun hw hs => ⟨tickIn_qualifying hl hw hs, tickIn_switched hl hw hs⟩, fun ha => ?_, fun ha hw => ?_,
    execTickQualifyTimeout_idle hl⟩
  · obtain ⟨hEarly, hBand, hLate, hSynth, hLost, hIdle⟩ := tickIn_followed (t := t) (upset := upset) hl
      (followsSource_iff.2 hf) (switchTo_eq_none he) ha
    exact ⟨hEarly, fun h1 h2 => ⟨hBand h1 h2, tickAt_ticked_of_held _ _ _ _ rfl⟩, hLate,
      fun h1 h2 => ⟨hSynth h1 h2, synthesise_ticked _ _ _ (advance t s)⟩,
      fun h1 h2 => ⟨hLost h1 h2, enterLost_tick _⟩, hIdle⟩
  · obtain ⟨hEdge, hIdle⟩ := tickIn_starting (t := t) (upset := upset) hl (followsSource_iff.2 hf) (switchTo_eq_none he) ha
    exact ⟨fun hp => ⟨hEdge.trans (congrArg _ (qualifyEdge_pair hp)), tickAt_ticked _ _ _ _ (advance t s)⟩,
      fun hp => hEdge.trans (congrArg _ (qualifyEdge_first hp)), hIdle⟩
  · obtain ⟨hEdge, hIdle⟩ := tickIn_lost (t := t) (upset := upset) hl hs hx hw
    exact ⟨fun hp => hEdge.trans (congrArg _ (qualifyEdge_pair hp)),
      fun hp => hEdge.trans (congrArg _ (qualifyEdge_first hp)), hIdle⟩
  · rw [execTickQualifyTimeout_started hl ha]
    exact ⟨fun h1 => ⟨congrArg _ (if_pos h1), enterStopped_noQualify_tick _⟩,
      fun h1 => congrArg _ (if_neg (Nat.not_le.2 h1))⟩
  · rw [execTickQualifyTimeout_switch hl ha hw]
    refine ⟨fun hq h1 => ⟨congrArg _ (if_pos ⟨by rw [hq]; rfl, h1⟩), giveUpSwitch_tick (advance t s)⟩,
      fun h1 => congrArg _ (if_neg ?_)⟩
    rintro ⟨hq, hn⟩
    rcases h1 with h1 | h1
    · exact h1 (Option.isNone_iff_eq_none.1 hq)
    · exact Nat.not_le.2 h1 hn

end Sys2Proof.Machine

/-! ## The drain: what a row of each step does at, before and after its instant -/

namespace Sys2Proof.Machine

section
variable {j : Nat} {at_ : Window → Instant} {f : State → State} {w : Window} {s : State}

/-- At its instant a row whose step is still to be taken takes it, after the steps before it. -/
theorem drainRow_acts (hw : s.tick.window = some w) (hr : w.phase.rank < j) (ha : at_ w ≤ s.now) :
    drainRow j at_ f s = f (drainTo (j - 1) s) := by
  simp only [drainRow, hw, hr, ha, and_self, if_true]

/-- After its step and before its instant a row of the drain changes nothing. -/
theorem drainRow_idles (hw : s.tick.window = some w) (h : j ≤ w.phase.rank ∨ s.now < at_ w) :
    drainRow j at_ f s = s := by
  have hn : ¬(w.phase.rank < j ∧ at_ w ≤ s.now) := fun hc => h.elim (Nat.not_le.2 hc.1) (Nat.not_lt.2 hc.2)
  simp only [drainRow, hw, hn, if_false]

/-- With no window open a row of the drain changes nothing. -/
theorem drainRow_closed (hw : s.tick.window = none) : drainRow j at_ f s = s := by
  simp only [drainRow, hw]

end

/-- A row of the drain in every case where a window is open: the step before it taken, that step still to be taken, its
own step taken or to come. -/
theorem drainEvent_spec {j : Nat} {at_ : Window → Instant} {f : State → State} {t : Instant} {w : Window} {s : State}
    (hl : s.alive = true) (hw : s.tick.window = some w) (hj : j < 5)
    (hf : ∀ k s, Ticks k s → Ticks (k.inPhase (.after (j + 1))) (f s)) :
    (w.phase.rank = j → at_ w ≤ (advance t s).now →
      event t (drainRow (j + 1) at_ f) s = .next (f (advance t s))) ∧
    (w.phase.rank < j + 1 → at_ w ≤ (advance t s).now →
      event t (drainRow (j + 1) at_ f) s = .next (f (drainTo j (advance t s))) ∧
        (f (drainTo j (advance t s))).tick.window = some { w with phase := .after (j + 1) }) ∧
    (j + 1 ≤ w.phase.rank ∨ (advance t s).now < at_ w →
      event t (drainRow (j + 1) at_ f) s = .next (advance t s)) := by
  have hw' : (advance t s).tick.window = some w := hw
  rw [event_runs hl]
  refine ⟨fun hr ha => ?_, fun hr ha => ⟨?_, ?_⟩, fun h => ?_⟩
  · rw [drainRow_acts hw' (by omega) ha, Nat.add_sub_cancel, drainTo_past hw' (by omega)]
  · rw [drainRow_acts hw' hr ha, Nat.add_sub_cancel]
  · exact drained_window hw' hr (by omega) hf
  · rw [drainRow_idles hw' h]

/-- A row of the drain where no window is open lets time pass. -/
theorem drainEvent_closed {j : Nat} {at_ : Window → Instant} {f : State → State} {t : Instant} {s : State}
    (hl : s.alive = true) (hw : s.tick.window = none) : event t (drainRow j at_ f) s = .next (advance t s) := by
  rw [event_runs hl, drainRow_closed (s := advance t s) hw]

/-- Only in OPEN has no step of the drain been taken. -/
theorem Phase.rank_eq_zero {p : Phase} : p.rank = 0 ↔ p = .opened := by cases p <;> decide

/-- All five steps have been taken once the maintenance slot has. -/
theorem Phase.five_le_rank {p : Phase} : 5 ≤ p.rank ↔ p = .maintained := by cases p <;> decide

/-- Settles O33, row by row: `drainEvent_spec` says what each row does of an open window, `drainEvent_closed` of none. -/
theorem drainStepsTakeEffect : Obligations.DrainStepsTakeEffect := by
  unfold Obligations.DrainStepsTakeEffect
  intro t failing tests drift w s hl
  dsimp only
  refine ⟨fun hw => ?_, fun hw => ?_⟩
  · obtain ⟨-, dStep, dIdle⟩ := drainEvent_spec (t := t) (at_ := Window.td) hl hw (by decide : 0 < 5)
      fun _ _ => stopDispatch_ticks
    obtain ⟨gNext, gStep, gIdle⟩ := drainEvent_spec (t := t) (at_ := Window.tg) hl hw (by decide : 1 < 5)
      fun _ _ => guillotineStep_ticks
    obtain ⟨qNext, qStep, qIdle⟩ := drainEvent_spec (t := t) (at_ := Window.tf) hl hw (by decide : 2 < 5)
      fun _ _ => quiesceStep_ticks
    obtain ⟨eNext, eStep, eIdle⟩ := drainEvent_spec (t := t) (at_ := Window.tf) hl hw (by decide : 3 < 5)
      fun _ _ => flushStep_ticks
    obtain ⟨mNext, mStep, mIdle⟩ := drainEvent_spec (t := t) (at_ := Window.tm) hl hw (by decide : 4 < 5)
      fun _ _ => maintenanceStep_ticks (failing := failing) (fails := tests) (drift := drift)
    have rank {p : Phase} (hp : w.phase = p) : w.phase.rank = p.rank := congrArg Phase.rank hp
    refine ⟨fun hp => dStep (by rw [rank hp]; decide), fun hp => gNext (rank hp), gStep, fun hp => qNext (rank hp), qStep,
      fun hp => eNext (rank hp), eStep, fun hp => mNext (rank hp), mStep, fun hp => dIdle (hp.imp_left ?_), gIdle, qIdle,
      eIdle, fun hp => mIdle (hp.imp_left Phase.five_le_rank.2)⟩
    intro hp
    have := mt Phase.rank_eq_zero.1 hp
    omega
  · intro i hi
    simp only [List.mem_cons, List.not_mem_nil, or_false] at hi
    rcases hi with rfl | rfl | rfl | rfl | rfl <;> exact drainEvent_closed hl hw

end Sys2Proof.Machine

/-! ## The rows of nodes -/

namespace Sys2Proof.Machine

section
variable {k i : Nat} {parity : Bool} {s : State}

/-- A node whose rows are under refill, or whose taps are not served, does not end yet (R254, R371). -/
theorem finishWork_waits (h : waitsRefill s k i = true ∨ tapsDone k i s = false) : finishWork k i parity s = s := by
  unfold finishWork
  exact if_pos (by rcases h with h | h <;> simp [h])

/-- Otherwise its packets go first, then its accesses, and it ends once both have (R202, R227). -/
theorem finishWork_goes (hw : waitsRefill s k i = false) (ht : tapsDone k i s = true) :
    finishWork k i parity s = (
      let r := streamStep k i s
      let q := passStalls .node (65536 * k + i) (nodeRows r.1 k i) r.1
      if r.2 then if q.2 then endWorked k i parity q.1 else q.1 else r.1) := by
  unfold finishWork
  exact if_neg (by simp [hw, ht])

/-- What a node has done ends it, marked where its parity failed, if it still runs (R48, Table 16.2). -/
theorem endWorked_eq (k i : Nat) (parity : Bool) (s : State) : endWorked k i parity s = (
    let u := workNode k i (observeNode k i s)
    if u.nodeRunning k i then dropPackets k i (nodeDone k i (if parity then markNode k i 5 detailNone none u else u))
    else u) := rfl

end

section
variable {t : Instant} {g : GraphRef} {n : Nat} {parity : Bool} {s : State} (hl : s.alive = true)
include hl

/-- A ready node that no other outranks is dispatched (R44 to R46). -/
theorem execNodeDispatch_runs {gr : Graph} (hg : s.graph (refKey g) = some gr)
    (hr : nodeReady (advance t s) (refKey g) (pairHead gr n) = true)
    (ho : outranked (advance t s) (refKey g) (pairHead gr n) = false) :
    exec (.nodeDispatch t g n) s = .next ((pairOf gr (pairHead gr n)).foldl (fun u j => startUnits (refKey g) j u)
      (dispatch (refKey g) (pairHead gr n) (advance t s))) := by
  change execNodeDispatch t g n s = _
  rw [execNodeDispatch, event_runs hl]
  simp only [advance_graph, hg, hr, ho, Bool.not_false, Bool.and_true, if_true]

/-- The end of a node whose work takes time (R200). -/
theorem execNodeEnd_work (hr : s.nodeRunning (refKey g) n = true) (hb : nodeBusy s (refKey g) n = false)
    (hk : (s.node (refKey g) n).kind = .engine ∨ (s.node (refKey g) n).kind = .ne ∨
      (s.node (refKey g) n).kind = .resultOut) :
    exec (.nodeEnd t g n parity) s = .next (finishWork (refKey g) n parity (advance t s)) := by
  change execNodeEnd t g n parity s = _
  rw [execNodeEnd, event_runs hl]
  simp only [advance_nodeRunning, nodeBusy_advance, advance_node, hr, hb, Bool.not_true, Bool.or_false, Bool.false_eq_true,
    if_false]
  rcases hk with hk | hk | hk <;> simp only [hk]

/-- The end of a GATE_COPY node awaits the acknowledgement of every packet (R494). -/
theorem execNodeEnd_gateCopy {inst : Inst} (hi : s.inst (refKey g) = some inst)
    (hr : s.nodeRunning (refKey g) n = true) (hb : nodeBusy s (refKey g) n = false)
    (hk : (s.node (refKey g) n).kind = .gateCopy) : exec (.nodeEnd t g n parity) s =
      .next (if gateDone (inst.run n) then nodeDone (refKey g) n (advance t s) else advance t s) := by
  change execNodeEnd t g n parity s = _
  rw [execNodeEnd, event_runs hl]
  simp only [advance_nodeRunning, nodeBusy_advance, advance_node, advance_inst, hr, hb, hi, hk, Bool.not_true, Bool.or_false,
    Bool.false_eq_true, if_false]

/-- The end of a lease entry stops what runs under it (R206). -/
theorem execLeaseEnd_runs {tenant : Fin 4} {entry : Fin 16} {l : Lease} {w : Window}
    (hle : (s.contract tenant).leases[entry.val]? = some l) (hw : s.tick.window = some w) (hu : l.unit ≠ 0xFF)
    (hn : w.t0 + 1000 * l.stop ≤ (advance t s).now) : exec (.leaseEnd t tenant entry) s =
      .next ((runningNodes (advance t s)).foldl (fun u p =>
        if tenantOf p.1 = tenant.val ∧ (u.node p.1 p.2).tags.contains entry.val = true then leaseStop p.1 p.2 entry u
        else u) (advance t s)) := by
  change execLeaseEnd t tenant entry s = _
  rw [execLeaseEnd, event_runs hl]
  simp only [advance_contract, advance_tick, hle, hw]
  rw [if_pos ⟨hu, hn⟩]

/-- A wait whose bound runs out with its tether not met ends by timeout (R214, R215). -/
theorem execTetherWaitTimeout_runs {inst : Inst} {since : Instant} (hi : s.inst (refKey g) = some inst)
    (hp : (inst.run n).phase = .running since) (hk : (s.node (refKey g) n).kind = .tetherWait)
    (hn : since + nodeBound (advance t s) (s.node (refKey g) n) ≤ (advance t s).now)
    (hm : (s.tether (bf (inst.run n).body 64 2)).met = false) :
    exec (.tetherWaitTimeout t g n) s = .next (waitTimeout (refKey g) n (inst.run n).body (advance t s)) := by
  change execTetherWaitTimeout t g n s = _
  rw [execTetherWaitTimeout, event_runs hl]
  simp only [advance_inst, hi, hp]
  exact congrArg _ (if_pos ⟨hk, hn, hm⟩)

/-- An NE program that reaches PROG_CYCLES is an immediate fault; without a place for it no record is written (R397). -/
theorem execNeOverrun_unrecorded (hk : (s.node (refKey g) n).kind = .ne) (hr : s.nodeRunning (refKey g) n = true)
    (ho : overrunRecord (refKey g) n (advance t s) = none) :
    exec (.neOverrun t g n) s = .next (immediateFault (refKey g) n 0x0F detailNone (advance t s)) := by
  change execNeOverrun t g n s = _
  rw [execNeOverrun, event_runs hl, if_pos ⟨hk, hr⟩]
  simp only [ho]

/-- The record of such a program is written after the fault (R397). -/
theorem execNeOverrun_recorded {x : Nat} {d : List Byte} (hk : (s.node (refKey g) n).kind = .ne)
    (hr : s.nodeRunning (refKey g) n = true) (ho : overrunRecord (refKey g) n (advance t s) = some (x, d)) :
    exec (.neOverrun t g n) s = .next { store x d (immediateFault (refKey g) n 0x0F detailNone (advance t s)) with
      draws := (immediateFault (refKey g) n 0x0F detailNone (advance t s)).draws + 5 } := by
  change execNeOverrun t g n s = _
  rw [execNeOverrun, event_runs hl, if_pos ⟨hk, hr⟩]
  simp only [ho]

/-- A replay whose rows are no longer under refill goes on (R563). -/
theorem execReplayResume_runs {set : Nat} {inst : Inst} {r : ReplayRun} (hi : s.inst (refKey g) = some inst)
    (hs : inst.replays[set]? = some r) (hw : r.waiting = true) (hr : r.rows.any (thas s.loft.refills) = false) :
    exec (.replayResume t g set) s = .next ((advance t s).modInst (refKey g) fun x =>
      { x with replays := lmod x.replays set fun r => { r with waiting := false, rows := [] } }) := by
  change execReplayResume t g set s = _
  rw [execReplayResume, event_runs hl]
  simp only [advance_inst, hi, Option.bind_some, hs, hw, advance_loft, hr, Bool.not_false, Bool.and_true, if_true]

/-- An error in Drover storage (R560). -/
theorem execDroverCheck_runs {double : Bool} : exec (.droverCheck t double) s = .next (
    if double then droverDouble (advance t s) else (advance t s).modDrover fun d => { d with corrected := d.corrected + 1 }) :=
  event_runs (f := fun s => if double then droverDouble s else s.modDrover fun d => { d with corrected := d.corrected + 1 }) hl

end

/-- Settles O34, row by row; the end of a node's work goes by `finishWork_waits` and `finishWork_goes`. -/
theorem nodeRowsTakeEffect : Obligations.NodeRowsTakeEffect := by
  unfold Obligations.NodeRowsTakeEffect
  intro t g n parity tenant entry set gr inst since l w r s hl
  dsimp only
  refine ⟨execNodeDispatch_runs hl, fun hr hb hk => ?_, execNodeEnd_gateCopy hl, execLeaseEnd_runs hl,
    execTetherWaitTimeout_runs hl,
    fun hk hr => ⟨execNeOverrun_unrecorded hl hk hr, fun _ _ => execNeOverrun_recorded hl hk hr⟩,
    execReplayResume_runs hl, execDroverCheck_runs hl, execDroverCheck_runs hl⟩
  rw [execNodeEnd_work hl hr hb hk]
  refine ⟨fun h => congrArg _ (finishWork_waits h), fun hw ht => ?_⟩
  rw [finishWork_goes hw ht]
  dsimp only
  refine ⟨fun h1 => ?_, fun h1 h2 => ?_, fun h1 h2 h3 => ?_, fun h1 h2 h3 => ?_⟩
  · rw [h1, if_neg Bool.false_ne_true]
  · rw [h1, h2, if_pos rfl, if_neg Bool.false_ne_true]
  · rw [h1, h2, if_pos rfl, if_pos rfl, endWorked_eq, if_neg (by simp [h3])]
  · rw [h1, h2, if_pos rfl, if_pos rfl, endWorked_eq, if_pos h3]

end Sys2Proof.Machine

/-! ## The rows of the boot -/

namespace Sys2Proof.Machine

/-- The endpoint answers from here on (R643). -/
theorem execPcieEndpointReady_runs {t : Instant} {s : State} (hl : s.alive = true) :
    exec (.pcieEndpointReady t) s = .next { advance t s with boot := { s.boot with endpointReady := true } } :=
  event_runs (f := fun s => { s with boot := { s.boot with endpointReady := true } }) hl

section
variable {t : Instant} {s : State} (hl : s.alive = true) (hb : s.fw.state = .booting)
include hl hb

/-- The self-test is made once (R641). -/
theorem execLoftSelfTestEnd_runs {spares rows : List Nat} (ht : s.boot.selfTested = false) :
    exec (.loftSelfTestEnd t spares rows) s = .next (undefineRows 0 loftRows (rows.foldl (fun u row => selfTestRow row u)
      { advance t s with
        loft := { s.loft with deadSpares := spares }, boot := { s.boot with selfTested := true } })) := by
  change execLoftSelfTestEnd t spares rows s = _
  rw [execLoftSelfTestEnd, event_runs hl, if_pos ⟨hb, ht⟩]
  rfl

/-- DRAM training ends once, well or not (R635, R640). -/
theorem execDramTrainingEnd_runs {ok : Bool} {gib : Nat} (ht : s.boot.dramTrained = false) (hf : s.boot.dramFailed = false) :
    exec (.dramTrainingEnd t ok gib) s = .next (
      let u := trainAll { advance t s with boot := { s.boot with dramTrained := ok, dramFailed := !ok, installedGib := gib } }
      if ok then checkDram u else setFw .failed u) := by
  change execDramTrainingEnd t ok gib s = _
  rw [execDramTrainingEnd, event_runs hl, if_pos ⟨hb, ht, hf⟩]
  rfl

/-- The boot ROM takes the package of the host (R636). -/
theorem execBootCandidateRead_host {d : List Byte} (hr : s.boot.romRunning = true) :
    exec (.bootCandidateRead t .host d) s = .next (tryHost d (advance t s)) := by
  change execBootCandidateRead t .host d s = _
  rw [execBootCandidateRead, event_runs hl, if_pos ⟨hr, hb⟩]

/-- The boot ROM tries the slot it has read (R635). -/
theorem execBootCandidateRead_flash {k : Fin 2} {d : List Byte} (hr : s.boot.romRunning = true) :
    exec (.bootCandidateRead t (.flash k) d) s = .next (tryFlash k d (advance t s)) := by
  change execBootCandidateRead t (.flash k) d s = _
  rw [execBootCandidateRead, event_runs hl, if_pos ⟨hr, hb⟩]

/-- Acrega finishes its start-up, or fails where the fuses do not take (R639, R644). -/
theorem execAcregaReady_runs {qf qe : Nat} {fuseOk : Bool} (hs : s.boot.started = true) (ht : s.boot.selfTested = true)
    (hd : s.boot.dramTrained = true) :
    exec (.acregaReady t qf qe fuseOk) s = .next (
      let r := blowFuses fuseOk (advance t s)
      if r.2 then becomeReady (if quiesceOk qf qe then r.1.modTick fun t => { t with qf := qf, qe := qe } else r.1)
      else setFw .failed r.1) := by
  change execAcregaReady t qf qe fuseOk s = _
  rw [execAcregaReady, event_runs hl, if_pos ⟨hb, hs, ht, hd⟩]

end

/-- A slot still to be tried, that no newer one precedes, is checked (R635). -/
theorem tryFlash_tries {k : Nat} {d : List Byte} {s : State} (hc : s.boot.candidates.contains k = true)
    (hn : newerSlot { s with boot := { s.boot with slots := s.boot.slots.set k (some d) } } k = false) :
    tryFlash k d s = (
      let u := takeSubsystem d { s with boot := { s.boot with slots := s.boot.slots.set k (some d) } }
      if slotHeaderOk d && slotCrcOk d && packageOk u (slotPackage d) then startAcrega (slotPackage d) (some k) u
      else rejectSlot k u) := by
  unfold tryFlash
  dsimp only
  rw [if_neg (by simpa [hn] using hc)]

/-- Settles O47, row by row. -/
theorem bootRowsTakeEffect : Obligations.BootRowsTakeEffect := by
  unfold Obligations.BootRowsTakeEffect
  intro t spares rows gib qf qe fuseOk k d s hl
  dsimp only
  refine ⟨execPcieEndpointReady_runs hl, fun hb => ⟨execLoftSelfTestEnd_runs hl hb, fun ht hf => ⟨?_, ?_⟩,
    fun hr => ⟨?_, fun hc hn => ?_⟩, fun hs ht hd => ?_⟩⟩
  · exact execDramTrainingEnd_runs hl hb ht hf
  · exact execDramTrainingEnd_runs hl hb ht hf
  · exact execBootCandidateRead_host hl hb hr
  · exact (execBootCandidateRead_flash hl hb hr).trans (congrArg _ (tryFlash_tries (s := advance t s) hc hn))
  · rw [execAcregaReady_runs hl hb hs ht hd]
    exact ⟨fun h => congrArg _ (if_pos h), fun h => congrArg _ (if_neg (by simp [h]))⟩

end Sys2Proof.Machine

/-! ## Acrega commands: waiting, time-out, failing checks and the CQ entry -/

namespace Sys2Proof.Machine

/-- What the row of an Acrega command can do; `w` says whether it waits for another command, or for Bus Master Enable. -/
inductive CommandRow (w : Bool) (op : Nat) (t : Instant) (r : RingRef) (e : Entry) (s : State) :
    Host.Outcome State Fault Refusal → Prop where
  /-- A command on the same object has not ended yet (R106). -/
  | held (h : w = true) : CommandRow w op t r e s (.next (advance t s))
  /-- The command is accepted, checked and carried out (R103, R143). -/
  | direct (h : w = false) (cs : State → List (Bool × Status)) (body : Nat → State → State) :
    CommandRow w op t r e s (command op t r e cs body s)
  /-- The command also reads its host buffer, where Bus Master Enable lets it (R78, R142). -/
  | buffered (h : w = !bufferReady s r.fn) (first : State → State) (cs bs : State → List (Bool × Status))
    (body : Nat → State → State) : CommandRow w op t r e s (bufCommandAfter first op t r e cs bs body s)

section
variable {w : Bool} {op : Nat} {t : Instant} {r : RingRef} {e : Entry} {seq : Nat} {c : Cmd} {s : State}
  {first : State → State} {cs bs : State → List (Bool × Status)} {body : Nat → State → State}

/-- A command that waits for another one on its object while that runs, and is accepted otherwise (R106). -/
theorem CommandRow.guarded : CommandRow w op t r e s (if w then .next (advance t s) else command op t r e cs body s) := by
  cases w with
  | true => exact .held rfl
  | false => exact .direct rfl cs body

/-- A command that reads its buffer, and whose acceptance has no effect before that. -/
theorem CommandRow.buffer (h : w = !bufferReady s r.fn) : CommandRow w op t r e s (bufCommand op t r e cs bs body s) :=
  .buffered h (fun s => s) cs bs body

/-- Each of the 52 rows is one of these: it waits for a ring, a region or a graph, it reads a buffer, or it does neither. -/
theorem exec_commandRow {i : Instr} (h : acregaOf i = some (op, t, r, e)) (s : State) :
    CommandRow (waitsFor i s) op t r e s (exec i s) := by
  cases i <;> cases h
  case ringCreate | ringReset | ringDelete => exact .guarded (w := ringBusy s e)
  case residentLoad | residentDelete => exact .guarded (w := loadingRegion s (efld e 17 1))
  case graphLoad | graphUnload | graphArm | graphDisarm | graphParamSet | graphStatus | frameAbort =>
    exact .guarded (w := graphBusy s e)
  case fwUpdate buf =>
    change CommandRow (s.flash.isSome || !bufferReady s r.fn) _ t r e s (execFwUpdate t r e buf s)
    unfold execFwUpdate
    cases s.flash.isSome with
    | true => exact .held rfl
    | false => exact .buffered rfl _ _ _ _
  case partitionSet | laneContextSet | sensorXfer | halterConfig | routeLoad | tallyConfig => exact .buffer rfl
  all_goals exact .direct rfl _ _

/-- A command with a buffer whose turn has not come, or whose buffer cannot be read yet, only lets time pass (R78, R104). -/
theorem bufCommandAfter_waits (h : bufferReady s r.fn = false ∨ takeFront op r e (advance t s) = none) :
    bufCommandAfter first op t r e cs bs body s = .next (advance t s) := by
  unfold bufCommandAfter
  dsimp only
  cases hf : takeFront op r e (advance t s) with
  | none => rfl
  | some p =>
    have hb : bufferReady (advance t s) r.fn = false := h.resolve_right (by simp [hf])
    exact if_neg (by simp [hb])

/-- An accepted command past its start timeout does nothing but complete with TIMED_OUT (R117). -/
theorem runAccepted_late (h : timedOut s c = true) : runAccepted seq c cs body s = timeOut seq c.fn s :=
  if_pos h

/-- The same of a command without a buffer. -/
theorem command_late (hf : takeFront op r e (advance t s) = some (seq, c)) (h : timedOut (accepted seq t s) c = true) :
    command op t r e cs body s = .next (settle (timeOut seq c.fn (accepted seq t s))) := by
  simp only [command, hf]
  exact congrArg (fun u => Host.Outcome.next (settle u)) (runAccepted_late h)

/-- A command past its start timeout reads no buffer either (R117; assumption log 77). -/
theorem bufCommandAfter_late (hb : bufferReady s r.fn = true) (hf : takeFront op r e (advance t s) = some (seq, c))
    (h : timedOut (accepted seq t s) c = true) :
    bufCommandAfter first op t r e cs bs body s = .next (settle (timeOut seq c.fn (accepted seq t s))) := by
  have hu : takenUp (accepted seq t s) c = false := by simp [takenUp, h]
  have hreq (l : List (Bool × Status)) : requestBuffer c l (accepted seq t s) = accepted seq t s := by
    simp [requestBuffer, hu]
  have hready : bufferReady (advance t s) r.fn = true := hb
  have hacc : markAccepted seq (advance t s) = accepted seq t s := rfl
  simp only [bufCommandAfter, hf, hready, hacc, hu, hreq, if_true, Bool.false_eq_true, if_false]
  rw [runAccepted_late h]

end

/-- Settles O53, by what such a row can do. -/
theorem commandsWaitTheirTurn : Obligations.CommandsWaitTheirTurn := by
  unfold Obligations.CommandsWaitTheirTurn
  intro i op t r e s hi h
  have hrow := exec_commandRow hi s
  generalize waitsFor i s = w at h hrow
  generalize exec i s = o at hrow
  cases hrow with
  | held => rfl
  | direct hw => exact command_waits (h.resolve_left (by simp [hw]))
  | buffered hw => exact bufCommandAfter_waits (h.imp_left fun h => by simpa [hw] using h)

/-- Settles O54, by what such a row can do. -/
theorem lateCommandsTimeOut : Obligations.LateCommandsTimeOut := by
  unfold Obligations.LateCommandsTimeOut
  intro i op t r e seq c s hi hw hf hn hlate
  obtain ⟨-, -, hentry, -⟩ := takeFront_some hf
  have hto : timedOut (accepted seq t s) c = true := by simp [timedOut, hentry, hn, hlate]
  have hrow := exec_commandRow hi s
  rw [hw] at hrow
  change exec i s = .next (settle (timeOut seq c.fn (accepted seq t s)))
  generalize exec i s = o at hrow
  cases hrow with
  | held hw => cases hw
  | direct => exact command_late hf hto
  | buffered hb => exact bufCommandAfter_late (by simpa using hb.symm) hf hto

/-- Settles O56, by `firstFailing_min`. -/
theorem lowestFailingCodeCompletes : Obligations.LowestFailingCodeCompletes := by
  unfold Obligations.LowestFailingCodeCompletes
  intro op t r e seq c checks body st s hf hto
  dsimp only
  intro hmem hmin
  obtain ⟨-, hop, hentry, -⟩ := takeFront_some hf
  have hacc : markAccepted seq (advance t s) = accepted seq t s := rfl
  have hst : (accepted seq t s).inStandby = s.inStandby := rfl
  simp only [command, hf, hacc, runAccepted, hto, Bool.false_eq_true, if_false, checked, hentry, hop, hst,
    firstFailing_min hmem hmin]

end Sys2Proof.Machine

/-! ## The CQ entry of a completion -/

namespace Sys2Proof.Machine

/-- A CQ entry holds each field of Table 3.4 at its bits. -/
theorem Completion.entry_fields (c : Completion) (p : Bool) :
    (c.entry p).extractLsb' 0 16 = c.cmdId ∧
    (c.entry p).extractLsb' 16 16 = BitVec.ofNat 16 c.ring ∧
    (c.entry p).extractLsb' 32 16 = BitVec.ofNat 16 c.sqHead ∧
    (c.entry p).extractLsb' 48 16 = BitVec.ofNat 16 c.status.code ∧
    (c.entry p).extractLsb' 64 64 = BitVec.ofNat 64 c.time ∧
    (c.entry p).extractLsb' 128 32 = c.tickno ∧
    (c.entry p).extractLsb' 160 64 = c.result ∧
    (c.entry p).extractLsb' 224 32 = BitVec.ofNat 32 (2 ^ 16 * b2n p) := by
  have hp : b2n p ≤ 1 := by cases p <;> decide
  simp only [Completion.entry_num, extract_ofNat, ← BitVec.toNat_inj, BitVec.toNat_ofNat]
  refine ⟨?_, ?_, ?_, ?_, ?_, ?_, ?_, ?_⟩ <;> omega

/-- The completion of a command accepted at an instant (Table 3.4). -/
def Cmd.completion (c : Cmd) (st : Status) (result : BitVec 64) (a : Instant) (n : BitVec 32) : Completion :=
  { cmdId := BitVec.ofNat 16 (efld c.entry 4 2), ring := c.ring, sqHead := c.sqHead, status := st, time := a, tickno := n,
    result := if st = .ok ∨ st = .deferred then result else 0 }

/-- A completion that is neither muted nor held is written at once (R77, R78, R157). -/
theorem finish_writes {seq : Nat} {st : Status} {result : BitVec 64} {c : Cmd} {a : Instant} {n : BitVec 32}
    {g : Machine.Ring} {s : State} (hc : tget s.cmds seq = some c) (ha : c.phase = .accepted a n) (hm : c.muted = false)
    (hg : s.ring c.fn c.ring = some g) (hs : g.stop = none) (hr : s.mayRequest c.fn = true) :
    finish seq st result s =
      writeCompletion c.fn c.ring (c.completion st result a n) { s with cmds := tdel s.cmds seq } := by
  have hring : ({ s with cmds := tdel s.cmds seq } : State).ring c.fn c.ring = some g := hg
  simp only [finish, hc, hm, hring, hs, ha, Option.isSome_none, Bool.or_self, Bool.false_eq_true, if_false]
  exact if_pos hr

/-- Settles O57: `writeCompletion_spec` says where the entry goes, `Completion.entry_fields` what it holds. -/
theorem completionsFillTheirEntries : Obligations.CompletionsFillTheirEntries := by
  unfold Obligations.CompletionsFillTheirEntries
  intro seq st result c a n g s hc ha hm hg hs hr
  dsimp only
  obtain ⟨hcmds, rest, hout⟩ := writeCompletion_spec c.fn c.ring (c.completion st result a n) g
    { s with cmds := tdel s.cmds seq } hg
  rw [← finish_writes hc ha hm hg hs hr] at hcmds hout
  exact ⟨hcmds, finish_inner .., _, rest, hout, Completion.entry_fields _ g.phase⟩

end Sys2Proof.Machine

/-! ## Commands of groups 0x01 and 0x0C -/

namespace Sys2Proof.Machine

/-- The operands of a RING_CREATE are in range (Table 4.4). -/
structure RingOperandsOk (e : Entry) : Prop where
  unlisted : unusedZero e [(16, 5), (22, 4), (32, 16)] = true
  fn : efld e 16 1 ≤ 3
  ring : efld e 17 1 ≠ 0
  sqLog : efld e 18 1 % 16 ≤ 8
  cqLog : efld e 18 1 / 16 ≤ 8
  weight : 1 ≤ efld e 19 1 ∧ efld e 19 1 ≤ 16
  vector : efld e 20 1 ≤ 31
  cqCount : 1 ≤ efld e 22 2 ∧ efld e 22 2 ≤ 256
  cqTime : efld e 24 2 ≤ 1000
  bases : efld e 32 8 % 4096 = 0 ∧ efld e 40 8 % 4096 = 0

section
variable {t : Instant} {r : RingRef} {e : Entry} {seq : Nat} {c : Cmd} {s : State}

/-- A sound RING_CREATE of a ring that does not exist makes it (R101). -/
theorem execRingCreate_runs (h : Accepts 0x0102 t r e seq c s) (ho : RingOperandsOk e) (hb : ringBusy s e = false)
    (hn : s.ring (efld e 16 1) (efld e 17 1) = none) :
    exec (.ringCreate t r e) s = .next (settle (done seq ((accepted seq t s).modFn (efld e 16 1) fun x =>
      { x with rings := tset x.rings (efld e 17 1) (newRing e) }))) := by
  obtain ⟨hz, hf, hk, hsq, hcq, ⟨hw, hw'⟩, hv, ⟨hc, hc'⟩, ht, ha, ha'⟩ := ho
  have hring : (accepted seq t s).ring (efld e 16 1) (efld e 17 1) = none := hn
  change execRingCreate t r e s = _
  rw [execRingCreate, hb, if_neg Bool.false_ne_true, command_runs h]
  simp [hz, hf, hk, hsq, hcq, Nat.ne_of_gt hw, hw', hv, Nat.ne_of_gt hc, hc', ht, ha, ha', hring]

/-- RING_RESET and RING_DELETE of another ring that exists pass their checks (R157). -/
theorem ringStopChecks_pass (hz : unusedZero e [(16, 2)] = true) (hf : efld e 16 1 ≤ 3) (hk : efld e 17 1 ≠ 0)
    (ho : ¬(efld e 16 1 = r.fn ∧ efld e 17 1 = r.ring)) (hr : (s.ring (efld e 16 1) (efld e 17 1)).isSome) :
    ∀ x ∈ ringStopChecks r e (accepted seq t s), x.1 = false := by
  have hring : ((accepted seq t s).ring (efld e 16 1) (efld e 17 1)).isSome := hr
  simpa [ringStopChecks, hz, hf, hk, Option.isNone_eq_false_iff, hring] using ho

/-- A sound RING_RESET stops its ring (R157). -/
theorem execRingReset_runs (h : Accepts 0x0103 t r e seq c s) (hb : ringBusy s e = false)
    (hc : ∀ x ∈ ringStopChecks r e (accepted seq t s), x.1 = false) :
    exec (.ringReset t r e) s = .next (settle (ringStop e false seq (accepted seq t s))) := by
  change execRingReset t r e s = _
  rw [execRingReset, hb, if_neg Bool.false_ne_true, command_runs h hc]

/-- A sound RING_DELETE stops its ring (R157). -/
theorem execRingDelete_runs (h : Accepts 0x0104 t r e seq c s) (hb : ringBusy s e = false)
    (hc : ∀ x ∈ ringStopChecks r e (accepted seq t s), x.1 = false) :
    exec (.ringDelete t r e) s = .next (settle (ringStop e true seq (accepted seq t s))) := by
  change execRingDelete t r e s = _
  rw [execRingDelete, hb, if_neg Bool.false_ne_true, command_runs h hc]

end

/-- Settles O1: each command passes its checks. -/
theorem ringCommandsTakeEffect : Obligations.RingCommandsTakeEffect := by
  unfold Obligations.RingCommandsTakeEffect
  intro t r e seq c s
  dsimp only
  refine ⟨fun h hz => ?_, fun h hz hf hk hsq hcq hw hw' hv hc hc' ht ha ha' hb hn => ?_, fun h hz hf hk ho hb hr => ?_,
    fun h hz hf hk ho hb hr => ?_, fun h hz hw => ?_⟩
  · exact command_runs h (by simp [hz])
  · exact execRingCreate_runs h ⟨hz, hf, hk, hsq, hcq, ⟨hw, hw'⟩, hv, ⟨hc, hc'⟩, ht, ha, ha'⟩ hb hn
  · exact execRingReset_runs h hb (ringStopChecks_pass hz hf hk ho hr)
  · exact execRingDelete_runs h hb (ringStopChecks_pass hz hf hk ho hr)
  · have hweights : [0, 1, 2, 3].any (fun i => decide (16 < efld e (16 + i) 1)) = false := by
      simp [hw 0, hw 1, hw 2, hw 3]
    exact command_runs h (by simp [hz, hweights])

/-- Settles O22: both commands pass their checks. -/
theorem debugCommandsTakeEffect : Obligations.DebugCommandsTakeEffect := by
  unfold Obligations.DebugCommandsTakeEffect
  intro t r e seq c s
  dsimp only
  refine fun hu ho => ⟨fun h hz hn => ?_, fun h hz hb => ?_⟩
  · have hcount : efld e 24 1 ≠ 1 → efld e 24 1 = 2 := hn.resolve_left
    exact command_runs h (by simpa [hz, hu, ho] using hcount)
  · exact command_runs h (by simp [hz, hu, ho, hb])

end Sys2Proof.Machine

/-! ## The host window: what a function and its rings hold -/

namespace Sys2Proof.Machine

section
variable {s : State} {i j : Nat} {g : Func → Func}

/-- A function changed, where the device has it. -/
theorem State.fn_modFn_same (h : i < s.fns.length) : (s.modFn i g).fn i = g (s.fn i) := by
  simp [State.fn, State.modFn, lmod, h]

/-- The other functions stay. -/
theorem State.fn_modFn_ne (h : i ≠ j) : (s.modFn i g).fn j = s.fn j := by
  simp [State.fn, State.modFn, lmod, List.getElem?_modify_ne _ _ h]

/-- What a change leaves of one function it leaves of every function. -/
theorem State.fn_modFn_keeps {α : Type} {p : Func → α} (hg : ∀ x, p (g x) = p x) :
    p ((s.modFn i g).fn j) = p (s.fn j) := by
  by_cases hij : i = j
  · subst hij
    by_cases hi : i < s.fns.length
    · rw [State.fn_modFn_same hi, hg]
    · simp [State.fn, State.modFn, lmod, Nat.le_of_not_lt hi]
  · rw [State.fn_modFn_ne hij]

/-- A change that leaves the rings of a function. -/
theorem State.ring_modFn {r : Nat} (hg : ∀ x, (g x).rings = x.rings) : (s.modFn i g).ring j r = s.ring j r :=
  congrArg (tget · r) (State.fn_modFn_keeps hg)

/-- The device keeps its functions. -/
theorem State.fns_length_modFn : (s.modFn i g).fns.length = s.fns.length := List.length_modify ..

end

/-- What ADMIN_STATUS shows of a function (Table 3.8). -/
def Func.status (x : Func) : Bool × Bool × RingCause := (x.ready, x.error, x.cause)

section
variable (s : State) (f j : Nat)

@[simp] theorem sendVector_status (v : Nat) : ((sendVector f v s).fn j).status = (s.fn j).status := by
  unfold sendVector
  split
  · exact State.fn_modFn_keeps fun _ => rfl
  · split
    · rfl
    · exact State.fn_modFn_keeps fun _ => rfl

@[simp] theorem setCause_status (m : BitVec 6) : ((setCause f m s).fn j).status = (s.fn j).status :=
  State.fn_modFn_keeps fun _ => rfl

@[simp] theorem writeCq_status (r : Nat) (e : Bool → BitVec 256) : ((writeCq f r e s).fn j).status = (s.fn j).status := by
  unfold writeCq
  split
  · rfl
  · exact State.fn_modFn_keeps fun _ => rfl

@[simp] theorem writeEvent_status (e : Event) : ((writeEvent f e s).fn j).status = (s.fn j).status := by
  simp [writeEvent]

/-- Waiting events that go out leave ADMIN_STATUS. -/
@[simp] theorem flushEvents_status (n : Nat) : ((flushEvents f n s).fn j).status = (s.fn j).status := by
  induction n generalizing s with
  | zero => rfl
  | succ n ih =>
    unfold flushEvents
    split
    · split
      · rw [ih, writeEvent_status]
        exact State.fn_modFn_keeps fun _ => rfl
      · split
        · rfl
        · rw [ih, writeEvent_status]
          exact State.fn_modFn_keeps fun _ => rfl
    · rfl

end

/-- A transaction of the host over a link that is up has its effect at its instant. -/
theorem hostRow_linked {t : Instant} {f : State → State} {s : State} (hl : s.alive = true)
    (he : s.boot.endpointReady = true) (hu : s.linkUp = true) : hostRow t f s = .next (f (advance t s)) := by
  have hs : ({ advance t s with linkUp := true } : State) = { advance t s with linkUp := (advance t s).linkUp } := by
    rw [advance_linkUp, hu]
  rw [hostRow_runs hl he, hs]

end Sys2Proof.Machine

/-! ## Doorbells -/

namespace Sys2Proof.Machine

/-- The index that a doorbell write carries: bits 11 to 0 (R91). -/
theorem bits_doorbell (v : BitVec 32) : bits v.toNat 11 0 = v.toNat % 4096 := by
  simp [bits]

/-- A ring of 1 to 255 that no RING_CREATE made, and ring 0 while ENABLE is 0 (R95, Table 3.8). -/
def RingAbsent (s : State) (f r : Nat) : Prop :=
  (r ≠ 0 ∧ s.ring f r = none) ∨ (r = 0 ∧ (s.fn f).enable = false)

section
variable {f r i : Nat} {s : State}

/-- A doorbell write for a ring that does not exist only posts NO_RING (R95). -/
theorem atDoorbell_absent {k : Ring → State → State} (h : RingAbsent s f r) :
    atDoorbell f r k s = postTenant f 9 5 (BitVec.ofNat 64 r) s := by
  unfold atDoorbell
  rcases h with ⟨hr, hn⟩ | ⟨hr, he⟩
  · rw [if_neg (fun h => hr h.1), hn]
    exact if_neg hr
  · exact if_pos ⟨hr, he⟩

section
variable {g : Ring} (ha : ¬RingAbsent s f r) (hg : s.ring f r = some g)
include ha hg

/-- A doorbell write for a ring that exists acts on it. -/
theorem atDoorbell_present {k : Ring → State → State} : atDoorbell f r k s = k g s := by
  unfold atDoorbell
  rw [if_neg (fun h => ha (.inr h)), hg]

/-- A tail write is valid if the tail is below the depth and not behind the tail before it (R93). -/
theorem writeTail_present : writeTail f r i s =
    if i < 2 ^ (g.sqLog + 4) ∧ (g.sqTail + 2 ^ (g.sqLog + 4) - g.sqHead) % 2 ^ (g.sqLog + 4) ≤
        (i + 2 ^ (g.sqLog + 4) - g.sqHead) % 2 ^ (g.sqLog + 4) then
      if i = g.sqTail then s
      else s.modRing f r fun g => { g with sqTail := i, tails := g.tails ++ [{ tail := i, time := s.now }] }
    else ringError f r .badTail s :=
  atDoorbell_present ha hg

/-- A head write is valid if it releases no more than is written and not released (R94). -/
theorem writeHead_present : writeHead f r i s =
    if i < 2 ^ (g.cqLog + 4) ∧ (i + 2 ^ (g.cqLog + 4) - g.cqHead) % 2 ^ (g.cqLog + 4) ≤
        (g.cqTail + 2 ^ (g.cqLog + 4) - g.cqHead) % 2 ^ (g.cqLog + 4) then
      if r = 0 then flushEvents f 66 (s.modRing f r fun g => { g with cqHead := i })
      else s.modRing f r fun g => { g with cqHead := i }
    else ringError f r .badHead s :=
  atDoorbell_present ha hg

/-- A write that covers a doorbell in part is a ring error (R91). -/
theorem partDoorbell_present : partDoorbell f r s = ringError f r .badDoorbell s :=
  atDoorbell_present ha hg

end

end

section
variable {t : Instant} {r : RingRef} {v : BitVec 32} {whole : Bool} {s : State} (hl : s.alive = true)
  (he : s.boot.endpointReady = true) (hu : s.linkUp = true)
include hl he hu

/-- An SQ tail doorbell over a link that is up. -/
theorem execSqTailDoorbell_runs : exec (.sqTailDoorbell t r v whole) s =
    .next (if whole then writeTail r.fn r.ring (v.toNat % 4096) (advance t s)
      else partDoorbell r.fn r.ring (advance t s)) := by
  change execSqTailDoorbell t r v whole s = _
  rw [execSqTailDoorbell, hostRow_linked hl he hu, bits_doorbell]
  cases whole <;> rfl

/-- A CQ head doorbell over a link that is up. -/
theorem execCqHeadDoorbell_runs : exec (.cqHeadDoorbell t r v whole) s =
    .next (if whole then writeHead r.fn r.ring (v.toNat % 4096) (advance t s)
      else partDoorbell r.fn r.ring (advance t s)) := by
  change execCqHeadDoorbell t r v whole s = _
  rw [execCqHeadDoorbell, hostRow_linked hl he hu, bits_doorbell]
  cases whole <;> rfl

end

/-- Settles O23: each doorbell either finds no ring or acts on the one it finds. -/
theorem doorbellsTakeEffect : Obligations.DoorbellsTakeEffect := by
  unfold Obligations.DoorbellsTakeEffect
  intro t r v g s hl he hu
  dsimp only
  simp only [execSqTailDoorbell_runs hl he hu, execCqHeadDoorbell_runs hl he hu, if_true, Bool.false_eq_true, if_false]
  refine ⟨fun ha => ?_, fun ha hg => ?_⟩
  · have hpost {k : Ring → State → State} := atDoorbell_absent (k := k) (s := advance t s) ha
    exact ⟨congrArg _ hpost, congrArg _ hpost, congrArg _ hpost, congrArg _ hpost⟩
  · have htail := writeTail_present (i := v.toNat % 4096) (s := advance t s) ha hg
    have hhead := writeHead_present (i := v.toNat % 4096) (s := advance t s) ha hg
    have hpart := partDoorbell_present (s := advance t s) ha hg
    refine ⟨fun hok hi => ?_, fun hok hi => ?_, fun hno => ?_, fun hok => ?_, fun hno => ?_, congrArg _ hpart,
      congrArg _ hpart⟩
    · rw [htail, if_pos hok, if_pos hi]
    · rw [htail, if_pos hok, if_neg hi]
    · rw [htail, if_neg hno]
    · rw [hhead, if_pos hok]
    · rw [hhead, if_neg hno]

end Sys2Proof.Machine

/-! ## Registers -/

namespace Sys2Proof.Machine

/-- DEVICE_TIME_HI and TICKNO_LATCH take the instant and the TICKNO of a read of DEVICE_TIME_LO (R138). -/
def latchTime (f : Nat) (s : State) : State :=
  s.modFn f fun x => { x with timeHi := BitVec.ofNat 32 (s.now / 2 ^ 32), ticknoLatch := s.ticknoNow }

/-- A 32-bit read of DEVICE_TIME_LO latches and returns the low half (R138). -/
theorem readBar0_timeLo (f : Nat) (s : State) : readBar0 f 0x18 4 s = (latchTime f s, le 4 (s.now % 2 ^ 32)) := by
  simp [readBar0, readWord, bar0, latchTime]

/-- A 64-bit read of DEVICE_TIME_LO also returns the high half, which it has latched (R137, R138). -/
theorem readBar0_timeLo_wide {f : Nat} {s : State} (hf : f < s.fns.length) :
    readBar0 f 0x18 8 s = (latchTime f s, le 4 (s.now % 2 ^ 32) ++ le 4 (s.now / 2 ^ 32 % 2 ^ 32)) := by
  have hhi : bar0 (latchTime f s) f 0x1C = s.now / 2 ^ 32 % 2 ^ 32 := by
    simp [bar0, latchTime, State.fn_modFn_same hf]
  have hlo : readWord f 0x18 s = (latchTime f s, le 4 (s.now % 2 ^ 32)) := by simp [readWord, bar0, latchTime]
  have hnext : readWord f 0x1C (latchTime f s) = (latchTime f s, le 4 (s.now / 2 ^ 32 % 2 ^ 32)) := by
    simp only [readWord, hhi]
    rfl
  simp only [readBar0, hlo, hnext]
  rfl

section
variable {t : Instant} {f : Fin 4} {s : State} (hl : s.alive = true) (he : s.boot.endpointReady = true)
  (hu : s.linkUp = true)
include hl he hu

/-- A read at the offset of DEVICE_TIME_LO replies what BAR0 returns there (R137). -/
theorem execDeviceTimeLoRead_runs {len : Nat} {u : State} {d : List Byte}
    (h : readBar0 f 0x18 len (advance t s) = (u, d)) :
    exec (.deviceTimeLoRead t { fn := f, len := len }) s = .next (emit (.reply f d false) u) := by
  change execDeviceTimeLoRead t { fn := f, len := len } s = _
  rw [execDeviceTimeLoRead, hostRow_linked hl he hu]
  simp only [h]

/-- A memory write to BAR2 is counted (R82). -/
theorem execBar2Write_runs {offset : BitVec 29} {d : List Byte} : exec (.bar2Write t f offset d) s =
    .next ((advance t s).modFn f fun x => { x with bar2Dropped := x.bar2Dropped + 1 }) := by
  change execBar2Write t f offset d s = _
  rw [execBar2Write, hostRow_linked hl he hu]
  rfl

end

/-- Settles O25, by what a read of DEVICE_TIME_LO returns. -/
theorem timeReadLatchesAndBar2WriteIsDropped : Obligations.TimeReadLatchesAndBar2WriteIsDropped := by
  unfold Obligations.TimeReadLatchesAndBar2WriteIsDropped
  intro t f offset d s hl he hu h u
  refine ⟨?_, fun hs => ?_, execBar2Write_runs hl he hu⟩
  · exact execDeviceTimeLoRead_runs hl he hu (readBar0_timeLo f h)
  · have hf : f.val < h.fns.length := hs.1.symm ▸ f.isLt
    exact execDeviceTimeLoRead_runs hl he hu (readBar0_timeLo_wide hf)

section
variable {f : Nat} {s : State}

/-- A 1 clears its bit of INT_CAUSE (Table 3.8). -/
theorem writeBar0_intCause (v : BitVec 32) :
    writeBar0 f 0x2004 v s = s.modFn f fun x => { x with intCause := x.intCause &&& ~~~v.setWidth 6 } := by
  simp [writeBar0]

/-- A 1 clears its bit of ALERT_STATUS unless its condition persists (R127). -/
theorem writeBar0_alertStatus (v : BitVec 32) : writeBar0 f 0x3000 v s =
    setAlerts (s.alertStatus &&& ~~~(v.setWidth 6 &&& ~~~alertPersists s)) s.alertMask s := by
  simp [writeBar0, clearAlerts]

/-- The rings that an access covers in part are those of the doorbells at its two ends that it does not cover whole (R91). -/
theorem mem_partRings {off len m : Nat} (h : 1 ≤ len) : m ∈ partRings off len ↔
    ∃ d, d % 4 = 0 ∧ 0x10000 ≤ d ∧ d < 0x10800 ∧ m = (d - 0x10000) / 8 ∧ off < d + 4 ∧ d < off + len ∧
      ¬(off ≤ d ∧ d + 4 ≤ off + len) := by
  have hmem : m ∈ partRings off len ↔ ∃ d, (d = off / 4 * 4 ∨ d = (off + len - 1) / 4 * 4) ∧
      0x10000 ≤ d ∧ d < 0x10800 ∧ (d < off ∨ off + len < d + 4) ∧ (d - 0x10000) / 8 = m := by
    simp only [partRings, List.mem_eraseDups, List.mem_map, List.mem_filter, List.mem_cons, List.not_mem_nil, or_false,
      Bool.and_eq_true, Bool.or_eq_true, decide_eq_true_eq, and_assoc]
  rw [hmem]
  constructor
  · rintro ⟨d, hd, h1, h2, h3, h4⟩
    exact ⟨d, by omega, h1, h2, h4.symm, by omega, by omega, by omega⟩
  · rintro ⟨d, h0, h1, h2, h3, h4, h5, h6⟩
    exact ⟨d, by omega, h1, h2, by omega, h3.symm⟩

end

/-! ### Setting ENABLE (R98, R100) -/

section
variable {f : Nat} {s : State}

/-- ENABLE leaves the rings. -/
theorem ring_setEnable (j r : Nat) (b : Bool) : (s.modFn f fun x => { x with enable := b }).ring j r = s.ring j r :=
  State.ring_modFn fun _ => rfl

/-- Setting ENABLE again changes nothing. -/
theorem enableAdmin_enabled (h : (s.fn f).enable = true) : enableAdmin f s = s :=
  if_pos h

/-- ENABLE set while ring 0 still closes waits for it (R100; assumption log 76). -/
theorem enableAdmin_closing {g : Ring} (h : (s.fn f).enable = false) (hg : s.ring f 0 = some g) :
    enableAdmin f s = s.modFn f fun x => { x with enable := true } := by
  rw [enableAdmin, if_neg (by simp [h])]
  simp only [ring_setEnable, hg]

/-- A function whose ENABLE has just been set, with nothing left of an earlier ring 0 (R98). -/
def openingAdmin (f : Nat) (s : State) : State :=
  (dropRing f 0 (s.modFn f fun x => { x with enable := true })).modFn f fun x => { x with ready := false }

/-- ENABLE set where there is no ring 0 sets it up (R98). -/
theorem enableAdmin_opens (h : (s.fn f).enable = false) (hg : s.ring f 0 = none) :
    enableAdmin f s = setupAdmin f (openingAdmin f s) := by
  rw [enableAdmin, if_neg (by simp [h])]
  simp only [ring_setEnable, hg]
  rfl

/-- Whatever becomes of ring 0, of the inner state only ENABLE changes. -/
theorem enableAdmin_inner (h : (s.fn f).enable = false) :
    (enableAdmin f s).inner = (s.modFn f fun x => { x with enable := true }).inner := by
  cases hg : s.ring f 0 with
  | some g => rw [enableAdmin_closing h hg]
  | none =>
    rw [enableAdmin_opens h hg, setupAdmin_inner, openingAdmin]
    refine Eq.trans (modFn_inner ?_) (dropRing_inner ..)
    exact fun _ => rfl

section
variable (hf : f < s.fns.length)
include hf

/-- The device keeps its functions. -/
theorem openingAdmin_has : f < (openingAdmin f s).fns.length :=
  (State.fns_length_modFn.trans (State.fns_length_modFn.trans State.fns_length_modFn)).symm ▸ hf

/-- Of its function a ring that goes takes the completions still held for it (R157). -/
theorem dropRing_fn (r : Nat) : ∃ held, (dropRing f r s).fn f = { s.fn f with held := held } :=
  ⟨_, State.fn_modFn_same hf⟩

/-- What the set-up finds of its function: the queues as they were programmed. -/
theorem openingAdmin_fn :
    ∃ held, (openingAdmin f s).fn f = { s.fn f with enable := true, ready := false, held := held } := by
  have hset : f < (s.modFn f fun x => { x with enable := true }).fns.length := State.fns_length_modFn.symm ▸ hf
  obtain ⟨held, hdrop⟩ := dropRing_fn hset 0
  refine ⟨held, ?_⟩
  rw [openingAdmin, State.fn_modFn_same (State.fns_length_modFn.symm ▸ hset), hdrop, State.fn_modFn_same hf]

end

section
variable (hf : f < s.fns.length)
include hf

/-- READY sets at once where Acrega is READY (R98). -/
theorem adminReady_status (h1 : (s.fn f).enable = true) (h2 : (s.fn f).ready = false) (h3 : (s.fn f).cause ≠ .badSize) :
    ((adminReady f s).fn f).status = (decide (s.fw.state = .ready), (s.fn f).error, (s.fn f).cause) := by
  unfold adminReady
  by_cases hw : s.fw.state = .ready
  · rw [if_pos ⟨h1, by simp [h2], h3, hw⟩, flushEvents_status, State.fn_modFn_same hf]
    simp [Func.status, hw]
  · rw [if_neg fun h => hw h.2.2.2]
    simp [Func.status, h2, hw]

/-- A reserved size sets ERROR with BAD_SIZE and no more of ADMIN_STATUS (R98). -/
theorem setupAdmin_badSize (h : 8 < (s.fn f).adminSqLog ∨ 8 < (s.fn f).adminCqLog) :
    ((setupAdmin f s).fn f).status = ((s.fn f).ready, true, .badSize) := by
  unfold setupAdmin
  dsimp only
  rw [if_pos h, sendVector_status, setCause_status, State.fn_modFn_same hf]
  rfl

end

/-- Ring 0 is set up as its registers say, and READY follows (R98). -/
theorem setupAdmin_sound (h1 : (s.fn f).adminSqLog ≤ 8) (h2 : (s.fn f).adminCqLog ≤ 8) :
    setupAdmin f s = adminReady f (s.modFn f fun x =>
      { x with error := false, cause := .none, rings := tset x.rings 0 (adminRing x) }) := by
  unfold setupAdmin
  dsimp only
  exact if_neg (not_or.2 ⟨Nat.not_lt.2 h1, Nat.not_lt.2 h2⟩)

/-- While Acrega is not READY the function waits for it (R98). -/
theorem adminReady_waits (h : s.fw.state ≠ .ready) : adminReady f s = s :=
  if_neg fun hx => h hx.2.2.2

section
variable (hf : f < s.fns.length) (he : (s.fn f).enable = false) (hg : s.ring f 0 = none)
include hf he hg

/-- ENABLE with sound sizes: ADMIN_STATUS, and ring 0 where nothing can have been written to it yet (R98). -/
theorem enableAdmin_sound (h1 : (s.fn f).adminSqLog ≤ 8) (h2 : (s.fn f).adminCqLog ≤ 8) :
    ((enableAdmin f s).fn f).status = (decide (s.fw.state = .ready), false, .none) ∧
      (s.fw.state ≠ .ready → (enableAdmin f s).ring f 0 = some (adminRing (s.fn f))) := by
  obtain ⟨held, hopen⟩ := openingAdmin_fn hf
  have hlen := openingAdmin_has hf
  have hset := setupAdmin_sound (s := openingAdmin f s) (f := f) (by rw [hopen]; exact h1) (by rw [hopen]; exact h2)
  rw [enableAdmin_opens he hg, hset]
  refine ⟨?_, fun hw => ?_⟩
  · rw [adminReady_status (State.fns_length_modFn.symm ▸ hlen)] <;> simp only [State.fn_modFn_same hlen, hopen]
    · rfl
    · decide
  · rw [adminReady_waits (s := (openingAdmin f s).modFn f _) hw, State.ring, State.fn_modFn_same hlen, tget_tset, hopen]
    rfl

/-- ENABLE with a reserved size: ERROR and its cause (R98). -/
theorem enableAdmin_badSize (h : 8 < (s.fn f).adminSqLog ∨ 8 < (s.fn f).adminCqLog) :
    ((enableAdmin f s).fn f).status = (false, true, .badSize) := by
  obtain ⟨held, hopen⟩ := openingAdmin_fn hf
  have hlen := openingAdmin_has hf
  rw [enableAdmin_opens he hg, setupAdmin_badSize hlen (by rw [hopen]; exact h), hopen]

end

end

section
variable {t : Instant} {f : Fin 4} {s : State} (hl : s.alive = true) (he : s.boot.endpointReady = true)
include hl he

/-- A REGISTER_WRITE acts where it is a 32-bit aligned write, and is a bad doorbell write at most elsewhere (R91, R137). -/
theorem execRegisterWrite_runs {off : BitVec 20} {v : BitVec 32} {len : Nat} : exec (.registerWrite t f off v len) s =
    .next (if len = 4 ∧ off.toNat % 4 = 0 then writeBar0 f off.toNat v { advance t s with linkUp := true }
      else (partRings off.toNat len).foldl (fun u r => partDoorbell f r u) { advance t s with linkUp := true }) := by
  change execRegisterWrite t f off v len s = _
  rw [execRegisterWrite, hostRow_runs hl he]

/-- Setting ENABLE. -/
theorem execAdminEnable_runs : exec (.adminEnable t f) s = .next (enableAdmin f { advance t s with linkUp := true }) := by
  change execAdminEnable t f s = _
  rw [execAdminEnable, hostRow_runs hl he]

/-- Clearing ENABLE. -/
theorem execAdminDisable_runs :
    exec (.adminDisable t f) s = .next (disableAdmin f { advance t s with linkUp := true }) := by
  change execAdminDisable t f s = _
  rw [execAdminDisable, hostRow_runs hl he]

/-- A 1 clears its bit of INT_CAUSE. -/
theorem execIntCauseClear_runs {mask : BitVec 32} : exec (.intCauseClear t f mask) s =
    .next (({ advance t s with linkUp := true } : State).modFn f fun x =>
      { x with intCause := x.intCause &&& ~~~mask.setWidth 6 }) := by
  change execIntCauseClear t f mask s = _
  rw [execIntCauseClear, hostRow_runs hl he, writeBar0_intCause]

/-- A 1 clears its bit of ALERT_STATUS unless its condition persists. -/
theorem execAlertStatusClear_runs {mask : BitVec 32} : exec (.alertStatusClear t f mask) s =
    .next (setAlerts (s.alertStatus &&& ~~~(mask.setWidth 6 &&& ~~~alertPersists { advance t s with linkUp := true }))
      s.alertMask { advance t s with linkUp := true }) := by
  change execAlertStatusClear t f mask s = _
  rw [execAlertStatusClear, hostRow_runs hl he, writeBar0_alertStatus]
  rfl

/-- A vector unmasked sends its pending message (R125). -/
theorem execMsixUnmask_runs {k : Fin 32} :
    exec (.msixUnmask t f k) s = .next (unmask f k { advance t s with linkUp := true }) := by
  change execMsixUnmask t f k s = _
  rw [execMsixUnmask, hostRow_runs hl he]

end

/-- Settles O26, register by register; ENABLE goes by what it finds of ring 0. -/
theorem registerWritesTakeEffect : Obligations.RegisterWritesTakeEffect := by
  unfold Obligations.RegisterWritesTakeEffect
  intro t f mask off len m g k s hl he h vec open_
  have enables := execAdminEnable_runs (t := t) (f := f) hl he
  have disables := execAdminDisable_runs (t := t) (f := f) hl he
  have present (hs : s.shape) : f.val < h.fns.length := hs.1.symm ▸ f.isLt
  refine ⟨execIntCauseClear_runs hl he, execAlertStatusClear_runs hl he, fun hx => ⟨?_, ?_⟩,
    fun hx => ⟨?_, fun hg _ => ?_, ?_⟩, execMsixUnmask_runs hl he, fun ho => ?_, fun ho => ?_, mem_partRings⟩
  · rw [enables, enableAdmin_enabled (s := h) hx]
  · exact disables.trans (congrArg _ (if_pos hx))
  · exact disables.trans (congrArg _ (if_neg (by rw [show (h.fn f).enable = false from hx]; exact Bool.false_ne_true)))
  · exact enables.trans (congrArg _ (enableAdmin_closing (s := h) hx hg))
  · refine ⟨_, enables, enableAdmin_inner (s := h) hx, fun hg hs h1 h2 => ?_, fun hg hs hbad => ?_⟩
    · obtain ⟨hstatus, hring⟩ := enableAdmin_sound (s := h) (present hs) hx hg h1 h2
      exact ⟨congrArg (·.1) hstatus, congrArg (·.2.1) hstatus, hring⟩
    · have hstatus := enableAdmin_badSize (s := h) (present hs) hx hg hbad
      exact ⟨congrArg (·.2.1) hstatus, congrArg (·.2.2) hstatus⟩
  · rw [execRegisterWrite_runs hl he, if_pos ⟨rfl, ho⟩]
  · rw [execRegisterWrite_runs hl he, if_neg ho]

end Sys2Proof.Machine

/-! ## Functions and the data link -/

namespace Sys2Proof.Machine

section
variable {t : Instant} {f : Fin 4} {s : State} (hl : s.alive = true) (he : s.boot.endpointReady = true)
include hl he

/-- A function level reset (R77, R139, R628). -/
theorem execFunctionLevelReset_runs : exec (.functionLevelReset t f) s =
    .next (settle (dropResultRings f (fun _ => true) { advance t s with
      linkUp := true
      fns := s.fns.modify f fun x => { Func.reset with
        cfg := x.cfg.afterFlr, weight := x.weight, backlog := x.backlog, dropped := x.dropped
        stops := x.stops ++ x.rings.filterMap fun p => p.2.stop.map fun st => (p.1, st.by_) }
      cmds := tmap (tfilter s.cmds fun _ c => decide (c.fn ≠ f) || c.isAccepted) fun _ c =>
        if c.fn = f then { c with muted := true, noDma := true } else c })) := by
  change execFunctionLevelReset t f s = _
  rw [execFunctionLevelReset, hostRow_runs hl he]
  rfl

/-- Bus Master Enable cleared (R78). -/
theorem execBusMasterEnableClear_runs : exec (.busMasterEnableClear t f) s =
    .next (({ advance t s with linkUp := true } : State).modFn f fun x => { x with busMaster := false }) := by
  change execBusMasterEnableClear t f s = _
  rw [execBusMasterEnableClear, hostRow_runs hl he]

/-- Bus Master Enable set: what waited goes out (R78). -/
theorem execBusMasterEnableSet_runs {dc : BitVec 16} : exec (.busMasterEnableSet t { fn := f, deviceControl := dc }) s =
    .next (settle (release f (({ advance t s with linkUp := true } : State).modFn f fun x =>
      { x with busMaster := true, cfg := { x.cfg with deviceControl := dc } }))) := by
  change execBusMasterEnableSet t { fn := f, deviceControl := dc } s = _
  rw [execBusMasterEnableSet, hostRow_runs hl he]

end

/-- A link that goes down discards what is queued and freezes the result rings (R127, R549). -/
theorem execPcieLinkDown_runs {t : Instant} {s : State} (hl : s.alive = true) : exec (.pcieLinkDown t) s =
    .next (setAlerts (s.alertStatus ||| 32) s.alertMask { advance t s with
      linkUp := false
      egress := { s.egress with queue := [], rings := tmap s.egress.rings fun _ g => { g with frozen := true } } }) := by
  change execPcieLinkDown t s = _
  rw [execPcieLinkDown, event_runs hl]
  rfl

/-- Settles O27, row by row. -/
theorem functionAndLinkEventsTakeEffect : Obligations.FunctionAndLinkEventsTakeEffect := by
  unfold Obligations.FunctionAndLinkEventsTakeEffect
  intro t f dc s hl h
  exact ⟨fun he => ⟨execFunctionLevelReset_runs hl he, execBusMasterEnableClear_runs hl he,
    execBusMasterEnableSet_runs hl he⟩, execPcieLinkDown_runs hl⟩

end Sys2Proof.Machine

/-! ## Fetching and completion moderation -/

namespace Sys2Proof.Machine

/-- The read of the entry at the head of a ring (R84, R90, R111). -/
theorem fetch_of_ring {f k : Nat} {g : Ring} {s : State} (hg : s.ring f k = some g) : fetch f k s = State.modRing { s with
      fetchSeq := s.fetchSeq + 1
      cmds := tset s.cmds s.fetchSeq
        { fn := Fin.ofNat 4 f, ring := k, sqHead := (g.sqHead + 1) % 2 ^ (g.sqLog + 4), doorbell := g.doorbellOf, entry := 0,
          phase := .reading, muted := false, noDma := false }
      out := s.out ++ [{ time := s.now, out := .sqRead f k (g.sqBase + BitVec.ofNat 64 (64 * g.sqHead)) }] } f k
        fun x => { x with
          sqHead := (g.sqHead + 1) % 2 ^ (g.sqLog + 4), reserved := x.reserved + 1,
          tails := match x.tails with
            | y :: l => if y.tail = (g.sqHead + 1) % 2 ^ (g.sqLog + 4) then l else y :: l
            | [] => [] } := by
  unfold fetch
  rw [hg]
  rfl

section
variable {t : Instant} {r : RingRef} {s : State} (hl : s.alive = true)
include hl

/-- A grant that the arbiter may make reads an entry (R109 to R113). -/
theorem execFetchGrant_runs {f k : Nat} {arb : Arb} (hw : s.fw.state = .ready) (ho : outstanding (advance t s) < 64)
    (hlast : ∀ x, s.arb.lastGrant = some x → x + 250 ≤ (advance t s).now)
    (hn : nextGrant (advance t s) = some (f, k, arb)) : exec (.fetchGrant t) s =
      .next (fetch f k { advance t s with arb := { arb with lastGrant := some (advance t s).now } }) := by
  have hall : ((advance t s).arb.lastGrant.all fun x => decide (x + 250 ≤ (advance t s).now)) = true := by
    simpa [Option.all_eq_true] using hlast
  change execFetchGrant t s = _
  rw [execFetchGrant, event_runs hl, if_pos ⟨hw, ho, hall⟩]
  simp only [hn]

section
variable {seq : Nat} {c : Cmd} (hr : readingCmd s r.fn r.ring = some (seq, c))
include hr

/-- An entry that has been read waits for acceptance (R97). -/
theorem execSqEntryFetched_some {e : Entry} : exec (.sqEntryFetched t r (some e)) s = .next (settle { advance t s with
    cmds := tmod s.cmds seq fun c => { c with entry := e, phase := .waiting } }) := by
  have hread : readingCmd (advance t s) r.fn r.ring = some (seq, c) := hr
  change execSqEntryFetched t r (some e) s = _
  rw [execSqEntryFetched, event_runs hl]
  simp only [hread, advance_cmds]

/-- A failed read is a ring error, and its CQ slot comes free (R97; assumption log 80). -/
theorem execSqEntryFetched_none : exec (.sqEntryFetched t r none) s = .next (settle (
    let u := ringError r.fn r.ring .fetchFailed (State.modRing { advance t s with cmds := tdel s.cmds seq } r.fn r.ring
      fun g => { g with reserved := g.reserved - 1 })
    if r.ring.val = 0 then flushEvents r.fn 66 u else u)) := by
  have hread : readingCmd (advance t s) r.fn r.ring = some (seq, c) := hr
  change execSqEntryFetched t r none s = _
  rw [execSqEntryFetched, event_runs hl]
  simp only [hread, advance_cmds]

end

/-- The oldest unsignalled entry that has waited CQ_TIME sends the vector (R124). -/
theorem execCqModerationTimer_runs {g : Ring} {o : Nat} (hg : s.ring r.fn r.ring = some g) (ho : g.oldest = some o)
    (hd : o + 1000 * g.cqTimeUs ≤ (advance t s).now) : exec (.cqModerationTimer t r) s =
      .next (sendVector r.fn g.vector ((advance t s).modRing r.fn r.ring fun g =>
        { g with unsignalled := 0, oldest := none })) := by
  have hring : (advance t s).ring r.fn r.ring = some g := hg
  change execCqModerationTimer t r s = _
  rw [execCqModerationTimer, event_runs hl]
  simp only [hring, ho]
  exact congrArg _ (if_pos hd)

end

/-- Settles O29, row by row; a grant goes by `fetch_of_ring`. -/
theorem fetchingTakesEffect : Obligations.FetchingTakesEffect := by
  unfold Obligations.FetchingTakesEffect
  intro t r e f k arb seq o c g s hl h head
  refine ⟨fun hw ho hlast hn hg => ?_,
    fun hr => ⟨execSqEntryFetched_some hl hr, _, rfl, execSqEntryFetched_none hl hr⟩, execCqModerationTimer_runs hl⟩
  exact (execFetchGrant_runs hl hw ho hlast hn).trans
    (congrArg _ (fetch_of_ring (s := { h with arb := { arb with lastGrant := some h.now } }) hg))

end Sys2Proof.Machine

/-! ## Restarts of Acrega -/

namespace Sys2Proof.Machine

/-- Acrega stops unasked only where it runs (R573, R576). -/
theorem crash_of_ready {s : State} (hw : s.fw.state = .ready) (hc : s.fw.crashed = false) : crash s = (
    let recent := s.fw.unrequested.filter fun i => decide (s.now ≤ i + 60000000000)
    let hit : State := { s with fw := { s.fw with unrequested := s.now :: recent, crashed := true } }
    if 3 ≤ recent.length then raiseAlert 1 (setFw .failed hit)
    else if canRestart s then beginRestart hit else { hit with fw := { hit.fw with restartDue := true } }) := by
  unfold crash
  exact if_pos ⟨hw, hc⟩

section
variable {t : Instant} {s : State} (hl : s.alive = true)
include hl

/-- A restart that is due begins (R150, R160, R571). -/
theorem execFwRestartBegin_runs (hd : s.fw.restartDue = true) (hw : s.fw.state = .ready) (hc : canRestart s = true) :
    exec (.fwRestartBegin t) s = .next (beginRestart (advance t s)) := by
  change execFwRestartBegin t s = _
  rw [execFwRestartBegin, event_runs hl]
  exact congrArg _ (if_pos ⟨hd, hw, hc⟩)

section
variable (hw : s.fw.state = .restarting)
include hw

/-- A restart that ends after 200 ms has failed (R132). -/
theorem execFwRestartEnd_late {o : Instant} (hs : s.fw.restartSince = some o) (ho : o + 200000000 < (advance t s).now) :
    exec (.fwRestartEnd t) s = .next (raiseAlert 1 (setFw .failed (advance t s))) := by
  have hany : (advance t s).fw.restartSince.any (fun a => decide (a + 200000000 < (advance t s).now)) = true :=
    (Option.any_eq_true _ _).2 ⟨o, hs, decide_eq_true ho⟩
  change execFwRestartEnd t s = _
  rw [execFwRestartEnd, event_runs hl, if_pos ⟨hw, hany⟩]
  rfl

/-- A restart that ends in time completes what was accepted before it with BUSY, and goes on (R131, R646). -/
theorem execFwRestartEnd_inTime (hs : ∀ x, s.fw.restartSince = some x → (advance t s).now ≤ x + 200000000) :
    exec (.fwRestartEnd t) s = .next (
      let ready := settle (busyAll (setFw .ready { advance t s with
        fw := { (advance t s).fw with crashed := false, restartSince := none } }))
      let told := [0, 1, 2, 3].foldl (fun u f => flushEvents f 66 u) ([0, 1, 2, 3].foldl (fun u f => adminReady f u) ready)
      postAll clsFirmware 1 (BitVec.ofNat 64 told.fw.restarts) told) := by
  have hany : ¬(advance t s).fw.restartSince.any (fun a => decide (a + 200000000 < (advance t s).now)) = true := by
    simpa [Option.any_eq_true] using hs
  change execFwRestartEnd t s = _
  rw [execFwRestartEnd, event_runs hl, if_neg fun h => hany h.2,
    if_pos (show (advance t s).fw.state = .restarting from hw)]

/-- A restart that has not ended within 200 ms has failed (R132). -/
theorem execFwRestartTimeout_runs {o : Instant} (hs : s.fw.restartSince = some o)
    (ho : o + 200000000 ≤ (advance t s).now) :
    exec (.fwRestartTimeout t) s = .next (raiseAlert 1 (setFw .failed (advance t s))) := by
  change execFwRestartTimeout t s = _
  rw [execFwRestartTimeout, event_runs hl]
  simp only [advance_fw, hs]
  exact congrArg _ (if_pos ⟨hw, ho⟩)

end
end

/-- Settles O30, row by row; both errors of Acrega go by `crash_of_ready`. -/
theorem firmwareRowsTakeEffect : Obligations.FirmwareRowsTakeEffect := by
  unfold Obligations.FirmwareRowsTakeEffect
  intro t o s hl
  dsimp only
  refine ⟨execFwRestartBegin_runs hl, fun hw hs => execFwRestartEnd_late hl hw hs, fun hw hs => ?_,
    fun hw hs => execFwRestartTimeout_runs hl hw hs, fun hw hc => ⟨rfl, ?_⟩⟩
  · simpa only using execFwRestartEnd_inTime hl hw hs
  · exact (event_runs hl).trans (congrArg _ (crash_of_ready (s := advance t s) hw hc))

end Sys2Proof.Machine

/-! ## Acrega commands: checks in the order of their codes, buffers, class D* -/

namespace Sys2Proof.Machine

section
variable (seq : Nat) (t : Instant) (s : State)
@[simp] theorem accepted_drover : (accepted seq t s).drover = s.drover := rfl
@[simp] theorem accepted_loft : (accepted seq t s).loft = s.loft := rfl
@[simp] theorem accepted_inst (g : Nat) : (accepted seq t s).inst g = s.inst g := rfl
@[simp] theorem accepted_windowsOpen : (accepted seq t s).windowsOpen = s.windowsOpen := rfl
end

section
variable {seq : Nat} {cs bs : List (Bool × Status)} {k : State → State} {s : State}

/-- Checks that pass do not count. -/
theorem firstFailing_append (h : ∀ x ∈ cs, x.1 = false) : firstFailing (cs ++ bs) = firstFailing bs := by
  have hn : cs.filter (·.1) = [] := List.filter_eq_nil_iff.2 fun x hx => by simp [h x hx]
  simp only [firstFailing, List.filter_append, hn, List.nil_append]

theorem checked_append (h : ∀ x ∈ cs, x.1 = false) : checked seq (cs ++ bs) k s = checked seq bs k s := by
  simp only [checked, firstFailing_append h]

/-- A check whose code none of the others falls below comes first (R143). -/
theorem checked_cons {p : Bool} {st : Status} (h : ∀ x ∈ cs, st.code ≤ x.2.code) :
    checked seq ((p, st) :: cs) k s = if p then finish seq st 0 s else checked seq cs k s := by
  cases p with
  | false => rfl
  | true =>
    have hf : firstFailing ((true, st) :: cs) = some st := firstFailing_min List.mem_cons_self fun x hx => by
      rcases List.mem_cons.1 hx with heq | hx
      · cases heq
        exact Nat.le_refl _
      · exact h _ hx
    simp only [checked, hf, if_true]

@[simp] theorem checked_nil : checked seq [] k s = k s := rfl

end

/-- A command that is taken up and whose header is sound makes its own checks. -/
theorem runAccepted_takenUp {seq : Nat} {c : Cmd} {cs : State → List (Bool × Status)} {body : Nat → State → State} {s : State}
    (hu : takenUp s c = true) (hh : badHeader c.entry = false) :
    runAccepted seq c cs body s = checked seq (cs s) (body seq) s := by
  simp only [takenUp, Bool.and_eq_true, Bool.not_eq_true'] at hu
  obtain ⟨ht, hs⟩ := hu
  simp only [runAccepted, ht, hs, hh, Bool.false_eq_true, if_false]
  exact checked_append (cs := [(false, .badParam), (false, .badState)]) (by simp)

/-- A command that reads its host buffer, whose function may make requests and which no check of its entry turns away, makes the
checks of the buffer after the read. -/
theorem bufCommandAfter_reads {first : State → State} {op : Nat} {t : Instant} {r : RingRef} {e : Entry} {seq : Nat} {c : Cmd}
    {s : State} {cs bs : State → List (Bool × Status)} {body : Nat → State → State} (h : Accepts op t r e seq c s)
    (hr : s.mayRequest r.fn = true) (hm : (first (accepted seq t s)).mayRequest r.fn = true)
    (hu : Machine.takenUp (first (accepted seq t s)) c = Machine.takenUp (accepted seq t s) c)
    (hc : ∀ x ∈ cs (first (accepted seq t s)), x.1 = false)
    (hc' : ∀ x ∈ cs (readBuffer r.fn e (first (accepted seq t s))), x.1 = false) :
    bufCommandAfter first op t r e cs bs body s = .next (settle (
      let u := readBuffer r.fn e (first (accepted seq t s))
      checked seq (bs u) (body seq) u)) := by
  obtain ⟨-, -, he, -⟩ := takeFront_some h.front
  have hk := h.takenUp
  have hready : bufferReady (advance t s) r.fn = true := by
    have : (advance t s).mayRequest r.fn = true := hr
    simp [bufferReady, this]
  have hany : (cs (first (accepted seq t s))).any (fun p => p.1 && decide (p.2 = .badParam)) = false := by
    rw [List.any_eq_false]
    intro x hx
    simp [hc x hx]
  have hreq : requestBuffer c (cs (first (accepted seq t s))) (first (accepted seq t s)) =
      readBuffer r.fn e (first (accepted seq t s)) := by
    simp [requestBuffer, takeFront_fn h.front, he, hm, hu, hk, h.header, hany]
  have hacc : markAccepted seq (advance t s) = accepted seq t s := rfl
  simp only [bufCommandAfter, h.front, hready, if_true, hacc, hk, hreq]
  have htake : Machine.takenUp (readBuffer r.fn e (first (accepted seq t s))) c = true := hu.trans hk
  rw [runAccepted_takenUp htake (he ▸ h.header), checked_append hc']

/-- A command that reads its host buffer, which acceptance alone does not change and whose checks all pass. -/
theorem bufCommand_runs {op : Nat} {t : Instant} {r : RingRef} {e : Entry} {seq : Nat} {c : Cmd}
    {s : State} {cs bs : State → List (Bool × Status)} {body : Nat → State → State} (h : Accepts op t r e seq c s)
    (hr : s.mayRequest r.fn = true) (hc : ∀ x ∈ cs (accepted seq t s), x.1 = false)
    (hb : ∀ x ∈ cs (readBuffer r.fn e (accepted seq t s)) ++ bs (readBuffer r.fn e (accepted seq t s)), x.1 = false) :
    bufCommand op t r e cs bs body s = .next (settle (body seq (readBuffer r.fn e (accepted seq t s)))) :=
  bufCommandAfter_runs h hr hr rfl hc hb

theorem State.windowsOpen_iff {s : State} : s.windowsOpen = true ↔ s.tick.state = .running ∨ s.tick.state = .switching := by
  simp [State.windowsOpen]

theorem State.windowsOpen_eq_false {s : State} :
    s.windowsOpen = false ↔ s.tick.state ≠ .running ∧ s.tick.state ≠ .switching := by
  simp [State.windowsOpen]

/-- What a command does before what follows its completion, written in another way. -/
theorem next_settle_trans {o : Host.Outcome State Fault Refusal} {u v : State} (h : o = .next (settle u)) (huv : u = v) :
    o = .next (settle v) := huv ▸ h

/-- A class D* effect waits for the next opening while windows open (Table 4.2). -/
theorem deferStar_eq (seq : Nat) (x : Effect) (now : State → State) (s : State) : deferStar seq x now s =
    if s.tick.state = .running ∨ s.tick.state = .switching then finish seq .deferred 0 { s with deferred := s.deferred ++ [x] }
    else finish seq .ok 0 (now s) := by
  unfold deferStar
  simp only [State.windowsOpen_iff]
  rfl

end Sys2Proof.Machine

/-! ## Acrega commands turned away in a Standby state -/

namespace Sys2Proof.Machine

/-- No check of a list fails with a code below that of BAD_PARAM. -/
def FromBadParam (cs : List (Bool × Status)) : Prop := ∀ x ∈ cs, Status.badParam.code ≤ x.2.code

@[simp] theorem fromBadParam_nil : FromBadParam [] := fun _ h => absurd h List.not_mem_nil

@[simp] theorem fromBadParam_cons {x : Bool × Status} {cs : List (Bool × Status)} :
    FromBadParam (x :: cs) ↔ Status.badParam.code ≤ x.2.code ∧ FromBadParam cs := List.forall_mem_cons

@[simp] theorem fromBadParam_append {cs ds : List (Bool × Status)} :
    FromBadParam (cs ++ ds) ↔ FromBadParam cs ∧ FromBadParam ds := List.forall_mem_append

/-! ### The checks that commands share -/

@[simp] theorem layout_snd {e : Entry} {used : List (Nat × Nat)} : (layout e used).2 = .badParam := rfl
@[simp] theorem badIf_snd {p : Bool} : (badIf p).2 = .badParam := rfl
@[simp] theorem badTenant_snd {e : Entry} : (badTenant e).2 = .badParam := rfl
@[simp] theorem noGraph_snd {s : State} {e : Entry} : (noGraph s e).2 = .notFound := rfl
@[simp] theorem residentState_snd {s : State} : (residentState s).2 = .badState := rfl

@[simp] theorem bufChecks_fromBadParam {e : Entry} {n : Nat} : FromBadParam (bufChecks e n) := by
  simp [bufChecks]

@[simp] theorem memChecks_fromBadParam {e : Entry} {s : State} : FromBadParam (memChecks e s) := by
  simp [memChecks, Status.code]

@[simp] theorem armParams_fromBadParam {e : Entry} : FromBadParam (armParams e) := by
  simp [armParams]

@[simp] theorem armChecks_fromBadParam {e : Entry} {s : State} {gr : Graph} : FromBadParam (armChecks e s gr) := by
  simp [armChecks, Status.code]

@[simp] theorem contextChecks_fromBadParam {s : State} {n : Nat} {b : Option Binding} {d : List Byte} :
    FromBadParam (contextChecks s n b d) := by
  cases b <;> simp [contextChecks, Status.code]

/-! ### What a Standby state leaves of a command -/

/-- Where a check of BAD_STATE fails and no code is below BAD_PARAM, one of the two is reported (R143). -/
theorem firstFailing_badState {cs : List (Bool × Status)} (h : (true, .badState) ∈ cs) (hc : FromBadParam cs) :
    ∃ st, (st = Status.badState ∨ st = .badParam) ∧ firstFailing cs = some st := by
  by_cases hp : (true, Status.badParam) ∈ cs
  · exact ⟨.badParam, .inr rfl, firstFailing_min hp fun x hx => hc _ hx⟩
  · refine ⟨.badState, .inl rfl, firstFailing_min h fun x hx => ?_⟩
    have hne : Status.badParam.code ≠ x.code := fun hx' => hp (status_code_inj hx' ▸ hx)
    exact Nat.lt_of_le_of_ne (hc _ hx) hne

/-- The command has completed with BAD_STATE or BAD_PARAM, and has done nothing else. -/
def TurnedAway (seq : Nat) (a : State) (o : Host.Outcome State Fault Refusal) : Prop :=
  ∃ st, (st = Status.badState ∨ st = .badParam) ∧ o = .next (settle (finish seq st 0 a))

section
variable {op : Nat} {t : Instant} {r : RingRef} {e : Entry} {seq : Nat} {c : Cmd} {s : State}
  {first : State → State} {cs bs : State → List (Bool × Status)} {body : Nat → State → State}

/-- The Standby check fails, and what is reported is its code or BAD_PARAM. -/
theorem runAccepted_standby (ht : timedOut s c = false) (hs : s.inStandby = true) (ho : opcode c.entry ∉ standbyOpcodes)
    (hc : FromBadParam (cs s)) :
    ∃ st, (st = Status.badState ∨ st = .badParam) ∧ runAccepted seq c cs body s = finish seq st 0 s := by
  obtain ⟨st, hst, hfirst⟩ := firstFailing_badState (cs := (badHeader c.entry, .badParam) :: (true, .badState) :: cs s)
    (by simp) (by simp [hc, Status.code])
  exact ⟨st, hst, by simp [runAccepted, ht, checked, hs, ho, hfirst]⟩

section
variable (hf : takeFront op r e (advance t s) = some (seq, c)) (ht : timedOut (accepted seq t s) c = false)
  (hs : s.inStandby = true) (ho : op ∉ standbyOpcodes)
include hf ht hs ho

/-- Such a command is turned away, whatever it would do. -/
theorem command_standby (hc : ∀ u, FromBadParam (cs u)) :
    TurnedAway seq (accepted seq t s) (command op t r e cs body s) := by
  obtain ⟨-, hop, hentry, -⟩ := takeFront_some hf
  have hacc : markAccepted seq (advance t s) = accepted seq t s := rfl
  obtain ⟨st, hst, hrun⟩ := runAccepted_standby (s := accepted seq t s) (seq := seq) (body := body) ht hs
    (by rwa [hentry, hop]) (hc _)
  exact ⟨st, hst, by simp only [command, hf, hacc, hrun]⟩

/-- Such a command is not taken up, so that it does not read its host buffer either. -/
theorem bufCommandAfter_standby (hb : bufferReady s r.fn = true) (hc : ∀ u, FromBadParam (cs u ++ bs u)) :
    TurnedAway seq (accepted seq t s) (bufCommandAfter first op t r e cs bs body s) := by
  obtain ⟨-, hop, hentry, -⟩ := takeFront_some hf
  have hacc : markAccepted seq (advance t s) = accepted seq t s := rfl
  have ho : opcode c.entry ∉ standbyOpcodes := by rwa [hentry, hop]
  have hsleep : (accepted seq t s).inStandby = true := hs
  have hready : bufferReady (advance t s) r.fn = true := hb
  have hu : takenUp (accepted seq t s) c = false := by simp [takenUp, hsleep, ho]
  have hreq (l : List (Bool × Status)) : requestBuffer c l (accepted seq t s) = accepted seq t s := by
    simp [requestBuffer, hu]
  obtain ⟨st, hst, hrun⟩ := runAccepted_standby (s := accepted seq t s) (seq := seq) (cs := fun u => cs u ++ bs u)
    (body := body) ht hs ho (hc _)
  refine ⟨st, hst, ?_⟩
  simp only [bufCommandAfter, hf, hready, hacc, hu, hreq, if_true, Bool.false_eq_true, if_false, hrun]

theorem bufCommand_standby (hb : bufferReady s r.fn = true) (hc : ∀ u, FromBadParam (cs u ++ bs u)) :
    TurnedAway seq (accepted seq t s) (bufCommand op t r e cs bs body s) :=
  bufCommandAfter_standby hf ht hs ho hb hc

/-- A command that has no other one on its object to wait for. -/
theorem guarded_standby {w : Bool} (hw : w = false) (hc : ∀ u, FromBadParam (cs u)) :
    TurnedAway seq (accepted seq t s) (if w then .next (advance t s) else command op t r e cs body s) := by
  subst hw
  exact command_standby hf ht hs ho hc

end

end

/-- Settles O55, row by row: no check of a row reports a code below BAD_PARAM. -/
theorem standbyTurnsCommandsAway : Obligations.StandbyTurnsCommandsAway := by
  unfold Obligations.StandbyTurnsCommandsAway
  intro i op t r e seq c s hi hw hf ht hs ho
  change TurnedAway seq (accepted seq t s) (exec i s)
  cases i <;> cases hi
  case identify | ringCreate | ringReset | ringDelete | arbSet | powerStateSet | deviceReset | partitionGet | tickStatus
      | telemetryRead =>
    exact absurd (by decide) ho
  case residentLoad | residentDelete => exact guarded_standby hf ht hs ho hw fun u => by simp [Status.code]
  case graphLoad | graphUnload | graphDisarm | graphStatus =>
    exact guarded_standby hf ht hs ho hw fun u => by simp [badTenant, Status.code]
  case graphArm | graphParamSet | frameAbort =>
    refine guarded_standby hf ht hs ho hw fun u => ?_
    cases h : u.graph (graphOf e) <;> simp [h, badTenant, apply_ite FromBadParam, Status.code]
  case fwUpdate buf =>
    obtain ⟨hflash, hb⟩ := Bool.or_eq_false_iff.1 hw
    change TurnedAway seq (accepted seq t s) (execFwUpdate t r e buf s)
    rw [execFwUpdate, hflash]
    refine bufCommandAfter_standby hf ht hs ho (by simpa using hb) fun u => ?_
    cases buf <;> simp [packageChecks, Status.code]
  case partitionSet buf | laneContextSet buf | sensorXfer buf | halterConfig buf | routeLoad buf | tallyConfig buf =>
    refine bufCommand_standby hf ht hs ho (by simpa [waitsFor] using hw) fun u => ?_
    cases buf <;> simp [Status.code]
  all_goals exact command_standby hf ht hs ho fun u => by simp [apply_ite FromBadParam, Status.code]

end Sys2Proof.Machine

/-! ## Commands that only ask -/

namespace Sys2Proof.Machine

@[simp] theorem accepted_inner (seq : Nat) (t : Instant) (s : State) : (accepted seq t s).inner = s.inner := rfl

section
variable {α : Type} {f : State → α} {op : Nat} {t : Instant} {r : RingRef} {e : Entry} {seq : Nat} {c : Cmd} {s u : State}
  {cs : State → List (Bool × Status)} {body : Nat → State → State}
  (hb : ∀ seq s, f (body seq s).inner = f s.inner)
include hb

/-- A command that is taken up, late or turned away leaves of the device what its effect leaves. -/
theorem runAccepted_inner : f (runAccepted seq c cs body s).inner = f s.inner := by
  unfold runAccepted checked
  split
  · rw [timeOut_inner]
  · split
    · rw [finish_inner]
    · exact hb seq s

/-- Whatever comes of a command, it leaves of the device what its effect leaves. -/
theorem command_inner (h : command op t r e cs body s = .next u) : f u.inner = f s.inner := by
  unfold command at h
  dsimp only at h
  split at h
  · cases h
    rfl
  · cases h
    rw [settle_inner, runAccepted_inner hb, markAccepted_inner, advance_inner]

/-- The same of a command on a graph, which may wait for the image of its graph. -/
theorem graphCommand_inner (h : graphCommand op t r e cs body s = .next u) : f u.inner = f s.inner := by
  unfold graphCommand at h
  split at h
  · cases h
    rfl
  · exact command_inner hb h

end

theorem writeBuffer_inner (seq f : Nat) (a : BitVec 64) (d : List Byte) (ok : Bool) (s : State) :
    (writeBuffer seq f a d ok s).inner = s.inner := by
  unfold writeBuffer
  split <;> simp

/-- The trace port catching up changes Tally alone, and what is sent. -/
theorem tracePort_inner (s : State) : ∃ y, (tracePort s).inner = { s.inner with tally := y } := by
  unfold tracePort
  split
  · split
    · dsimp only
      split <;> exact ⟨_, rfl⟩
    · exact ⟨s.tally, rfl⟩
  · exact ⟨s.tally, rfl⟩

/-- Settles O58, command by command, by what the effect of each leaves. -/
theorem queriesChangeNothing : Obligations.QueriesChangeNothing := by
  unfold Obligations.QueriesChangeNothing
  intro t r e ok s u
  refine ⟨fun i hi h => ?_, fun h => ?_⟩
  · simp only [List.mem_cons, List.not_mem_nil, or_false] at hi
    rcases hi with rfl | rfl | rfl | rfl | rfl | rfl
    · exact command_inner (f := id) (fun _ _ => finish_inner ..) h
    · exact command_inner (f := id) (fun _ _ => writeBuffer_inner ..) h
    · exact command_inner (f := id) (fun _ _ => writeBuffer_inner ..) h
    · refine graphCommand_inner (f := id) (fun _ v => ?_) h
      dsimp only [id]
      split <;> exact finish_inner ..
    · exact command_inner (f := id) (fun _ _ => finish_inner ..) h
    · exact command_inner (f := id) (fun _ _ => finish_inner ..) h
  · refine command_inner (f := fun v => { v with tally := s.tally }) (fun _ v => ?_) h
    obtain ⟨y, hy⟩ := tracePort_inner v
    dsimp only
    rw [writeBuffer_inner, hy]

end Sys2Proof.Machine

/-! ## Commands of groups 0x01 and 0x02: firmware, power, contracts -/

namespace Sys2Proof.Machine

/-- The checks of a package, in the order of their codes (R645). -/
theorem packageChecks_checked (seq : Nat) (k : State → State) (s : State) (p : List Byte) :
    checked seq (packageChecks s p) k s =
      if zeros p 0 64 = false then finish seq .badParam 0 s
      else if (imageRules p && configOk (configOf p)) = false then finish seq .badImage 0 s
      else if signatureOk s p = false then finish seq .authFailed 0 s
      else if securityVersion p < s.part.rollback then finish seq .rollback 0 s
      else k s := by
  unfold packageChecks badIf
  rw [checked_cons (by simp [Status.code]), checked_cons (by simp [Status.code]), checked_cons (by simp [Status.code]),
    checked_cons (by simp)]
  cases hi : imageRules p <;> simp

/-- The slot that is not active is empty, and its host buffer read, before a sound FW_UPDATE checks the package (R158, R645). -/
theorem execFwUpdate_reads {t : Instant} {r : RingRef} {e : Entry} {seq : Nat} {c : Cmd} {s : State}
    (h : Accepts 0x0106 t r e seq c s) (hr : s.mayRequest r.fn = true) (hz : unusedZero e [(24, 12)] = true)
    (hj : s.flash = none) (ha : efld e 24 8 % 64 = 0) (hl : 5248 ≤ efld e 32 4) (hl' : efld e 32 4 ≤ 2 ^ 25)
    (buf : Option (List Byte)) : exec (.fwUpdate t r e buf) s = .next (settle (
      let b := readBuffer r.fn e (emptySlot (accepted seq t s))
      checked seq (match buf with
          | some d => packageChecks b (fit (efld e 32 4) d)
          | none => [(true, .hostDmaError)])
        (fun b => { b with flash := some { cmd := seq, slot := 1 - activeSlot b, seq := nextSeq b,
                                           package := fit (efld e 32 4) (buf.getD []) } }) b)) := by
  have hj : s.flash.isSome = false := by simp [hj]
  have hn : efld e 32 4 ≠ 0 := by omega
  change execFwUpdate t r e buf s = _
  rw [execFwUpdate, hj, if_neg Bool.false_ne_true]
  refine bufCommandAfter_reads h hr hr rfl ?_ ?_ <;> simpa [bufChecks, hz, ha, hn, hl] using hl'

/-- Settles O2: a FW_UPDATE makes the checks of its package in the order of their codes; the other two pass theirs. -/
theorem firmwareCommandsTakeEffect : Obligations.FirmwareCommandsTakeEffect := by
  unfold Obligations.FirmwareCommandsTakeEffect
  intro t r e d seq c s
  dsimp only
  refine ⟨fun h hr hz hj ha hl hl' => ?_, fun h hr hz hj ha hl hl' => ?_, fun h hz => ⟨_, rfl, ?_⟩, fun h hz h0 => ⟨_, rfl, ?_⟩⟩
  · exact next_settle_trans (execFwUpdate_reads h hr hz hj ha hl hl' (some d)) (packageChecks_checked ..)
  · exact execFwUpdate_reads h hr hz hj ha hl hl' none
  · exact command_runs h (by simp [hz])
  · exact command_runs h (by simp [hz, h0])

/-! ### Power states -/

/-- POWER_STATE_SET is valid in RUNNING for ACTIVE and DECAF (R159). -/
theorem powerValid_running {s : State} {p : PowerState} (hj : s.power.job = none) (hs : s.tick.state = .running)
    (hp : p = .active ∨ p = .decaf) : powerValid s p = true := by
  rcases hp with rfl | rfl <;> simp [powerValid, hj, hs]

/-- In STOPPED it is valid for a Standby state, and out of one for the others (R159). -/
theorem powerValid_stopped {s : State} {p : PowerState} (hj : s.power.job = none) (hs : s.tick.state = .stopped)
    (hp : p = .active ∨ p = .decaf → s.power.state = .standby ∨ s.power.state = .standbyRetain) : powerValid s p = true := by
  cases p with
  | active | decaf => simpa [powerValid, hj, hs] using hp
  | standbyRetain | standby => simp [powerValid, hj, hs]

/-- A valid POWER_STATE_SET replaces or cancels the pending clock change in RUNNING, and starts a change in STOPPED. -/
theorem execPowerStateSet_runs {t : Instant} {r : RingRef} {e : Entry} {seq : Nat} {c : Cmd} {s : State}
    (h : Accepts 0x0108 t r e seq c s) (hz : unusedZero e [(16, 1)] = true) (hp : efld e 16 1 ≤ 3)
    (hv : powerValid (accepted seq t s) (powerOf (efld e 16 1)) = true)
    (hw : powerOf (efld e 16 1) = .decaf → longestArmed (foreseen (accepted seq t s)) true ≤
      openUs (srcSoon (accepted seq t s)) (prmSoon (accepted seq t s))) :
    exec (.powerStateSet t r e) s = .next (settle (
      let a := accepted seq t s
      let p := powerOf (efld e 16 1)
      if s.tick.state = .running then
        if s.power.state = p then finish seq .ok 0 (a.modPower fun x => { x with pending := none })
        else finish seq .deferred 0 (a.modPower fun x => { x with pending := some (p, a.now) })
      else a.modPower fun x => { x with job := some { target := p, cmd := seq } })) :=
  command_runs h (by simpa [hz, hp, hv] using hw)

/-- Settles O3: its checks pass in the states that allow it (assumption log 54). -/
theorem powerStateSetTakesEffect : Obligations.PowerStateSetTakesEffect := by
  unfold Obligations.PowerStateSetTakesEffect
  intro t r e seq c s
  dsimp only
  intro h hz hp hj hw
  refine ⟨fun hs hx => ?_, fun hs hx => ?_⟩
  · have hrun := execPowerStateSet_runs h hz hp (powerValid_running (s := accepted seq t s) hj hs hx) hw
    refine ⟨fun hsame => ?_, fun hother => ?_⟩
    · simp only [hrun, hs, hsame, if_true]
    · simp only [hrun, hs, hother, if_true, if_false]
  · rw [execPowerStateSet_runs h hz hp (powerValid_stopped (s := accepted seq t s) hj hs hx) hw]
    simp only [hs, reduceCtorEq, if_false]

/-! ### Contracts -/

/-- A command whose host buffer is written whole completes with OK. -/
@[simp] theorem writeBuffer_ok (seq f : Nat) (x : BitVec 64) (d : List Byte) (s : State) :
    writeBuffer seq f x d true s = finish seq .ok 0 (hostWrite f x d s) := rfl

/-- Settles O4: each command passes its checks. -/
theorem partitionCommandsTakeEffect : Obligations.PartitionCommandsTakeEffect := by
  unfold Obligations.PartitionCommandsTakeEffect
  intro t r e d seq c s
  dsimp only
  refine ⟨fun h hr hz ha hl hok hu hc => ?_, fun h hz hk ha hl => ?_, fun h hz hk hu hc => ?_⟩
  · have hok' : contractOk (readBuffer r.fn e (accepted seq t s)) (fit 256 d) = true := hok
    have hu' : tenantInUse (readBuffer r.fn e (accepted seq t s)) (fld (fit 256 d) 0 1) = false := hu
    have hc' : contractConflict (readBuffer r.fn e (accepted seq t s)) (fld (fit 256 d) 0 1) (parseContract (fit 256 d)) =
      false := hc
    refine next_settle_trans (bufCommand_runs h hr ?_ ?_) (deferStar_eq ..)
    · simp [bufChecks, hz, ha, hl]
    · simp [bufChecks, hz, ha, hl, hok', hu', hc']
  · exact command_runs h (by simp [bufChecks, badTenant, hz, hk, ha, hl])
  · refine next_settle_trans (command_runs h ?_) (deferStar_eq ..)
    simp [badTenant, hz, hk, hu, hc]

end Sys2Proof.Machine

/-! ## Commands of group 0x04: movements, resident regions, gates -/

namespace Sys2Proof.Machine

/-! ### Movements -/

/-- A MEM_WRITE or MEM_READ whose range is aligned, inside the contract and clear of check areas passes the checks of both. -/
theorem memChecks_pass {e : Entry} {s : State} (hz : unusedZero e [(16, 1), (24, 12), (40, 8)] = true) (ht : efld e 16 1 ≤ 3)
    (ha : efld e 24 8 % 64 = 0) (hn : efld e 32 4 ≠ 0) (hn' : efld e 32 4 ≤ 0x4000000)
    (hl : efld e 40 8 < 512 * loftRows → efld e 40 8 % 512 = 0 ∧ efld e 32 4 % 512 = 0)
    (hd : dramBase ≤ efld e 40 8 → efld e 40 8 % 64 = 0 ∧ efld e 32 4 % 64 = 0)
    (hi : inContract ((foreseen s).contract (efld e 16 1)) (efld e 40 8, efld e 32 4) = true)
    (hk : dramBase ≤ efld e 40 8 → hitsCheck s (efld e 40 8) (efld e 32 4) = false) :
    ∀ x ∈ memChecks e s, x.1 = false := by
  simpa [memChecks, bufChecks, badTenant, hz, ht, ha, hn, hn', hi] using ⟨hl, hd, hk⟩

/-- Settles O8: both commands pass the checks they share, and MEM_WRITE its own three. -/
theorem memoryMovementsBegin : Obligations.MemoryMovementsBegin := by
  unfold Obligations.MemoryMovementsBegin
  intro t r e seq c s
  dsimp only
  refine ⟨fun h ⟨hz, ht, ha, hn, hn', hl, hd, hi, hk⟩ hw hr hb => ?_, fun h ⟨hz, ht, ha, hn, hn', hl, hd, hi, hk⟩ => ?_⟩
  · refine next_settle_trans (command_runs h fun y hy => ?_) ?_
    · simp only [List.mem_append, List.mem_cons, List.not_mem_nil, or_false] at hy
      rcases hy with hy | rfl | rfl | rfl
      · exact memChecks_pass hz ht ha hn hn' hl hd hi hk y hy
      · simpa [State.windowsOpen_eq_false] using hw
      · simpa using hr
      · simpa [State.windowsOpen_iff] using hb
    · split <;> rfl
  · exact command_runs h (memChecks_pass hz ht ha hn hn' hl hd hi hk)

/-! ### Resident regions and gates -/

/-- Resident regions change in STOPPED, PAUSED and LOST (Table 4.9). -/
theorem residentState_fst {s : State} (h : s.tick.state = .stopped ∨ s.tick.state = .paused ∨ s.tick.state = .lost) :
    (residentState s).1 = false := by
  rcases h with h | h | h <;> simp [residentState, h]

/-- A range that meets a Carafe meets an empty one, where it is clear of every other. -/
theorem carafe_empty {x c : Nat × Nat} (h : c.2 ≠ 0 → overlap x c = false) (ho : overlap x c = true) : c.2 = 0 :=
  by_contra fun hn => Bool.false_ne_true ((h hn).symm.trans ho)

/-- Settles O9, command by command. -/
theorem residentCommandsTakeEffect : Obligations.ResidentCommandsTakeEffect := by
  unfold Obligations.ResidentCommandsTakeEffect
  intro t r e g seq c s
  dsimp only
  refine ⟨fun h hz hn hk hc hb hs hfree hin hrows hdram hback htaken hcar hbk hck => ?_, fun h hz hk hs hl hg => ?_,
    fun h hz hk hs hl hg hgr => ?_⟩
  · have hstate := residentState_fst (s := foreseen (accepted seq t s)) (by rw [foreseen_tick]; exact hs)
    refine command_runs h ?_
    simpa [badTenant, hz, hn, hk, hc, hb, hfree, hin, hrows, hdram, hback, htaken, hbk, hck, hstate, thas] using
      carafe_empty hcar
  · have hstate := residentState_fst (s := accepted seq t s) hs
    change execResidentLoad t r e s = _
    rw [execResidentLoad, hl, if_neg Bool.false_ne_true, command_runs h]
    · simp only [beginMove, State.modLoft, accepted_loft, tmod_eq_tset hg]
    · simp [hz, hk, hstate, thas, hg]
  · have hstate := residentState_fst (s := accepted seq t s) hs
    change execResidentDelete t r e s = _
    rw [execResidentDelete, hl, if_neg Bool.false_ne_true, command_runs h]
    · simp only [accepted_loft, hg]
      rfl
    · simpa [hz, hk, hstate, thas, hg] using hgr

/-- Settles O10: both commands pass their checks. -/
theorem gateCommandsTakeEffect : Obligations.GateCommandsTakeEffect := by
  unfold Obligations.GateCommandsTakeEffect
  intro t r e seq c s
  dsimp only
  refine ⟨fun h hz ht hk hm hp hn hkey hfree hin hrows htaken hcar => ?_, fun h hz hk hg hn => ?_⟩ <;>
    refine next_settle_trans (command_runs h ?_) (deferStar_eq ..)
  · have hkeys : ((efld e 18 1).testBit 2 = false → efld e 19 1 ≠ 0) ∧
        ((efld e 18 1).testBit 2 = true → efld e 19 1 = 0 ∧ efld e 28 1 = 0) := by
      cases ho : (efld e 18 1).testBit 2 <;> simpa [ho] using hkey
    simpa [badTenant, newGate, bit, hz, ht, hk, hm, hp, hn, hfree, hin, hrows, htaken, thas] using
      ⟨hkeys.1, hkeys.2, carafe_empty hcar⟩
  · have hgate : thas (foreseen (accepted seq t s)).loft.gates (efld e 17 1) = true := hg
    simpa [hz, hk, hgate] using hn

end Sys2Proof.Machine

/-! ## Commands on graph slots and tethers -/

namespace Sys2Proof.Machine

section
variable {t : Instant} {r : RingRef} {e : Entry} {gr : Graph} {seq : Nat} {c : Cmd} {s : State}
  (hb : graphBusy s e = false) (ht : efld e 16 1 ≤ 3) (hg : efld e 17 1 ≤ 63)
include hb ht hg

/-- The image of a slot is read while no contract change of its tenant is pending (R173). -/
theorem exec_graphLoad (h : Accepts 0x0501 t r e seq c s) (hz : unusedZero e [(16, 2), (24, 12)] = true)
    (ha : efld e 24 8 % 64 = 0) (hl : efld e 32 4 ≠ 0) (hl' : efld e 32 4 ≤ 0x1000000)
    (hp : partitionPending s (efld e 16 1) = false) : exec (.graphLoad t r e) s =
      .next (settle (beginMove (.graphLoad (efld e 16 1) (efld e 17 1) (efld e 32 4)) seq (accepted seq t s))) := by
  have hp : partitionPending (accepted seq t s) (efld e 16 1) = false := hp
  exact graphCommand_runs h hb ht hg (by simp [bufChecks, hz, ha, hl, hl', hp])

variable (hgr : s.graph (graphOf e) = some gr)
include hgr

/-- An unarmed graph that is not active leaves its slot, and every pending effect on it goes (R174). -/
theorem exec_graphUnload (h : Accepts 0x0502 t r e seq c s) (hz : unusedZero e [(16, 2)] = true)
    (ha : ∀ x, (foreseen (accepted seq t s)).graph (graphOf e) = some x → x.isArmed = false)
    (hi : s.inst (graphOf e) = none) : exec (.graphUnload t r e) s = .next (settle (finish seq .ok 0 { accepted seq t s with
      drover := { (accepted seq t s).drover with graphs := tdel (accepted seq t s).drover.graphs (graphOf e) }
      deferred := (accepted seq t s).deferred.filter fun x => !effectOn (graphOf e) x })) := by
  refine graphCommand_runs h hb ht hg ?_
  simp only [List.mem_cons, List.not_mem_nil, or_false]
  rintro x (rfl | rfl | rfl)
  · simp [hz]
  · exact noGraph_fst (s := accepted seq t s) hgr
  · cases hf : (foreseen (accepted seq t s)).graph (graphOf e) with
    | none => simp [hi]
    | some x => simp [ha x hf, hi]

/-- The status of a graph: its latest result, what is armed or pending on it, and its latest TICKNO (R172;
assumption log 40). -/
theorem exec_graphStatus (h : Accepts 0x0506 t r e seq c s) (hz : unusedZero e [(16, 2)] = true) :
    exec (.graphStatus t r e) s = .next (settle (finish seq .ok (resultBytes
      [(20, match gr.latest with | some q => q.1.code | none => 0),
       (22, b2n gr.arm.isSome + 2 * b2n (armPending s (graphOf e)) + 4 * b2n (disarmPending s (graphOf e))),
       (24, match gr.latest with | some q => q.2.toNat | none => 0)]) (accepted seq t s))) := by
  have hn : (noGraph (accepted seq t s) e).1 = false := noGraph_fst (s := accepted seq t s) hgr
  change execGraphStatus t r e s = _
  rw [execGraphStatus, graphCommand_runs h hb ht hg (by simp [hz, hn])]
  simp only [accepted_graph, hgr]
  cases gr.latest <;> rfl

end

/-- Settles O12, command by command. -/
theorem graphSlotCommandsTakeEffect : Obligations.GraphSlotCommandsTakeEffect := by
  unfold Obligations.GraphSlotCommandsTakeEffect
  intro t r e gr seq c s
  dsimp only
  exact fun hb ht hg => ⟨fun h hz ha hl hl' hp => exec_graphLoad hb ht hg h hz ha hl hl' hp,
    fun h hz hgr ha hi => exec_graphUnload hb ht hg hgr h hz ha hi, fun h hz hgr => exec_graphStatus hb ht hg hgr h hz⟩

/-- Settles O15: both commands pass their checks. -/
theorem tetherCommandsTakeEffect : Obligations.TetherCommandsTakeEffect := by
  unfold Obligations.TetherCommandsTakeEffect
  intro t r e w seq c s
  dsimp only
  refine ⟨fun h hz hn ha hx hw ho => ?_, fun h hz hn => ?_⟩
  · exact command_runs h (by simp [hz, hn, ha, hx, hw, ho])
  · exact command_runs h (by simp [hz, hn])

end Sys2Proof.Machine

/-! ## Commands of Halters and of observation -/

namespace Sys2Proof.Machine

/-- What a function has been sent does not change what pending effects will be (R148). -/
theorem foreseen_out (o : List Emit) (s : State) : foreseen { s with out := o } = { foreseen s with out := o } := by
  have : ∀ (l : List Effect) (u : State), l.foldl foreseeOne { u with out := o } = { l.foldl foreseeOne u with out := o } := by
    intro l
    induction l with
    | nil => intro u; rfl
    | cons x l ih =>
      intro u
      rw [List.foldl_cons, List.foldl_cons, ← ih]
      cases x <;> rfl
  exact this s.deferred s

/-- Reading a buffer does not change who holds a Halter unit. -/
@[simp] theorem halterTenant_readBuffer (f : Nat) (e : Entry) (s : State) (u : Nat) :
    halterTenant (foreseen (readBuffer f e s)) u = halterTenant (foreseen s) u := by
  unfold readBuffer emitRead
  dsimp only
  rw [foreseen_out]
  rfl

/-- Settles O18: both commands pass their checks. -/
theorem halterCommandsTakeEffect : Obligations.HalterCommandsTakeEffect := by
  unfold Obligations.HalterCommandsTakeEffect
  intro t r e d seq c s
  dsimp only
  intro hu hx
  have hunit : efld e 16 1 ≠ 0x30 → efld e 16 1 = 0x31 := hu.resolve_left
  refine ⟨fun h hr hz ha hl hok => ?_, fun h hz hon hc => ?_⟩
  · refine bufCommand_runs h hr ?_ ?_
    · simpa [bufChecks, hz, ha, hl, hx] using hunit
    · simpa [bufChecks, hz, ha, hl, hx, hok] using hunit
  · exact command_runs h (by simpa [hz, hon, hx] using ⟨hunit, hc⟩)

/-- A TALLY_CONTROL that starts a configured trace or stops a running one is recorded, or cancels a pending START (R611). -/
theorem exec_tallyControl {t : Instant} {r : RingRef} {e : Entry} {seq : Nat} {c : Cmd} {s : State}
    (h : Accepts 0x0B02 t r e seq c s) (hz : unusedZero e [(16, 1)] = true) (hx : efld e 16 1 ≤ 1)
    (hstart : efld e 16 1 = 1 → (foreseen (accepted seq t s)).tally.config.isSome ∧
      (foreseen (accepted seq t s)).tally.state ≠ .running)
    (hstop : efld e 16 1 = 0 → (foreseen (accepted seq t s)).tally.state = .running) :
    exec (.tallyControl t r e) s = .next (settle (
      let a := accepted seq t s
      if efld e 16 1 = 1 then finish seq .deferred 0 { a with deferred := a.deferred ++ [.tallyStart] }
      else if startPending a then finish seq .ok 0 { a with
        deferred := dropLast (fun y => match y with | .tallyStart => true | _ => false) a.deferred }
      else finish seq .deferred 0 { a with deferred := a.deferred ++ [.tallyStop] })) :=
  command_runs h (by simpa [hz, hx] using ⟨hstart, hstop⟩)

/-- Settles O21: each command passes its checks. -/
theorem observationCommandsTakeEffect : Obligations.ObservationCommandsTakeEffect := by
  unfold Obligations.ObservationCommandsTakeEffect
  intro t r e d k seq c s
  dsimp only
  refine ⟨fun h hr hz ha hl hok => ?_, fun h hz => ⟨fun hx hc hs => ?_, fun hx hs => ?_⟩,
    fun h hz hk hn ha hl hl' => ⟨_, rfl, ?_⟩⟩
  · have hok' : tallyOk (readBuffer r.fn e (accepted seq t s)) (fit 320 d) = true := hok
    refine bufCommand_runs h hr ?_ ?_
    · simp [bufChecks, hz, ha, hl]
    · simp [bufChecks, hz, ha, hl, hok']
  · exact next_settle_trans (exec_tallyControl h hz (by omega) (fun _ => ⟨hc, hs⟩) (by omega)) (if_pos hx)
  · have hrun := next_settle_trans (exec_tallyControl h hz (by omega) (by omega) fun _ => hs) (if_neg (by omega))
    exact ⟨fun hp => next_settle_trans hrun (if_pos hp), fun hp => next_settle_trans hrun (if_neg (Bool.eq_false_iff.1 hp))⟩
  · exact command_runs h (by simp [bufChecks, hz, hk, hn, ha, hl, hl'])

end Sys2Proof.Machine

/-! ## The ends of long commands -/

namespace Sys2Proof.Machine

section
variable {t : Instant} {s : State} (hl : s.alive = true)
include hl

section
variable {id : Nat} {data : Option (List Byte)} {flaws : List (Nat × Flips)} {sectors : List (Nat × SectorCheck)} {m : Move}
  (hm : tget s.moves id = some m)
include hm

/-- A movement that something it needs holds up goes on (R78, R254, R527). -/
theorem execDataMovementEnd_waits (hw : moveWaits s id m = true) :
    exec (.dataMovementEnd t id data flaws sectors) s = .next (advance t s) := by
  have hm' : tget (advance t s).moves id = some m := hm
  have hw' : moveWaits (advance t s) id m = true := hw
  change execDataMovementEnd t id data flaws sectors s = _
  rw [execDataMovementEnd, event_runs hl]
  simp only [hm', hw', if_true]

/-- A movement that nothing holds up ends where its rows, which ask their stalls all at once, pass them (R227; assumption log
67). -/
theorem execDataMovementEnd_goes (hw : moveWaits s id m = false) :
    exec (.dataMovementEnd t id data flaws sectors) s = .next (
      let p := passStalls .host (2 ^ 24 + id) (moveRows s m) (advance t s)
      if p.2 then settle (endMove id m data flaws sectors p.1) else p.1) := by
  have hm' : tget (advance t s).moves id = some m := hm
  have hw' : moveWaits (advance t s) id m = false := hw
  have hr : moveRows (advance t s) m = moveRows s m := by cases m <;> rfl
  change execDataMovementEnd t id data flaws sectors s = _
  rw [execDataMovementEnd, event_runs hl]
  simp only [hm', hw', hr, Bool.false_eq_true, if_false]

end

/-- A flash write that has ended completes its FW_UPDATE, with the slot it wrote if it succeeded (R646). -/
theorem execFlashWriteEnd_runs {j : FlashJob} {ok : Bool} (hf : s.fw.state = .ready) (hj : s.flash = some j) :
    exec (.flashWriteEnd t ok) s = .next (settle (
      let h := { advance t s with flash := none }
      if ok then finish j.cmd .ok (resultBytes [(20, j.slot)]) { h with boot := { h.boot with
        slots := h.boot.slots.set j.slot (some (slotHeader j.seq j.package ++ j.package.drop 64)) } }
      else finish j.cmd .flashError 0 h)) := by
  change execFlashWriteEnd t ok s = _
  rw [execFlashWriteEnd, event_runs hl]
  simp only [advance_flash, advance_fw, hj, hf, if_true]

end

/-- Settles O48, row by row. -/
theorem longCommandsEnd : Obligations.LongCommandsEnd := by
  unfold Obligations.LongCommandsEnd
  intro t id data flaws sectors m j s hl
  dsimp only
  refine ⟨fun hm hw => ⟨fun hp => ?_, fun hp => ?_⟩, fun hm hw => execDataMovementEnd_waits hl hm hw, fun hf hj => ⟨?_, ?_⟩⟩
  · exact (execDataMovementEnd_goes hl hm hw).trans (congrArg _ (if_pos hp))
  · exact (execDataMovementEnd_goes hl hm hw).trans (congrArg _ (if_neg (Bool.eq_false_iff.1 hp)))
  · exact execFlashWriteEnd_runs hl hf hj
  · exact execFlashWriteEnd_runs hl hf hj

end Sys2Proof.Machine

/-! ## The state right after reset -/

namespace Sys2Proof.Machine

/-- Settles O50: the memories are canonical by computation, the rest is what every reset of the device leaves. -/
theorem resetIsSound : Obligations.ResetIsSound :=
  ⟨⟨rfl, rfl⟩, reset_shape, reset_pins _, reset_apart⟩

end Sys2Proof.Machine

/-! ## The rows of the Loft -/

namespace Sys2Proof.Machine

section
variable (t : Instant) (s : State)
@[simp] theorem stallGrant_advance (stall : Nat) : stallGrant (advance t s) stall = stallGrant s stall := rfl
@[simp] theorem refillRegion_advance (row : Nat) (f : Refill) :
    refillRegion (advance t s) row f = refillRegion s row f := rfl
@[simp] theorem firstAt_advance (place : Place) (test : Packet → Bool) :
    firstAt (advance t s) place test = firstAt s place test := rfl
end

/-- An access of class RECOVERY spends a cycle of its stall and leaves external memory. -/
@[simp] theorem recoveryAccess_dram (row : Nat) (s : State) : (recoveryAccess row s).dram = s.dram := by
  unfold recoveryAccess
  split <;> rfl

/-- A row without soft errors is as it was stored. -/
@[simp] theorem damageRow_nil (row : Nat) (s : State) : damageRow row [] s = s := if_pos rfl

/-- A stall free in this cycle, where no access waits and none is tried again, has nothing to grant but scrub (R228). -/
theorem stallIdle_of_nothing_pending {row : Nat} {s : State} (hc : cycleFree s (stallOf row) = true)
    (hw : s.loft.waiting = []) (hp : s.loft.tries = []) : stallIdle s row = true := by
  simp [stallIdle, hc, hw, hp]

/-- Where no window is open, scrub reads in turn, not promoted, whenever its unit is idle (R678). -/
theorem scrubTurn_closed {s : State} {done quota : Nat} (hw : s.tick.window = none) :
    scrubTurn s done quota true = some false := by
  simp only [scrubTurn, hw, if_true]

section
variable {t : Instant} {s : State} (hl : s.alive = true)
include hl

section
variable {stall : Fin 64} {flips : Flips}

/-- A stall with no access to grant lets its cycle pass. -/
theorem execLoftRowAccess_idle (hg : stallGrant s stall = none) :
    exec (.loftRowAccess t stall flips) s = .next (advance t s) := by
  change execLoftRowAccess t stall flips s = _
  rw [execLoftRowAccess, event_runs hl]
  simp only [stallGrant_advance, hg]

/-- A stall grants one access in a cycle (R224, R227). -/
theorem execLoftRowAccess_grants {a : Access} (hg : stallGrant s stall = some a) :
    exec (.loftRowAccess t stall flips) s = .next (
      if cycleFree (advance t s) stall then rowAccess a flips (loseCycle stall a (advance t s)) else advance t s) := by
  change execLoftRowAccess t stall flips s = _
  rw [execLoftRowAccess, event_runs hl]
  simp only [stallGrant_advance, hg]

end

section
variable {row : Nat} {found : List SectorCheck} {ok : Bool} {f : Refill} (hf : tget s.loft.refills row = some f)
include hf

section
variable (hm : f.mapping = none)
include hm

/-- A refill ends without effect where its region no longer wants the row. -/
theorem execRefillEnd_drops (hr : refillRegion s row f = none) :
    exec (.refillEnd t row found ok) s = .next (dropRefill row (advance t s)) := by
  change execRefillEnd t row found ok s = _
  rw [execRefillEnd, event_runs hl]
  simp only [advance_loft, refillRegion_advance, hf, hm, hr, Option.isSome_none, Bool.false_eq_true, if_false]

/-- A refill writes its row from the backing copy; a poisoned copy fails its region, and a failed read-back takes a spare
(R254 to R256). -/
theorem execRefillEnd_refills {g : Region} (hr : refillRegion s row f = some g) :
    exec (.refillEnd t row found ok) s = .next (
      let q := readSectors (g.backing + 512 * (row - g.first)) 4 8 found (advance t s)
      if q.2.2 then failRegion row f.region true (dropRefill row q.1)
      else if ok then postLoft row 2 (detail [(0, row), (20, f.region)])
        (dropRefill row (putRow row q.2.1 (recoveryAccess row q.1)))
      else tryMapOut row f.region ((recoveryAccess row q.1).modLoft fun l =>
        { l with counts := { l.counts with readBack := l.counts.readBack + 1 } })) := by
  change execRefillEnd t row found ok s = _
  rw [execRefillEnd, event_runs hl]
  simp only [advance_loft, refillRegion_advance, hf, hm, hr, Option.isSome_none, Bool.false_eq_true, if_false]

end

section
variable {spare : Nat} (hm : f.mapping = some spare)
include hm

/-- A map-out ends without effect where its region no longer wants the row. -/
theorem execMapOutEnd_drops (hr : refillRegion s row f = none) :
    exec (.mapOutEnd t row ok) s = .next (dropRefill row (advance t s)) := by
  change execMapOutEnd t row ok s = _
  rw [execMapOutEnd, event_runs hl]
  simp only [advance_loft, refillRegion_advance, hf, hm, hr]

/-- A map-out writes the backing copy to the spare, which serves the row from then on; a spare that fails its read-back is not
used again, and the next is tried (R255). -/
theorem execMapOutEnd_maps {g : Region} (hr : refillRegion s row f = some g) :
    exec (.mapOutEnd t row ok) s = .next (
      let u := recoveryAccess row (advance t s)
      if ok then postLoft row 3 (detail [(0, row), (20, spare)])
        (dropRefill row (putRow row (s.dram.mem.read (g.backing + 512 * (row - g.first)) 512) (mapRow row spare u)))
      else tryMapOut row f.region (u.modLoft fun l =>
        { l with deadSpares := l.deadSpares ++ [64 * stallOf row + spare],
                 counts := { l.counts with readBack := l.counts.readBack + 1 } })) := by
  change execMapOutEnd t row ok s = _
  rw [execMapOutEnd, event_runs hl]
  simp only [advance_loft, refillRegion_advance, hf, hm, hr, recoveryAccess_dram, advance_dram]

end
end

/-- Scrub reads its next row where nothing else is pending in the Loft and no window is open (R228, R585, R678). -/
theorem execLoftScrubRead_idle (ht : s.boot.selfTested = true) (ha : s.inStandby = false) (hr : s.loft.refills = [])
    (hw : s.loft.waiting = []) (hp : s.loft.tries = [])
    (hc : cycleFree (advance t s) (stallOf s.loft.scrubNext) = true) (hn : s.tick.window = none) :
    exec (.loftScrubRead t []) s = .next (detectRows .scrub [s.loft.scrubNext] (State.modPower
      ((spendCycle (stallOf s.loft.scrubNext) (advance t s)).modLoft fun l => { l with
        scrubNext := if s.loft.scrubNext + 1 = loftRows then 0 else s.loft.scrubNext + 1, scrubDone := l.scrubDone + 1 })
      fun p => { p with
        loftScrub := p.loftScrub + 1, loftPromoted := p.loftPromoted + 0,
        passes := p.passes + b2n (decide (s.loft.scrubNext + 1 = loftRows)) })) := by
  have ht' : (advance t s).boot.selfTested = true := ht
  have ha' : (advance t s).inStandby = false := ha
  have hr' : (advance t s).loft.refills = [] := hr
  have hc' : cycleFree (advance t s) (stallOf (advance t s).loft.scrubNext) = true := hc
  have hi : stallIdle (advance t s) (advance t s).loft.scrubNext = true := stallIdle_of_nothing_pending hc hw hp
  have hturn := scrubTurn_closed (s := advance t s) (done := (advance t s).loft.scrubDone) (quota := loftQuota) hn
  change execLoftScrubRead t [] s = _
  rw [execLoftScrubRead, event_runs hl]
  simp only [ht', ha', hr', hc', hi, hturn, List.any_nil, Bool.not_true, Bool.or_self, Bool.false_eq_true, if_false,
    damageRow_nil, decide_eq_true_eq]
  rfl

section
variable {gateway : Fin 4} {k : Nat} {p : Flight} (hp : firstAt s (.endpoint (gatewayRouter gateway) 7)
  (fun p => p.isRequest && decide (p.mode = 1)) = some (k, p))
include hp

/-- The gate service of a gateway takes its oldest request into service at the rows of its gate (R248). -/
theorem execGateRequest_serves (hr : gateRefusal (advance t s) (tget s.loft.gates p.pkt.gate) p.pkt = none) :
    exec (.gateRequest t gateway) s = .next (serveRows k p (gatewayRouter gateway) 7 .gate
      (((tget s.loft.gates p.pkt.gate).map (·.first)).getD 0 + p.pkt.rowOffset) (advance t s)) := by
  change execGateRequest t gateway s = _
  rw [execGateRequest, event_runs hl]
  simp only [firstAt_advance, hp, advance_loft, hr]

/-- A request that its gate refuses is counted, posted and answered with a NACK that tells why (R248). -/
theorem execGateRequest_refuses {why : Nat}
    (hr : gateRefusal (advance t s) (tget s.loft.gates p.pkt.gate) p.pkt = some why) :
    exec (.gateRequest t gateway) s = .next (
      let told := postTo ((tget s.loft.gates p.pkt.gate).map (·.tenant)) clsMemory 7
        (detail [(0, p.pkt.gate), (8, why), (12, chipOf p.pkt.src)])
        ((advance t s).modLoft fun l => { l with counts := { l.counts with gateRefusals := l.counts.gateRefusals + 1 } })
      nackFor (gatewayRouter gateway) 7 (why + 1) told.chip p.pkt.gate p.pkt (removePacket k told)) := by
  change execGateRequest t gateway s = _
  rw [execGateRequest, event_runs hl]
  simp only [firstAt_advance, hp, advance_loft, hr]

end

end

/-- Settles O37, row by row; each clause is one branch of what its row does. -/
theorem loftRowsTakeEffect : Obligations.LoftRowsTakeEffect := by
  unfold Obligations.LoftRowsTakeEffect
  intro t stall flips ok row found f g spare gateway k p s hl
  dsimp only
  refine ⟨execLoftRowAccess_idle hl, fun a hg => ?_, fun hf hm => ⟨execRefillEnd_drops hl hf hm, fun hr => ?_⟩,
    fun hf hm => ⟨execMapOutEnd_drops hl hf hm, fun hr => ?_⟩, execLoftScrubRead_idle hl,
    fun hp => ⟨execGateRequest_serves hl hp, fun why hr => execGateRequest_refuses hl hp hr⟩⟩
  · rw [execLoftRowAccess_grants hl hg]
    exact ⟨fun hc => by rw [if_pos hc], fun hc => by rw [if_neg (Bool.eq_false_iff.1 hc)]⟩
  · simp only [execRefillEnd_refills hl hf hm hr, Bool.false_eq_true, if_true, if_false]
    exact ⟨fun hq => by rw [if_pos hq], fun hq => by rw [if_neg (Bool.eq_false_iff.1 hq)],
      fun hq => by rw [if_neg (Bool.eq_false_iff.1 hq)]⟩
  · exact ⟨execMapOutEnd_maps hl hf hm hr, execMapOutEnd_maps hl hf hm hr⟩

end Sys2Proof.Machine

/-! ## Commands of the cameras -/

namespace Sys2Proof.Machine

section
variable (seq : Nat) (t : Instant) (s : State)
@[simp] theorem accepted_ctxs : (accepted seq t s).ctxs = s.ctxs := rfl
@[simp] theorem accepted_ctx (k : Nat) : (accepted seq t s).ctx k = s.ctx k := rfl
end

/-- Reading a buffer does not change what the checks of a context image find. -/
@[simp] theorem contextChecks_readBuffer (f : Nat) (e : Entry) (s : State) (tenant : Nat) (b : Option Binding)
    (img : List Byte) :
    contextChecks (readBuffer f e s) tenant b img = contextChecks s tenant b img := by
  unfold contextChecks readBuffer emitRead
  simp only [foreseen_out]
  rfl

/-- A command that reads its host buffer takes its effect where the checks of its entry do not see the read and all checks
pass. -/
theorem bufCommand_runs_of_eq {op : Nat} {t : Instant} {r : RingRef} {e : Entry} {seq : Nat} {c : Cmd} {s : State}
    {cs bs : State → List (Bool × Status)} {body : Nat → State → State} (h : Accepts op t r e seq c s)
    (hr : s.mayRequest r.fn = true) (heq : cs (readBuffer r.fn e (accepted seq t s)) = cs (accepted seq t s))
    (hc : ∀ x ∈ cs (accepted seq t s), x.1 = false)
    (hb : ∀ x ∈ bs (readBuffer r.fn e (accepted seq t s)), x.1 = false) :
    bufCommand op t r e cs bs body s = .next (settle (body seq (readBuffer r.fn e (accepted seq t s)))) :=
  bufCommand_runs h hr hc (List.forall_mem_append.2 ⟨heq ▸ hc, hb⟩)

section
variable {t : Instant} {r : RingRef} {e : Entry} {seq : Nat} {c : Cmd} {s : State}

/-- A port that no binding names, in force or pending, takes its configuration (R266). -/
theorem execPortConfig_runs (h : Accepts 0x0601 t r e seq c s) (hz : unusedZero e [(16, 3), (20, 4)] = true)
    (hp : efld e 16 1 ≤ 7) (hphy : efld e 17 1 ≤ 1) (hw : efld e 18 1 ∈ (if efld e 17 1 = 0 then [1, 2, 4] else [1, 2, 3]))
    (hr : 80 ≤ efld e 20 4) (hr' : efld e 20 4 ≤ 4500)
    (hfree : ∀ x ∈ s.ctxs, ∀ y, x.bindingSoon = some y → y.port ≠ efld e 16 1) :
    exec (.portConfig t r e) s = .next (settle (done seq ((accepted seq t s).modPort (efld e 16 1) fun x =>
      { x with enabled := true, cphy := decide (efld e 17 1 = 1), width := efld e 18 1, rate := efld e 20 4,
               quietUntil := some ((accepted seq t s).now + 10000) }))) := by
  have hw : (if efld e 17 1 = 0 then [1, 2, 4] else [1, 2, 3]).contains (efld e 18 1) = true := List.contains_iff_mem.2 hw
  refine command_runs h ?_
  simpa [-List.contains_eq_mem, hz, hp, hphy, hw, hr, hr', Option.any_eq_false] using hfree

/-- An unbinding is recorded for the frame boundary of its context (R272). -/
theorem execLaneBind_unbinds (h : Accepts 0x0602 t r e seq c s) (hp : efld e 16 1 ≤ 3) (hl : efld e 17 1 ≤ 7)
    (hc : efld e 18 1 ≤ 3) (hu : efld e 22 1 = 1) (hz : unusedZero e [(16, 3), (22, 1)] = true) :
    exec (.laneBind t r e) s = .next (settle (deferredOk seq
      ((accepted seq t s).modCtx (4 * efld e 17 1 + efld e 18 1) fun x => { x with pending := x.pending ++ [.unbind] }))) := by
  change execLaneBind t r e s = _
  rw [execLaneBind, command_runs h] <;> simp [badTenant, hz, hp, hl, hc, hu]

/-- A binding of a stream that no other context has, now or once pending effects have taken place, is recorded for the frame
boundary of its context (R271, R272). -/
theorem execLaneBind_binds {b : Binding}
    (hb : b = { tenant := efld e 16 1, port := efld e 19 1, vc := efld e 20 1, dtype := efld e 21 1 })
    (h : Accepts 0x0602 t r e seq c s) (hp : efld e 16 1 ≤ 3) (hl : efld e 17 1 ≤ 7) (hc : efld e 18 1 ≤ 3)
    (hu : efld e 22 1 = 0) (hz : unusedZero e [(16, 7)] = true) (hport : b.port ≤ 7) (hvc : b.vc ≤ 15)
    (hd : dtBindable b.dtype = true)
    (hfree : ∀ j < 32, j ≠ 4 * efld e 17 1 + efld e 18 1 → ∀ y, (s.ctx j).bindingSoon = some y →
      ¬(y.port = b.port ∧ y.vc = b.vc ∧ y.dtype = b.dtype)) :
    exec (.laneBind t r e) s = .next (settle (deferredOk seq
      ((accepted seq t s).modCtx (4 * efld e 17 1 + efld e 18 1) fun x => { x with pending := x.pending ++ [.bind b] }))) := by
  subst hb
  dsimp only at hport hvc hd
  change execLaneBind t r e s = _
  rw [execLaneBind, command_runs h]
  · simp only [hu, Nat.zero_ne_one, decide_false, Bool.false_eq_true, if_false]
  · simpa [badTenant, hz, hp, hl, hc, hu, hport, hvc, hd, Option.any_eq_false] using hfree

/-- A sound image for the binding that its context will have is read and recorded (R142, R275). -/
theorem execLaneContextSet_runs {d : List Byte} (h : Accepts 0x0603 t r e seq c s) (hr : s.mayRequest r.fn = true)
    (hz : unusedZero e [(16, 3), (24, 12)] = true) (hp : efld e 16 1 ≤ 3) (hl : efld e 17 1 ≤ 7) (hc : efld e 18 1 ≤ 3)
    (hn : efld e 32 4 = 8704) (ha : efld e 24 8 % 64 = 0)
    (hb : ((s.ctx (4 * efld e 17 1 + efld e 18 1)).bindingSoon.any fun y => decide (y.tenant = efld e 16 1)) = true)
    (hok : ∀ x ∈ contextChecks (accepted seq t s) (efld e 16 1) (s.ctx (4 * efld e 17 1 + efld e 18 1)).bindingSoon
      (fit 8704 d), x.1 = false) :
    exec (.laneContextSet t r e (some d)) s = .next (settle (deferredOk seq
      ((readBuffer r.fn e (accepted seq t s)).modCtx (4 * efld e 17 1 + efld e 18 1) fun x =>
        { x with pending := x.pending ++ [.params (fit 8704 d)] }))) := by
  refine bufCommand_runs_of_eq h hr rfl ?_ ?_
  · simp [bufChecks, badTenant, hz, hp, hl, hc, hn, ha, hb]
  · intro x
    rw [contextChecks_readBuffer]
    exact hok x

/-- A sound transfer that starts within OPEN is read and recorded for the next opening (R142, R306). -/
theorem execSensorXfer_runs {d : List Byte} (h : Accepts 0x0605 t r e seq c s) (hr : s.mayRequest r.fn = true)
    (hz : unusedZero e [(16, 8), (24, 12)] = true) (hp : efld e 16 1 ≤ 3) (hk : efld e 17 1 ≤ 7) (hm : efld e 18 1 ≤ 2)
    (haddr : efld e 19 1 ≤ 127) (ho : efld e 20 4 < openUs s.tick.source s.tick.prm)
    (ho' : efld e 20 4 < openUs (srcSoon (accepted seq t s)) (prmSoon (accepted seq t s))) (hs : s.tick.state = .running)
    (hx : xfersHeld (accepted seq t s) (efld e 17 1) < 16) (ha : efld e 24 8 % 64 = 0) (hn : efld e 32 4 ≠ 0)
    (hn' : efld e 32 4 ≤ 4096) (hok : xferOk (fit (efld e 32 4) d) 1025 0 = true) :
    exec (.sensorXfer t r e (some d)) s = .next (settle (deferredOk seq (defer (.xfer (efld e 17 1)
      { tenant := efld e 16 1, fn := r.fn, cmdId := BitVec.ofNat 16 (efld e 4 2), mode := efld e 18 1, addr := efld e 19 1,
        offset := efld e 20 4, bufAddr := bufAddr e, buf := fit (efld e 32 4) d, effect := none, startAt := none })
      (readBuffer r.fn e (accepted seq t s))))) := by
  have ho : efld e 20 4 < openUs (accepted seq t s).tick.source (accepted seq t s).tick.prm := ho
  have hs : (accepted seq t s).tick.state = .running := hs
  refine bufCommand_runs_of_eq h hr rfl ?_ ?_
  · simp [-accepted_tick, bufChecks, badTenant, hz, hp, hk, hm, haddr, ho, ho', hs, hx, ha, hn, hn']
  · simp [hok]

/-- An FSYNC output that is enabled with a pulse inside OPEN is recorded for the next opening (R304). -/
theorem execFsyncSet_enables (h : Accepts 0x0604 t r e seq c s) (hk : efld e 16 1 ≤ 7) (hon : efld e 17 1 = 1)
    (hz : unusedZero e [(16, 2), (20, 10)] = true) (hw : 1 ≤ efld e 24 4) (hw' : efld e 24 4 ≤ 10000) (hd : efld e 28 2 ≠ 0)
    (ho : efld e 20 4 + efld e 24 4 ≤ openUs s.tick.source s.tick.prm)
    (ho' : efld e 20 4 + efld e 24 4 ≤ openUs (srcSoon (accepted seq t s)) (prmSoon (accepted seq t s))) :
    exec (.fsyncSet t r e) s = .next (settle (deferredOk seq (defer
      (.fsync (efld e 16 1) true (efld e 20 4) (efld e 24 4) (efld e 28 2)) (accepted seq t s)))) := by
  have hw0 : efld e 24 4 ≠ 0 := Nat.one_le_iff_ne_zero.1 hw
  have ho : efld e 20 4 + efld e 24 4 ≤ openUs (accepted seq t s).tick.source (accepted seq t s).tick.prm := ho
  change execFsyncSet t r e s = _
  rw [execFsyncSet, command_runs h] <;> simp [-accepted_tick, hz, hk, hon, hw0, hw', hd, ho, ho']

/-- An FSYNC output that is disabled is recorded for the next opening (R304). -/
theorem execFsyncSet_disables (h : Accepts 0x0604 t r e seq c s) (hk : efld e 16 1 ≤ 7) (hoff : efld e 17 1 = 0)
    (hz : unusedZero e [(16, 2)] = true) :
    exec (.fsyncSet t r e) s = .next (settle (deferredOk seq (defer
      (.fsync (efld e 16 1) false (efld e 20 4) (efld e 24 4) (efld e 28 2)) (accepted seq t s)))) := by
  change execFsyncSet t r e s = _
  rw [execFsyncSet, command_runs h] <;> simp [hz, hk, hoff]

end

/-- Settles O16, command by command. -/
theorem cameraCommandsTakeEffect : Obligations.CameraCommandsTakeEffect := by
  unfold Obligations.CameraCommandsTakeEffect
  intro t r e d seq c s
  dsimp only
  exact ⟨execPortConfig_runs,
    fun h hp hl hc => ⟨execLaneBind_unbinds h hp hl hc, execLaneBind_binds rfl h hp hl hc⟩,
    execLaneContextSet_runs, execSensorXfer_runs⟩

/-- Settles O17, with ENABLE set and with it clear. -/
theorem fsyncSetTakesEffect : Obligations.FsyncSetTakesEffect := by
  unfold Obligations.FsyncSetTakesEffect
  intro t r e seq c s
  dsimp only
  exact fun h hk => ⟨execFsyncSet_enables h hk, execFsyncSet_disables h hk⟩

end Sys2Proof.Machine

/-! ## Camera packets -/

namespace Sys2Proof.Machine

/-- The packets a port can hear, each with the same header (R268). -/
def csiPackets (t : Instant) (port : Fin 8) (vc : Fin 32) (number : BitVec 16) (dt : BitVec 6) (data : List Byte) (crcOk : Bool)
    (hdr : HeaderCheck) : List Instr :=
  [.csiFrameStart t port vc number hdr, .csiLongPacket t port vc dt data hdr crcOk, .csiEmbeddedData t port vc data hdr crcOk,
   .csiShortPacket t port vc dt hdr, .csiFrameEnd t port vc hdr]

/-- A header that is sound or corrected leaves what comes before the packet's effect: a correction is counted (R270). -/
def HeaderPasses (port : Nat) (hdr : HeaderCheck) (s u : State) : Prop :=
  (hdr = .sound ∧ u = s) ∨
    (hdr = .corrected ∧ u = portError port (fun c => { c with hdrCorrected := c.hdrCorrected + 1 }) s)

section
variable {port vc : Nat} {k : State → State} {s : State}

/-- A port that does not listen hears nothing (R266). -/
theorem withHeader_deaf {hdr : HeaderCheck} (hq : ¬(s.port port).listens s.now = true) : withHeader port vc hdr k s = s := by
  simp [withHeader, hq]

section
variable (hq : (s.port port).listens s.now = true)
include hq

/-- A header out of synchronisation is counted (Table 7.9). -/
theorem withHeader_unsynchronised : withHeader port vc .unsynchronised k s =
    portError port (fun c => { c with phySync := c.phySync + 1 }) s := by
  simp [withHeader, hq]

/-- A header beyond correction is counted, and damages the frames of its port (R270). -/
theorem withHeader_uncorrectable : withHeader port vc .uncorrectable k s =
    damagePort port (portError port (fun c => { c with hdrBad := c.hdrBad + 1 }) s) := by
  simp [withHeader, hq]

/-- A header that passes lets its packet have its effect on a virtual channel up to 15, and is counted past it (R269). -/
theorem withHeader_passes {hdr : HeaderCheck} {u : State} (hu : HeaderPasses port hdr s u) : withHeader port vc hdr k s =
    if 15 < vc then portError port (fun c => { c with unmatched := c.unmatched + 1 }) u else k u := by
  rcases hu with ⟨rfl, rfl⟩ | ⟨rfl, rfl⟩ <;> simp [withHeader, withHeader.onVc, hq]

end
end

section
variable {t : Instant} {port : Fin 8} {vc : Fin 32} {number : BitVec 16} {dt : BitVec 6} {data : List Byte} {crcOk : Bool}
  {hdr : HeaderCheck} {s : State} (hl : s.alive = true)
include hl

/-- Every packet has its header checked first, so what becomes of a header whatever its packet becomes of every packet
(R269, R270). -/
theorem exec_csiPackets_of {v : State} (hv : ∀ k, withHeader port vc hdr k (advance t s) = v) :
    ∀ i ∈ csiPackets t port vc number dt data crcOk hdr, exec i s = .next v := by
  have hrow : ∀ k, event t (withHeader port vc hdr k) s = .next v := fun k => (event_runs hl).trans (congrArg _ (hv k))
  simp only [csiPackets, List.mem_cons, List.not_mem_nil, or_false]
  rintro i (rfl | rfl | rfl | rfl | rfl) <;> exact hrow _

section
variable (hq : (s.port port).listens (advance t s).now = true) {u : State} (hu : HeaderPasses port hdr (advance t s) u)
include hq hu

/-- A packet that is heard, on a virtual channel up to 15, has its effect after its header. -/
theorem event_withHeader_passes {k : State → State} (hv : vc.val ≤ 15) :
    event t (withHeader port vc hdr k) s = .next (k u) := by
  rw [event_runs hl, withHeader_passes (s := advance t s) hq hu, if_neg (Nat.not_lt.2 hv)]

end
end

/-- Settles O35: what becomes of the header first, then packet by packet. -/
theorem cameraPacketsTakeEffect : Obligations.CameraPacketsTakeEffect := by
  unfold Obligations.CameraPacketsTakeEffect
  intro t port vc number dt data crcOk hdr u s hl
  dsimp only
  refine ⟨fun hq => exec_csiPackets_of hl fun _ => withHeader_deaf (s := advance t s) hq,
    fun hq => ⟨exec_csiPackets_of hl fun _ => withHeader_unsynchronised (s := advance t s) hq,
      exec_csiPackets_of hl fun _ => withHeader_uncorrectable (s := advance t s) hq⟩,
    fun hq hu => ⟨fun hv => exec_csiPackets_of hl fun _ =>
      (withHeader_passes (s := advance t s) hq hu).trans (if_pos hv), fun hv => ⟨?_, ?_, ?_, ?_, ?_⟩⟩⟩
  · exact event_withHeader_passes hl hq hu hv
  · refine (event_withHeader_passes hl hq hu hv).trans (congrArg _ ?_)
    cases dtAccepted dt.toNat
    · rfl
    · rfl
  · exact event_withHeader_passes hl hq hu hv
  · exact event_withHeader_passes hl hq hu hv
  · exact event_withHeader_passes hl hq hu hv

end Sys2Proof.Machine

/-! ## Frame records, bounds of lane inputs, quiet ports, FSYNC and sensor transfers -/

namespace Sys2Proof.Machine

section
variable (t : Instant) (s : State)
@[simp] theorem advance_ctx (k : Nat) : (advance t s).ctx k = s.ctx k := rfl
@[simp] theorem advance_i2cCtl (k : Nat) : (advance t s).i2cCtl k = s.i2cCtl k := rfl
@[simp] theorem rowsOut_advance (k : Nat) : rowsOut (advance t s) k = rowsOut s k := rfl
end

/-- A controller that exists, after a change of it. -/
theorem State.modI2c_i2cCtl {s : State} {k : Nat} (f : I2c → I2c) (hk : k < s.i2c.length) :
    (s.modI2c k f).i2cCtl k = f (s.i2cCtl k) := by
  simp [State.modI2c, State.i2cCtl, lmod, hk]

/-- Two changes of one controller. -/
theorem State.modI2c_modI2c (s : State) (k : Nat) (f g : I2c → I2c) :
    (s.modI2c k f).modI2c k g = s.modI2c k fun c => g (f c) := by
  simp only [State.modI2c, lmod, modify_modify]

/-- A port that exists, after a change of it. -/
theorem State.modPort_port {s : State} {k : Nat} (f : CamPort → CamPort) (hk : k < s.ports.length) :
    (s.modPort k f).port k = f (s.port k) := by
  simp [State.modPort, State.port, lmod, hk]

/-- The device has a controller for every number. -/
theorem i2c_lt {s : State} (h : s.shape) (k : Fin 8) : k.val < s.i2c.length := by
  obtain ⟨-, -, -, -, -, -, hi, -⟩ := h
  exact k.isLt.trans_eq hi.symm

/-- What a transfer has read once the record at `o` has been carried out: a READ record adds its bytes (R307). -/
def readsWith (x : Transfer) (o : Nat) (d : List Byte) (reads : List XferRead) : List XferRead :=
  if fld x.buf o 1 = 2 then
    reads ++ [{ record := o, place := o + 4 + fld x.buf (o + 1) 1, data := fit (fld x.buf (o + 2) 2) d }]
  else reads

/-- A failed transfer names the record carried out last (R308). -/
theorem xferFail_last {k cause o : Nat} {x : Transfer} {reads : List XferRead} {s : State}
    (h : (s.i2cCtl k).current = some (x, o, reads)) : xferFail k cause none s =
      postTenant x.tenant clsCamera 5 (detail [(0, k), (16, x.cmdId.toNat), (32, cause), (40, o)]) (xferEnd k false s) := by
  simp only [xferFail, h, Option.elim_none]

/-- What a transfer was doing when it ended leaves no trace in its controller. -/
theorem xferEnd_modI2c (k : Nat) (ok : Bool) (s : State) (y : Option (Transfer × Nat × List XferRead)) :
    xferEnd k ok (s.modI2c k fun c => { c with current := y }) = xferEnd k ok s :=
  State.modI2c_modI2c ..

/-- A failed write-back names the READ record whose bytes it held (R308; assumption log 43). -/
theorem xferFail_writeBack {k cause o which : Nat} {x : Transfer} {reads : List XferRead} {b : XferRead} {s : State}
    (hk : k < s.i2c.length) (hb : reads[which]? = some b) :
    xferFail k cause (some which) (s.modI2c k fun c => { c with current := some (x, o, reads) }) =
      postTenant x.tenant clsCamera 5 (detail [(0, k), (16, x.cmdId.toNat), (32, cause), (40, b.record)])
        (xferEnd k false s) := by
  simp only [xferFail, State.modI2c_i2cCtl _ hk, hb, Option.elim_some, Option.map_some, Option.getD_some, xferEnd_modI2c]

section
variable {t : Instant} {s : State} (hl : s.alive = true)
include hl

/-- The record of an ended frame is written before t_g once all of the frame has been (R278, R295). -/
theorem execFrameRecordWrite_writes {lane : Fin 8} {context : Fin 4} {f : Frame} {w : Window}
    (hf : (s.ctx (4 * lane.val + context.val)).frame = some f) (hw : s.tick.window = some w) (he : f.ended.isSome = true)
    (hd : f.drained (advance t s).now = true) (hr : rowsOut s (4 * lane.val + context.val) = [])
    (hg : (advance t s).now < w.tg) :
    exec (.frameRecordWrite t lane context) s = .next (writeRecord (4 * lane.val + context.val) (advance t s)) := by
  change execFrameRecordWrite t lane context s = _
  rw [execFrameRecordWrite, event_runs hl]
  simp only [advance_ctx, advance_tick, rowsOut_advance, hf, hw, he, hd, hr, hg, and_self, if_true]

section
variable {g : GraphRef} {n c : Nat} {inst : Inst} {since : Instant} (hi : s.inst (refKey g) = some inst)
  (hp : (inst.run n).phase = .running since) (hk : (s.node (refKey g) n).kind = .laneInput)
  (hb : since + nodeBound (advance t s) (s.node (refKey g) n) ≤ (advance t s).now)
  (hc : c = 4 * bf (inst.run n).body 64 1 + bf (inst.run n).body 65 1)
include hi hp hk hb hc

/-- A LANE_INPUT node whose bound runs out ends LATE where the frame has started, and the frame is cut (R298). -/
theorem execLaneInputTimeout_late (ho : (s.ctx c).opened = true) : exec (.laneInputTimeout t g n) s =
    .next (endLaneInput (refKey g) n .late (cutFrame c 1 (advance t s))) := by
  subst hc
  change execLaneInputTimeout t g n s = _
  rw [execLaneInputTimeout, event_runs hl]
  simp only [advance_inst, advance_node, advance_ctx, hi, hp, hk, hb, ho, and_self, if_true]

/-- It ends ABSENT where the frame has not started, which its lane counts (R298). -/
theorem execLaneInputTimeout_absent (ho : (s.ctx c).opened = false) : exec (.laneInputTimeout t g n) s =
    .next (endLaneInput (refKey g) n .absent ((advance t s).modLane (c / 4) fun l => { l with absent := l.absent + 1 })) := by
  subst hc
  change execLaneInputTimeout t g n s = _
  rw [execLaneInputTimeout, event_runs hl]
  simp only [advance_inst, advance_node, advance_ctx, hi, hp, hk, hb, ho, Bool.false_eq_true, and_self, if_true, if_false]

end

/-- A port listens once its quiet time is over, and no other part of the device changes (R266). -/
theorem execPortQuietEnd_listens {port : Fin 8} {q : Instant} (hq : (s.port port).quietUntil = some q)
    (hle : q ≤ (advance t s).now) :
    ∃ u, exec (.portQuietEnd t port) s = .next u ∧ { u with ports := s.ports } = advance t s ∧
      (port.val < s.ports.length → u.port port = { s.port port with quietUntil := none }) := by
  change ∃ u, execPortQuietEnd t port s = .next u ∧ _
  rw [execPortQuietEnd, event_runs hl]
  refine ⟨_, rfl, rfl, fun hp => ?_⟩
  rw [State.modPort_port _ (by exact hp), if_pos]
  · rfl
  · change ((s.port port).quietUntil.all fun q => decide (q ≤ (advance t s).now)) = true
    rw [hq]
    exact decide_eq_true hle

/-- A transfer whose instant has come starts at its first record (R306, R307). -/
theorem execSensorXferStart_starts {i2c : Fin 8} {x : Transfer} {l : List Transfer} {q : Instant}
    (hx : (s.i2cCtl i2c).queue = x :: l) (hc : (s.i2cCtl i2c).current = none) (hs : x.startAt = some q)
    (hq : q ≤ (advance t s).now) : exec (.sensorXferStart t i2c) s =
      .next (xferNext i2c x 0 [] ((advance t s).modI2c i2c fun c => { c with queue := l })) := by
  change execSensorXferStart t i2c s = _
  rw [execSensorXferStart, event_runs hl]
  simp only [advance_i2cCtl, hx, hc, hs, Option.any_some, hq, decide_true, if_true]

section
variable {i2c : Fin 8} {x : Transfer} {o : Instant} {reads : List XferRead}
  (hc : (s.i2cCtl i2c).current = some (x, o, reads))
include hc

/-- A record that has been carried out is followed by the next (R307). -/
theorem execI2cTransactionEnd_done {d : List Byte} : exec (.i2cTransactionEnd t i2c (.done d)) s =
    .next (xferNext i2c x (o + xferLen x.buf o) (readsWith x o d reads) (advance t s)) := by
  change execI2cTransactionEnd t i2c (.done d) s = _
  rw [execI2cTransactionEnd, event_runs hl]
  simp only [advance_i2cCtl, hc, readsWith]

/-- A record that fails on the bus ends its transfer with the cause (R308). -/
theorem execI2cTransactionEnd_fails {result : I2cResult} {cause : Nat}
    (hr : (result, cause) ∈ [(I2cResult.addressNak, 0), (.dataNak, 1), (.busStuck, 3)]) :
    exec (.i2cTransactionEnd t i2c result) s = .next (postTenant x.tenant clsCamera 5
      (detail [(0, i2c.val), (16, x.cmdId.toNat), (32, cause), (40, o)]) (xferEnd i2c false (advance t s))) := by
  have hlast := xferFail_last (cause := cause) (s := advance t s) hc
  change execI2cTransactionEnd t i2c result s = _
  rw [execI2cTransactionEnd, event_runs hl, ← hlast]
  simp only [List.mem_cons, Prod.mk.injEq, List.not_mem_nil, or_false] at hr
  rcases hr with ⟨rfl, rfl⟩ | ⟨rfl, rfl⟩ | ⟨rfl, rfl⟩ <;> simp only [advance_i2cCtl, hc]

/-- A write-back fails after the last record, and names the READ record whose bytes could not be written (R308; assumption
log 43). -/
theorem execI2cTransactionEnd_writeBackFailed {d : List Byte} {which : Nat} {b : XferRead} (hk : i2c.val < s.i2c.length)
    (hend : fld x.buf (o + xferLen x.buf o) 1 = 0) (hb : (readsWith x o d reads)[which]? = some b) :
    exec (.i2cTransactionEnd t i2c (.writeBackFailed d which)) s = .next (postTenant x.tenant clsCamera 5
      (detail [(0, i2c.val), (16, x.cmdId.toNat), (32, 4), (40, b.record)]) (xferEnd i2c false (advance t s))) := by
  obtain ⟨hlt, -⟩ := List.getElem?_eq_some_iff.1 hb
  have hne : readsWith x o d reads ≠ [] := List.ne_nil_of_length_pos (Nat.zero_lt_of_lt hlt)
  have hmin : min which ((readsWith x o d reads).length - 1) = which := Nat.min_eq_left (Nat.le_sub_one_of_lt hlt)
  have hfail := xferFail_writeBack (cause := 4) (o := o) (x := x) (s := advance t s) hk hb
  change execI2cTransactionEnd t i2c (.writeBackFailed d which) s = _
  rw [execI2cTransactionEnd, event_runs hl, ← hfail]
  unfold readsWith at hne hmin ⊢
  simp only [advance_i2cCtl, hc, hend, hne, hmin, ne_eq, not_false_eq_true, and_self, if_true]

/-- A bus that is stretched for too long ends the transfer (R308). -/
theorem execI2cStretchTimeout_fails : exec (.i2cStretchTimeout t i2c) s = .next (postTenant x.tenant clsCamera 5
    (detail [(0, i2c.val), (16, x.cmdId.toNat), (32, 2), (40, o)]) (xferEnd i2c false (advance t s))) := by
  change execI2cStretchTimeout t i2c s = _
  rw [execI2cStretchTimeout, event_runs hl, xferFail_last (s := advance t s) hc]

end
end

/-- Settles O36, row by row. -/
theorem cameraTimersTakeEffect : Obligations.CameraTimersTakeEffect := by
  unfold Obligations.CameraTimersTakeEffect
  intro t lane context g n port out i2c f w inst since o q x l reads which d s hl
  dsimp only
  exact ⟨execFrameRecordWrite_writes hl,
    fun hi hp hk hb => ⟨execLaneInputTimeout_late hl hi hp hk hb rfl, execLaneInputTimeout_absent hl hi hp hk hb rfl⟩,
    execPortQuietEnd_listens hl, event_runs hl, execSensorXferStart_starts hl,
    fun hc => ⟨execI2cTransactionEnd_done hl hc, execI2cTransactionEnd_fails hl hc (by simp),
      execI2cTransactionEnd_fails hl hc (by simp), execI2cTransactionEnd_fails hl hc (by simp),
      fun hs hend b hb => execI2cTransactionEnd_writeBackFailed hl hc (i2c_lt hs i2c) hend hb,
      execI2cStretchTimeout_fails hl hc⟩⟩

end Sys2Proof.Machine

/-! ## What every step keeps -/

namespace Sys2Proof.Machine

/-- The instant that device time, from `a` on, is not before after a command: the resets of the whole device start it again
(R22). -/
def timeFloor (a : Instant) : Instr → Instant
  | .powerGoodChange .. | .perstNAssert .. | .perstNRelease .. | .warmReset .. => 0
  | _ => a

/-- Every command keeps a good state good, by what its meaning keeps. -/
theorem exec_good {p : Part} {a : Instant} {w : List Instr} {c : Instr} {s : State} (h : Good p a w contractsApart s) :
    ∀ u, exec c s = .next u → Good p (timeFloor a c) w contractsApart u := by
  intro u hu
  cases c with
  | identify => exact execIdentify_good h u hu
  | ringCreate => exact execRingCreate_good h u hu
  | ringReset => exact execRingReset_good h u hu
  | ringDelete => exact execRingDelete_good h u hu
  | arbSet => exact execArbSet_good h u hu
  | fwUpdate => exact execFwUpdate_good h u hu
  | fwRestart => exact execFwRestart_good h u hu
  | powerStateSet => exact execPowerStateSet_good h u hu
  | deviceReset => exact execDeviceReset_good h u hu
  | partitionSet => exact execPartitionSet_good h u hu
  | partitionGet => exact execPartitionGet_good h u hu
  | partitionReset => exact execPartitionReset_good h u hu
  | tickConfig => exact execTickConfig_good h u hu
  | tickStart => exact execTickStart_good h u hu
  | pause => exact execPause_good h u hu
  | resume => exact execResume_good h u hu
  | halt => exact execHalt_good h u hu
  | tickStatus => exact execTickStatus_good h u hu
  | memWrite => exact execMemWrite_good h u hu
  | memRead => exact execMemRead_good h u hu
  | residentDefine => exact execResidentDefine_good h u hu
  | residentLoad => exact execResidentLoad_good h u hu
  | residentDelete => exact execResidentDelete_good h u hu
  | gateOpen => exact execGateOpen_good h u hu
  | gateClose => exact execGateClose_good h u hu
  | eccRegionSet => exact execEccRegionSet_good h u hu
  | graphLoad => exact execGraphLoad_good h u hu
  | graphUnload => exact execGraphUnload_good h u hu
  | graphArm => exact execGraphArm_good h u hu
  | graphDisarm => exact execGraphDisarm_good h u hu
  | graphParamSet => exact execGraphParamSet_good h u hu
  | graphStatus => exact execGraphStatus_good h u hu
  | frameAbort => exact execFrameAbort_good h u hu
  | portConfig => exact execPortConfig_good h u hu
  | laneBind => exact execLaneBind_good h u hu
  | laneContextSet => exact execLaneContextSet_good h u hu
  | fsyncSet => exact execFsyncSet_good h u hu
  | sensorXfer => exact execSensorXfer_good h u hu
  | halterConfig => exact execHalterConfig_good h u hu
  | halterEnable => exact execHalterEnable_good h u hu
  | routeLoad => exact execRouteLoad_good h u hu
  | epochSwitch => exact execEpochSwitch_good h u hu
  | plinkControl => exact execPlinkControl_good h u hu
  | tetherSignal => exact execTetherSignal_good h u hu
  | tetherRead => exact execTetherRead_good h u hu
  | resultRingCreate => exact execResultRingCreate_good h u hu
  | resultRingDelete => exact execResultRingDelete_good h u hu
  | tallyConfig => exact execTallyConfig_good h u hu
  | tallyControl => exact execTallyControl_good h u hu
  | telemetryRead => exact execTelemetryRead_good h u hu
  | debugPeek => exact execDebugPeek_good h u hu
  | debugPoke => exact execDebugPoke_good h u hu
  | sqTailDoorbell => exact execSqTailDoorbell_good h u hu
  | cqHeadDoorbell => exact execCqHeadDoorbell_good h u hu
  | resultHeadDoorbell => exact execResultHeadDoorbell_good h u hu
  | deviceTimeLoRead => exact execDeviceTimeLoRead_good h u hu
  | adminEnable => exact execAdminEnable_good h u hu
  | adminDisable => exact execAdminDisable_good h u hu
  | intCauseClear => exact execIntCauseClear_good h u hu
  | alertStatusClear => exact execAlertStatusClear_good h u hu
  | registerWrite => exact execRegisterWrite_good h u hu
  | bar2Read => exact execBar2Read_good h u hu
  | bar2Write t fn offset data => exact execBar2Write_good (x2 := offset) (x3 := data) h u hu
  | msixUnmask => exact execMsixUnmask_good h u hu
  | functionLevelReset => exact execFunctionLevelReset_good h u hu
  | busMasterEnableClear => exact execBusMasterEnableClear_good h u hu
  | busMasterEnableSet => exact execBusMasterEnableSet_good h u hu
  | pcieLinkDown => exact execPcieLinkDown_good h u hu
  | fetchGrant => exact execFetchGrant_good h u hu
  | sqEntryFetched => exact execSqEntryFetched_good h u hu
  | cqModerationTimer => exact execCqModerationTimer_good h u hu
  | fwRestartBegin => exact execFwRestartBegin_good h u hu
  | fwRestartEnd => exact execFwRestartEnd_good h u hu
  | fwRestartTimeout => exact execFwRestartTimeout_good h u hu
  | acregaWatchdogExpiry => exact execAcregaWatchdogExpiry_good h u hu
  | controlMemoryError => exact execControlMemoryError_good h u hu
  | internalTick => exact execInternalTick_good h u hu
  | tickInEdge => exact execTickInEdge_good h u hu
  | tickInBandExpiry => exact execTickInBandExpiry_good h u hu
  | tickQualifyTimeout => exact execTickQualifyTimeout_good h u hu
  | plinkTickBlock t port stc depth holdover upset => exact execPlinkTickBlock_good (x4 := holdover) h u hu
  | followerTick => exact execFollowerTick_good h u hu
  | followerConfirmExpiry => exact execFollowerConfirmExpiry_good h u hu
  | drainStart => exact execDrainStart_good h u hu
  | guillotine => exact execGuillotine_good h u hu
  | fabricQuiesceEnd => exact execFabricQuiesceEnd_good h u hu
  | egressFlushEnd => exact execEgressFlushEnd_good h u hu
  | maintenanceSlot => exact execMaintenanceSlot_good h u hu
  | nodeDispatch => exact execNodeDispatch_good h u hu
  | nodeEnd => exact execNodeEnd_good h u hu
  | leaseEnd => exact execLeaseEnd_good h u hu
  | tetherWaitTimeout => exact execTetherWaitTimeout_good h u hu
  | neOverrun => exact execNeOverrun_good h u hu
  | replayResume => exact execReplayResume_good h u hu
  | droverCheck => exact execDroverCheck_good h u hu
  | csiFrameStart => exact execCsiFrameStart_good h u hu
  | csiLongPacket => exact execCsiLongPacket_good h u hu
  | csiEmbeddedData => exact execCsiEmbeddedData_good h u hu
  | csiShortPacket => exact execCsiShortPacket_good h u hu
  | csiFrameEnd => exact execCsiFrameEnd_good h u hu
  | frameRecordWrite => exact execFrameRecordWrite_good h u hu
  | laneInputTimeout => exact execLaneInputTimeout_good h u hu
  | portQuietEnd => exact execPortQuietEnd_good h u hu
  | fsyncEdge => exact execFsyncEdge_good h u hu
  | sensorXferStart => exact execSensorXferStart_good h u hu
  | i2cTransactionEnd => exact execI2cTransactionEnd_good h u hu
  | i2cStretchTimeout => exact execI2cStretchTimeout_good h u hu
  | loftRowAccess => exact execLoftRowAccess_good h u hu
  | refillEnd => exact execRefillEnd_good h u hu
  | mapOutEnd => exact execMapOutEnd_good h u hu
  | loftScrubRead => exact execLoftScrubRead_good h u hu
  | gateRequest => exact execGateRequest_good h u hu
  | dramSectorRead => exact execDramSectorRead_good h u hu
  | dramFullWrite => exact execDramFullWrite_good h u hu
  | dramPartialWrite => exact execDramPartialWrite_good h u hu
  | dramScrubRead => exact execDramScrubRead_good h u hu
  | dramRefresh => exact execDramRefresh_good h u hu
  | idleRetrainTimer => exact execIdleRetrainTimer_good h u hu
  | dramFullTrainingEnd => exact execDramFullTrainingEnd_good h u hu
  | fabricInject => exact execFabricInject_good h u hu
  | fabricForward => exact execFabricForward_good h u hu
  | fabricDeliver => exact execFabricDeliver_good h u hu
  | fabricResponse => exact execFabricResponse_good h u hu
  | requestExpiry => exact execRequestExpiry_good h u hu
  | tagHoldbackEnd => exact execTagHoldbackEnd_good h u hu
  | plinkTrainingEnd => exact execPlinkTrainingEnd_good h u hu
  | trainRetryTimer => exact execTrainRetryTimer_good h u hu
  | downHoldEnd => exact execDownHoldEnd_good h u hu
  | linkFrameReceived => exact execLinkFrameReceived_good h u hu
  | fecCodeword => exact execFecCodeword_good h u hu
  | linkCtlReceived => exact execLinkCtlReceived_good h u hu
  | partnerBlockReceived => exact execPartnerBlockReceived_good h u hu
  | recalBlockReceived => exact execRecalBlockReceived_good h u hu
  | replayTimer => exact execReplayTimer_good h u hu
  | ackTimer => exact execAckTimer_good h u hu
  | noAckTimeout => exact execNoAckTimeout_good h u hu
  | fecLockLost => exact execFecLockLost_good h u hu
  | idleRecalTimer => exact execIdleRecalTimer_good h u hu
  | abortReceived => exact execAbortReceived_good h u hu
  | fwMsgReceived => exact execFwMsgReceived_good h u hu
  | bootPush => exact execBootPush_good h u hu
  | halterTile => exact execHalterTile_good h u hu
  | halterAckQualified => exact execHalterAckQualified_good h u hu
  | halterDeadline => exact execHalterDeadline_good h u hu
  | halterGap => exact execHalterGap_good h u hu
  | halterTileGap => exact execHalterTileGap_good h u hu
  | halterPinMismatch => exact execHalterPinMismatch_good h u hu
  | egressPageGrant => exact execEgressPageGrant_good h u hu
  | egressDescriptor => exact execEgressDescriptor_good h u hu
  | resultModerationTimer => exact execResultModerationTimer_good h u hu
  | thermalSample => exact execThermalSample_good h u hu
  | thermalEvaluation => exact execThermalEvaluation_good h u hu
  | thermtrip => exact execThermtrip_good h u hu
  | tallyRingWrite => exact execTallyRingWrite_good h u hu
  | tallyOverflowResume => exact execTallyOverflowResume_good h u hu
  | powerGoodChange => exact execPowerGoodChange_good h u hu
  | perstNAssert => exact execPerstNAssert_good h u hu
  | perstNRelease => exact execPerstNRelease_good h u hu
  | warmReset => exact execWarmReset_good h u hu
  | loftSelfTestEnd => exact execLoftSelfTestEnd_good h u hu
  | dramTrainingEnd => exact execDramTrainingEnd_good h u hu
  | bootCandidateRead => exact execBootCandidateRead_good h u hu
  | pcieEndpointReady => exact execPcieEndpointReady_good h u hu
  | jtagInstruction => exact execJtagInstruction_good h u hu
  | dataMovementEnd => exact execDataMovementEnd_good h u hu
  | flashWriteEnd => exact execFlashWriteEnd_good h u hu
  | powerStateChangeEnd => exact execPowerStateChangeEnd_good h u hu
  | acregaReady => exact execAcregaReady_good h u hu
  | halterHeartbeatEdge => exact execHalterHeartbeatEdge_good h u hu

/-- A sound state is good from its own fuses, its own device time and its own queue on. -/
theorem State.Sound.good {s : State} (h : s.Sound) : Good s.part s.now s.pending contractsApart s where
  loftMem := h.memory.1
  dramMem := h.memory.2
  pins := h.pins
  apart := h.contracts
  time := Nat.le_refl _
  grade := rfl
  serial := rfl
  keyHash := rfl
  rollback := Nat.le_refl _
  shape := h.shape
  queue := rfl

/-- A good state is sound, wherever it began. -/
theorem Good.sound {p : Part} {a : Instant} {w : List Instr} {s : State} (h : Good p a w contractsApart s) : s.Sound where
  memory := ⟨h.loftMem, h.dramMem⟩
  shape := h.shape
  pins := h.pins
  contracts := h.apart

/-- Soundness does not depend on the queue. -/
theorem State.Sound.withPending {s : State} (h : s.Sound) (l : List Instr) : State.Sound { s with pending := l } :=
  ⟨h.memory, h.shape, h.pins, h.contracts⟩

/-- Settles O51, by the two cases of the queue: an empty one leaves the state as it is, and the command at the front of
another keeps the state good. -/
theorem everyStepKeepsSoundness : Obligations.EveryStepKeepsSoundness := by
  unfold Obligations.EveryStepKeepsSoundness
  intro s u hs hu
  cases hq : s.pending with
  | nil =>
    rw [step_of_pending_nil hq] at hu
    cases hu
    exact hs
  | cons c rest =>
    rw [step_of_pending_cons hq] at hu
    exact (exec_good (hs.withPending rest).good u hu).sound

end Sys2Proof.Machine

/-! ## Rows of the Halter units -/

namespace Sys2Proof.Machine

section
variable (t : Instant) (s : State)
@[simp] theorem advance_halter (u : Nat) : (advance t s).halter u = s.halter u := rfl
@[simp] theorem tapsHalter_advance (u : Nat) (n : NodeRef) : tapsHalter (advance t s) u n = tapsHalter s u n := rfl
end

/-- A packet is the tile of a row where its header names the pair and the place of the row (R371). -/
theorem isTile_iff {pair : Fin 4} {tx ty : Nat} {p : List Byte} :
    isTile pair tx ty p = true ↔ fld p 8 1 = pair.val ∧ fld p 0 2 = tx ∧ fld p 2 2 = ty := by
  simp only [isTile, Bool.and_eq_true, decide_eq_true_eq, and_assoc]

/-- A unit takes a packet of a node: it is enabled, the tenant is one it listens to, it watches the pair of the packet, and
no other node owns that pair (R405). -/
def TakesTile (x : Halter) (n : NodeRef) (packet : List Byte) : Prop :=
  x.state ≠ .disabled ∧ bit (hcfg x 5 1) n.graph.tenant = true ∧
    (watched (x.config.getD [])).contains (fld packet 8 1) = true ∧
    (x.pairs.getD (fld packet 8 1) .reset).owner.any (· ≠ (refKey n.graph, n.node)) = false

/-- A tile that a node has produced. -/
def produceTile (n : NodeRef) (s : State) : State :=
  s.modRun (refKey n.graph) n.node fun r => { r with tapped := r.tapped + 1 }

/-- An acknowledgement of a unit, counted whether or not it is awaited (Table 11.5; assumption log 44). -/
def countAck (u : Nat) (s : State) : State :=
  s.modHalter u fun x => { x with counts := { x.counts with acks := x.counts.acks + 1 } }

/-- The node becomes the owner of a pair of the unit (R405). -/
def ownPair (u k : Nat) (n : NodeRef) (s : State) : State :=
  s.modHalter u fun x => { x with pairs := lmod x.pairs k fun p => { p with owner := some (refKey n.graph, n.node) } }

section
variable {u : Nat} {n : NodeRef} {packet : List Byte} {s : State}

/-- A unit that takes a packet evaluates it as a tile of its owner (R405). -/
theorem meetTile_takes (h : TakesTile (s.halter u) n packet) : meetTile u n packet s =
    let k := fld packet 8 1
    let owned := ownPair u k n s
    takeTile u k (fld packet 0 2) (fld packet 2 2) (fld packet 12 2) (bit (fld packet 9 1) 1)
      (tileBreaks owned ((s.halter u).pairs.getD k .reset) (fld packet 4 4) (fld packet 2 2) (fld packet 0 2))
      (packetDisparity packet) (packetConfidence packet) owned := by
  obtain ⟨hs, hb, hw, ho⟩ := h
  exact if_neg (by simp only [hs, hb, hw, ho, Bool.true_eq_false, Bool.false_eq_true, or_self, not_false_eq_true])

/-- A packet that a unit does not take is counted as ignored (R405). -/
theorem meetTile_ignores (h : ¬TakesTile (s.halter u) n packet) : meetTile u n packet s = ignoreTile u s := by
  refine if_pos ?_
  by_contra hc
  simp only [not_or, Bool.not_eq_false, Bool.not_eq_true] at hc
  exact h hc

end

section
variable {u : Nat} {s : State}

/-- A unit whose frame is not complete at its deadline enters STOP (R417). -/
theorem deadlineWatch_expires {w : Window} (hw : s.tick.window = some w) (hf : (s.halter u).frameDone = false)
    (hd : min (w.t0 + 1000 * hcfg (s.halter u) 8 4) w.tg ≤ s.now) : deadlineWatch u s = enterStop u .deadline none s := by
  simp only [deadlineWatch, hw, hf, hd, Bool.not_false, and_self, if_true]

/-- A unit that has completed no frame for the time of its configuration enters STOP (R417). -/
theorem gapWatch_expires (h : (s.halter u).gapFrom + 1000 * hcfg (s.halter u) 12 4 ≤ s.now) :
    gapWatch u s = enterStop u .gap none s :=
  if_pos h

/-- A unit that waits too long for the next tile of a pair enters STOP, and waits no more (R417). -/
theorem tileGapWatch_expires {pair : Nat} {since : Instant} (hp : ((s.halter u).pairs.getD pair .reset).lastTile = some since)
    (hg : since + 1000 * hcfg (s.halter u) 16 4 ≤ s.now) : tileGapWatch u pair s = enterStop u .tileGap none
      (s.modHalter u fun x => { x with pairs := lmod x.pairs pair fun p => { p with lastTile := none } }) := by
  simp only [tileGapWatch, hp, hg, if_true]

/-- What a unit awaits stays as it was where a change of the unit leaves it. -/
theorem State.modHalter_awaitAck {f : Halter → Halter} (hf : ∀ x, (f x).awaitAck = x.awaitAck) :
    ((s.modHalter u f).halter u).awaitAck = (s.halter u).awaitAck := by
  simp only [State.halter, State.modHalter, lmod, List.getD_eq_getElem?_getD, List.getElem?_modify_eq]
  cases s.halters[u]? with
  | none => rfl
  | some x => exact hf x

end

section
variable {t : Instant} {u : Fin 2} {s : State} (hl : s.alive = true)
include hl

section
variable {n : NodeRef} {pair : Fin 4} {tx ty : Nat}

/-- The next tile that a tapped node produces meets the unit, and then the watchdogs are looked at (R371, R418). -/
theorem execHalterTile_meets {tile : List Byte} (ht : tapsHalter s u n = true)
    (hn : nextTap (refKey n.graph) n.node (advance t s) = some tile) (hi : isTile pair tx ty tile = true) :
    exec (.halterTile t u n pair tx ty) s = .next (watchdogs u (meetTile u n tile (produceTile n (advance t s)))) := by
  change execHalterTile t u n pair tx ty s = _
  rw [execHalterTile, event_runs hl]
  simp only [tapsHalter_advance, ht, hn, hi, if_true]
  rfl

/-- A row that does not name the next tile of a tapped node names no arrival (assumption log 85). -/
theorem execHalterTile_misses
    (h : tapsHalter s u n = false ∨
      ∀ next, nextTap (refKey n.graph) n.node (advance t s) = some next → isTile pair tx ty next = false) :
    exec (.halterTile t u n pair tx ty) s = .next (watchdogs u (advance t s)) := by
  change execHalterTile t u n pair tx ty s = _
  rw [execHalterTile, event_runs hl]
  refine congrArg (fun v => Host.Outcome.next (watchdogs u v)) ?_
  rcases h with ht | hi
  · exact if_neg (by simp [ht])
  · cases hn : nextTap (refKey n.graph) n.node (advance t s) with
    | none => exact ite_self _
    | some next => simp only [hi next hn, Bool.false_eq_true, if_false, ite_self]

end

/-- An edge that has stayed high for 1 µs is an acknowledgement, and leaves STOP where one is awaited (R416). -/
theorem execHalterAckQualified_runs {edge : Nat} (he : edge + 1000 ≤ (advance t s).now) :
    exec (.halterAckQualified t u edge) s = .next (
      if (s.halter u).awaitAck.any fun a => decide (a ≤ edge) then leaveStop u true (countAck u (advance t s))
      else postHalter u 7 [] ((countAck u (advance t s)).modHalter u fun x =>
        { x with counts := { x.counts with acksIgnored := x.counts.acksIgnored + 1 } })) := by
  have hw : ((countAck u (advance t s)).halter u).awaitAck = (s.halter u).awaitAck :=
    State.modHalter_awaitAck (s := advance t s) fun _ => rfl
  change execHalterAckQualified t u edge s = _
  rw [execHalterAckQualified, event_runs hl, ← hw]
  exact congrArg _ (if_neg (Nat.not_lt.2 he))

/-- The heartbeat of a unit changes both its pins, and is due again 50 µs later (R413). -/
theorem execHalterHeartbeatEdge_changes {due : Instant} (hd : (s.halter u).edgeDue = some due) (hn : due ≤ (advance t s).now) :
    exec (.halterHeartbeatEdge t u) s = .next ((drivePins u (!(s.halter u).pinA) (!(s.halter u).pinB) (s.halter u).pinSlow
      (advance t s)).modHalter u fun x => { x with edgeDue := some (due + 50000) }) := by
  change execHalterHeartbeatEdge t u s = _
  rw [execHalterHeartbeatEdge, event_runs hl]
  simp only [advance_halter, hd, hn, if_true]

/-- A watchdog leaves the decision to a tile of the same nanosecond that still comes (R418; assumption log 65). -/
theorem watchdogRow_yields (f : State → State) (hc : tileComing (advance t s) u = true) :
    event t (fun s => if tileComing s u then s else f s) s = .next (advance t s) := by
  rw [event_runs hl, if_pos hc]

/-- A watchdog that expires where no such tile comes has its effect (R417). -/
theorem watchdogRow_expires {f : State → State} {v : State} (hc : tileComing (advance t s) u = false)
    (hv : f (advance t s) = v) : event t (fun s => if tileComing s u then s else f s) s = .next v := by
  rw [event_runs hl, if_neg (Bool.eq_false_iff.1 hc), hv]

end

/-- Settles O43, row by row. -/
theorem halterRowsTakeEffect : Obligations.HalterRowsTakeEffect := by
  unfold Obligations.HalterRowsTakeEffect
  intro t u tile n edge due tx ty pair w s hl
  dsimp only
  refine ⟨fun ht hn hk hx hy => ⟨fun h => ?_, fun h => ?_⟩, fun h => execHalterTile_misses hl ?_,
    fun he => ⟨fun ⟨a, ha, hle⟩ => ?_, fun ha => ?_⟩, fun hw hf hd hc => ?_, fun hg hc => ?_, fun hc => ⟨?_, ?_, ?_⟩,
    fun hp hg hc => ?_, event_runs hl, execHalterHeartbeatEdge_changes hl⟩
  · exact (execHalterTile_meets hl ht hn (isTile_iff.2 ⟨hk, hx, hy⟩)).trans
      (congrArg (fun v => Host.Outcome.next (watchdogs u v)) (meetTile_takes h))
  · exact (execHalterTile_meets hl ht hn (isTile_iff.2 ⟨hk, hx, hy⟩)).trans
      (congrArg (fun v => Host.Outcome.next (watchdogs u v)) (meetTile_ignores h))
  · refine h.imp_right fun h next hnext => Bool.eq_false_iff.2 fun hi => ?_
    rcases h with hnone | ⟨q, hq, hne⟩
    · cases hnone.symm.trans hnext
    · cases hq.symm.trans hnext
      exact hne (isTile_iff.1 hi)
  · rw [execHalterAckQualified_runs hl he, if_pos (by simpa [ha] using hle)]
    rfl
  · rw [execHalterAckQualified_runs hl he, if_neg (by simpa [Option.any_eq_true] using ha)]
    rfl
  · exact watchdogRow_expires hl hc (deadlineWatch_expires (s := advance t s) hw hf hd)
  · exact watchdogRow_expires hl hc (gapWatch_expires (s := advance t s) hg)
  · exact watchdogRow_yields hl (deadlineWatch u) hc
  · exact watchdogRow_yields hl (gapWatch u) hc
  · exact watchdogRow_yields hl (tileGapWatch u pair) hc
  · exact watchdogRow_expires hl hc (tileGapWatch_expires (s := advance t s) hp hg)

end Sys2Proof.Machine

/-! ## Commands of group 0x08: routes, epochs, P-link ports -/

namespace Sys2Proof.Machine

@[simp] theorem accepted_fabric (seq : Nat) (t : Instant) (s : State) : (accepted seq t s).fabric = s.fabric := rfl

section
variable {t : Instant} {r : RingRef} {e : Entry} {seq : Nat} {c : Cmd} {s : State}

/-- A sound image replaces the version that is not in force (R438). -/
theorem execRouteLoad_runs {d : List Byte} (h : Accepts 0x0801 t r e seq c s) (hr : s.mayRequest r.fn = true)
    (hz : unusedZero e [(16, 1), (24, 12)] = true) (hv : efld e 16 1 ≤ 1) (ha : efld e 24 8 % 64 = 0)
    (hl : efld e 32 4 = 192) (he : efld e 16 1 ≠ s.fabric.epoch) (hs : s.fabric.switch = none)
    (hok : routesOk s.boot.config.chip (fit 192 d) = true) :
    exec (.routeLoad t r e (some d)) s = .next (settle (finish seq .ok 0 ((readBuffer r.fn e (accepted seq t s)).modFabric
      fun f => { f with versions := f.versions.set (efld e 16 1) (parseRoutes (fit 192 d)) }))) := by
  have hok' : routesOk (readBuffer r.fn e (accepted seq t s)).chip (fit 192 d) = true := hok
  refine bufCommand_runs_of_eq h hr rfl ?_ ?_
  · simp [bufChecks, hz, hv, ha, hl, he, hs]
  · simp [hok']

/-- A switch to the version that is not in force is recorded (R441). -/
theorem execEpochSwitch_runs (h : Accepts 0x0802 t r e seq c s) (hz : unusedZero e [(16, 1)] = true)
    (hv : efld e 16 1 ≤ 1) (hx : s.tick.state = .running ∨ s.tick.state = .paused) (he : efld e 16 1 ≠ s.fabric.epoch)
    (hs : s.fabric.switch = none) : exec (.epochSwitch t r e) s = .next (settle (finish seq .deferred 0
      ((accepted seq t s).modFabric fun f => { f with switch := some (efld e 16 1) }))) := by
  refine command_runs h ?_
  rcases hx with hx | hx <;> simp [hz, hv, he, hs, hx]

/-- A port trains, is disabled or goes down, as ACTION says (R467). -/
theorem execPlinkControl_runs (h : Accepts 0x0803 t r e seq c s) (hz : unusedZero e [(16, 2)] = true)
    (hp : efld e 16 1 ≤ 3) (ha : efld e 17 1 ≤ 2) (ht : efld e 17 1 = 0 → (s.plink (efld e 16 1)).state = .disabled)
    (hd : efld e 17 1 = 2 → (s.plink (efld e 16 1)).state = .up) :
    exec (.plinkControl t r e) s = .next (settle (finish seq .ok 0 (
      if efld e 17 1 = 0 then startTraining (efld e 16 1) (accepted seq t s)
      else if efld e 17 1 = 1 then disablePort (efld e 16 1) (accepted seq t s)
      else goDown (efld e 16 1) .commanded (accepted seq t s)))) := by
  have ht' : efld e 17 1 = 0 → ((accepted seq t s).plink (efld e 16 1)).state = .disabled := ht
  have hd' : efld e 17 1 = 2 → ((accepted seq t s).plink (efld e 16 1)).state = .up := hd
  exact command_runs h (by simpa [hz, hp, ha] using ⟨ht', hd'⟩)

end

/-- Settles O19, command by command. -/
theorem fabricCommandsTakeEffect : Obligations.FabricCommandsTakeEffect := by
  unfold Obligations.FabricCommandsTakeEffect
  intro t r e d seq c s
  dsimp only
  refine ⟨execRouteLoad_runs, execEpochSwitch_runs, fun h hz hp => ⟨fun ha hs => ?_, fun ha => ?_, fun ha hs => ?_⟩⟩
  · rw [execPlinkControl_runs h hz hp (by omega) (fun _ => hs) (by omega), if_pos ha]
  · rw [execPlinkControl_runs h hz hp (by omega) (by omega) (by omega), if_neg (by omega), if_pos ha]
  · rw [execPlinkControl_runs h hz hp (by omega) (by omega) (fun _ => hs), if_neg (by omega), if_neg (by omega)]

end Sys2Proof.Machine

/-! ## The rows of the fabric -/

namespace Sys2Proof.Machine

/-- The least of a single element. -/
@[simp] theorem minBy_singleton {α : Type} (key : α → Nat) (x : α) : minBy key [x] = some x := rfl

/-- An output grants the only packet that can advance through it, of either class (R432). -/
theorem grantOf_singleton (s : State) (router output : Nat) (c : Nat × Flight) : grantOf s router output [c] = some c := by
  unfold grantOf
  cases hd : c.2.pkt.isData <;> simp [hd]

/-- With no window open, what waits longest at a port carries the epoch in force, and goes out where its router has room
(R431, R440). -/
theorem injectWaiting_closed {router port : Nat} {o : Outgoing} {s : State}
    (ho : (s.fabric.outgoing.find? fun o => decide (o.router = router) && decide (o.port = port)) = some o)
    (hw : s.tick.window = none) : injectWaiting router port s = (
      let p : Packet := { o.pkt with h0 := ({ o.pkt.head with epoch := s.fabric.epoch } : H0).word }
      if roomFor s router (port + 4) p then
        countInjected p (putPacket (.buffer router (port + 4) p.vc) none p
          (stallSource router port 0 none (s.modFabric fun f => { f with outgoing := f.outgoing.erase o })))
      else stallSource router port 0 (some .room) s) := by
  simp only [injectWaiting, ho, hw, Bool.not_true, Bool.false_eq_true, if_false]

/-- The DRAM controllers answer at client ports (Table 12.1). -/
theorem four_le_dramPort (c : Nat) : 4 ≤ (dramPort c).2 := by
  unfold dramPort
  split <;> decide

section
variable {t : Instant} {s : State} (hl : s.alive = true)
include hl

section
variable {f : State → State} {key : Nat}

/-- A row that injects a request does so where requests may go (R458). -/
theorem injectRow_goes (hm : mayInject (advance t s) key = true) :
    event t (fun s => if mayInject s key then f s else s) s = .next (f (advance t s)) := by
  rw [event_runs hl, if_pos hm]

/-- While none may go it lets time pass (R458). -/
theorem injectRow_waits (hm : mayInject (advance t s) key = false) :
    event t (fun s => if mayInject s key then f s else s) s = .next (advance t s) := by
  rw [event_runs hl, if_neg (Bool.eq_false_iff.1 hm)]

end

section
variable {router : Fin 16} {port : Fin 8} {k : Nat} {f : Flight}

/-- The only packet that wants an output, if it can advance, moves on; the output starts its run of control grants again, for
no other packet waited for it (R432). -/
theorem execFabricForward_grants {out : Fin 12}
    (hlost : (headsOf (advance t s) router).filter (fun c => (outputOf (advance t s) router c.2.pkt).isNone) = [])
    (hone : (headsOf (advance t s) router).filter
      (fun c => decide (outputOf (advance t s) router c.2.pkt = some out.val)) = [(k, f)])
    (hgo : canAdvance (advance t s) router out f = true) :
    exec (.fabricForward t router out) s = .next (advancePacket router out k f ((advance t s).modFabric fun x =>
      { x with lastInput := tset x.lastInput (16 * router.val + out.val) (inputOf f),
               controlRun := tset x.controlRun (16 * router.val + out.val) 0 })) := by
  have hrun : f.pkt.isData = true ∨ ([(k, f)].all fun c => !c.2.pkt.isData) = true := by
    cases hd : f.pkt.isData <;> simp [hd]
  change execFabricForward t router out s = _
  rw [execFabricForward, event_runs hl]
  simp only [hlost, List.foldl_nil, hone, hgo, List.filter_cons_of_pos, List.filter_nil, grantOf_singleton, hrun, if_true,
    ne_eq, not_true_eq_false, decide_false, Bool.false_eq_true, not_false_eq_true, List.filter_cons_of_neg]

section
variable {found : List SectorCheck} (hf : firstAt s (.endpoint router port)
  (fun p => !p.isResponse && !(p.isRequest && decide (p.mode = 1)) && decide (p.op ≠ 0x04)) = some (k, f))
include hf

/-- A port takes its oldest message or request: a message leaves the fabric, a request is discarded while none may go, and is
served by a stall or a DRAM controller otherwise (R429, R448, R458). -/
theorem execFabricDeliver_takes : exec (.fabricDeliver t router port found) s = .next (
    if f.pkt.isRequest then
      if mayInject (advance t s) f.pkt.key = false then
        countFabric (fun c => { c with quiesced := c.quiesced + 1 }) (removePacket k (advance t s))
      else if port.val < 4 then deliverStall k f router port (advance t s)
      else if [0, 1, 2, 3].any fun c => decide (dramPort c = (router.val, port.val)) then
        deliverDram k f router port found (advance t s)
      else countFabric (fun c => { c with malformed := c.malformed + 1 }) (removePacket k (advance t s))
    else removePacket k (advance t s)) := by
  change execFabricDeliver t router port found s = _
  rw [execFabricDeliver, event_runs hl]
  simp only [firstAt_advance, hf]
  cases f.pkt.isRequest <;> cases mayInject (advance t s) f.pkt.key <;> rfl

end

/-- A port takes its oldest answer: one of no outstanding request, with another key than its request or that came after the
expiry is counted, and any other reaches its request (R450 to R452). -/
theorem execFabricResponse_takes (hf : firstAt s (.endpoint router port) Packet.isResponse = some (k, f)) :
    exec (.fabricResponse t router port) s = .next (
      let taken := removePacket k (advance t s)
      match tget s.fabric.reqs (reqKey router port f.pkt.tag) with
      | none => countFabric (fun c => { c with discarded := c.discarded + 1 }) taken
      | some q =>
        if q.pkt.key ≠ f.pkt.key then countFabric (fun c => { c with keyRefusedRx := c.keyRefusedRx + 1 }) taken
        else if q.expiry < f.since then countFabric (fun c => { c with discarded := c.discarded + 1 }) taken
        else takeResponse router port (reqKey router port f.pkt.tag) q f.pkt taken) := by
  change execFabricResponse t router port s = _
  rw [execFabricResponse, event_runs hl]
  simp only [firstAt_advance, hf]
  rfl

/-- A request ends at its expiry where no answer comes in time (R451). -/
theorem execRequestExpiry_checks {tag : Fin 64} {q : Request} (hq : tget s.fabric.reqs (reqKey router port tag) = some q) :
    exec (.requestExpiry t router port tag) s = .next (
      if q.expiry ≤ (advance t s).now ∧ inTime (advance t s) router port tag q = false then
        endRequest (reqKey router port tag) .expired
          (countFabric (fun c => { c with expired := c.expired + 1 }) (advance t s))
      else advance t s) := by
  change execRequestExpiry t router port tag s = _
  rw [execRequestExpiry, event_runs hl]
  simp only [advance_fabric, hq]

/-- A tag held back comes free 10 ms after the expiry while no window opens (R453). -/
theorem execTagHoldbackEnd_frees {tag : Fin 64} {since : Instant}
    (hh : tget s.fabric.tagHold (reqKey router port tag) = some since) (hw : s.tick.window = none)
    (hd : since + 10000000 ≤ (advance t s).now) : exec (.tagHoldbackEnd t router port tag) s = .next
      ((advance t s).modFabric fun f => { f with tagHold := tdel f.tagHold (reqKey router port tag) }) := by
  change execTagHoldbackEnd t router port tag s = _
  rw [execTagHoldbackEnd, event_runs hl]
  simp only [advance_fabric, advance_tick, hh, hw, Option.isNone_none, hd, and_self, if_true]

end
end

/-- Settles O40, row by row. -/
theorem fabricRowsTakeEffect : Obligations.FabricRowsTakeEffect := by
  unfold Obligations.FabricRowsTakeEffect
  intro t router port out tag found n write addr rows row lane context chip payload o k f q since s hl
  dsimp only
  refine ⟨fun ho hw => ?_, fun hm => ⟨injectRow_goes hl hm, injectRow_goes hl hm, injectRow_goes hl hm⟩, fun hm w hw => ?_,
    fun hm => injectRow_goes hl hm, execFabricForward_grants hl, fun hf => ?_, fun hf => ?_, fun hq => ?_,
    execTagHoldbackEnd_frees hl⟩
  · have hrow : exec (.fabricInject t router port .waiting) s = .next (injectWaiting router port (advance t s)) :=
      event_runs (f := injectWaiting router port) hl
    rw [hrow, injectWaiting_closed (s := advance t s) ho hw]
    exact ⟨fun hr => congrArg _ (if_pos hr), fun hr => congrArg _ (if_neg (Bool.eq_false_iff.1 hr))⟩
  · simp only [List.mem_cons, List.not_mem_nil, or_false] at hw
    rcases hw with rfl | rfl | rfl <;> exact injectRow_waits hl hm
  · rw [execFabricDeliver_takes hl hf]
    refine ⟨fun hr => ?_, fun hr hm => ?_, fun hr hm hp => ?_, fun hr hm ⟨c, hc, hd⟩ => ?_⟩
    · simp only [hr, Bool.false_eq_true, if_false]
    · simp only [hr, hm, if_true]
    · simp only [hr, hm, hp, Bool.true_eq_false, if_true, if_false]
    · have hp : ¬port.val < 4 := Nat.not_lt.2 ((four_le_dramPort c).trans_eq (congrArg Prod.snd hd))
      have hany : ([0, 1, 2, 3].any fun c => decide (dramPort c = (router.val, port.val))) = true :=
        List.any_eq_true.2 ⟨c, List.mem_range.2 hc, decide_eq_true hd⟩
      simp only [hr, hm, hp, hany, Bool.true_eq_false, if_true, if_false]
  · rw [execFabricResponse_takes hl hf]
    refine ⟨fun hn => ?_, fun hq hk => ?_, fun hq hk hx => ?_, fun hq hk hx => ?_⟩
    · simp only [hn]
    · simp only [hq, hk, ne_eq, not_false_eq_true, if_true]
    · simp only [hq, hk, hx, ne_eq, not_true_eq_false, if_true, if_false]
    · simp only [hq, hk, Nat.not_lt.2 hx, ne_eq, not_true_eq_false, if_false]
  · rw [execRequestExpiry_checks hl hq]
    refine ⟨fun hx hi => congrArg _ (if_pos ⟨hx, hi⟩), fun h => congrArg _ (if_neg ?_)⟩
    rintro ⟨hx, hi⟩
    rcases h with h | h
    · exact Nat.not_le.2 h hx
    · exact Bool.false_ne_true (hi.symm.trans h)

end Sys2Proof.Machine

/-! ## The fabric after a reset -/

namespace Sys2Proof.Machine

/-- The fabric is as a reset of the whole device leaves it, for the chip that the device is (R439). -/
def State.fabricBlank (s : State) : Prop := s.fabric = .reset s.chip

/-- After a reset the epoch is 0, and both versions hold the reset table. -/
theorem State.fabricBlank.spec {s : State} (h : s.fabricBlank) :
    s.fabric.epoch = 0 ∧ s.fabric.versions = [.reset s.chip, .reset s.chip] := by
  rw [h]
  exact ⟨rfl, rfl⟩

/-- The reset table gives a chip LOCAL for itself and NONE for every other. -/
theorem Routes.reset_route {chip c : Nat} (hc : c < 16) :
    (Routes.reset chip).route.getD c 0 = if c = chip then 0 else 0xFF := by
  simp [Routes.reset, hc]

/-- Every link of the reset table is disabled. -/
theorem Routes.reset_links {chip : Nat} : ∀ l ∈ (Routes.reset chip).links, l.enabled = false := by
  intro l hl
  rw [List.eq_of_mem_replicate hl]

theorem reset_fabricBlank : State.reset.fabricBlank := rfl

theorem blankDevice_fabricBlank (s : State) : (blankDevice s).fabricBlank := rfl

theorem holdReset_fabricBlank (s : State) : (holdReset s).fabricBlank := blankDevice_fabricBlank _

section
variable {s : State} (h : s.fabricBlank)
include h

/-- Releasing THERMTRIP_N changes nothing of the fabric. -/
theorem releaseTrip_fabricBlank : (releaseTrip s).fabricBlank := by
  unfold releaseTrip
  split <;> exact h

/-- Driving HALTER_SLOW again changes nothing of the fabric. -/
theorem slowBack_fabricBlank {had : Bool} : (slowBack had s).fabricBlank := by
  unfold slowBack
  split
  · exact List.foldlRecOn _ _ h fun _ hu _ _ => hu
  · exact h

/-- The boot ROM starts without a change of the fabric, even where it trains the P-links. -/
theorem startRom_fabricBlank : (startRom s).fabricBlank := by
  unfold startRom
  dsimp only
  split
  · exact List.foldlRecOn _ _ (show State.fabricBlank _ from h) fun _ hu _ _ => hu
  · exact h

end

/-- With a power-good input low the fabric is reset (R623). -/
theorem changePower_fabricBlank {aon core io v18 : Bool} (hp : (aon && core && io) = false) (s : State) :
    (changePower aon core io v18 s).fabricBlank := by
  unfold changePower
  dsimp only
  rw [if_neg (Bool.eq_false_iff.1 hp)]
  exact slowBack_fabricBlank (releaseTrip_fabricBlank (holdReset_fabricBlank _))

/-- A warm reset resets the fabric (Table 19.2). -/
theorem warmReset_fabricBlank (sel : BitVec 2) (s : State) : (warmReset sel s).fabricBlank :=
  startRom_fabricBlank (blankDevice_fabricBlank (raiseAlert alertFwDown (resetPins true s)))

/-- A reset of the whole device, whichever row makes it, leaves a blank fabric. -/
theorem fabricBlank_of_deviceReset {t : Instant} {aon core io v18 : Bool} {sel : BitVec 2} {s u : State}
    (h : u = State.reset ∨ (s.pins.perstN = true ∧ exec (.perstNAssert t) s = .next u) ∨
      ((aon && core && io) = false ∧ exec (.powerGoodChange t aon core io v18 false) s = .next u) ∨
      (s.alive = true ∧ s.fw.resetDue = true ∧ exec (.warmReset t sel) s = .next u)) : u.fabricBlank := by
  rcases h with rfl | ⟨hp, hu⟩ | ⟨hp, hu⟩ | ⟨hl, hd, hu⟩
  · exact reset_fabricBlank
  · have hrow : exec (.perstNAssert t) s = .next (holdReset (advance t s)) := congrArg _ (if_pos hp)
    cases hrow.symm.trans hu
    exact holdReset_fabricBlank _
  · have hrow : exec (.powerGoodChange t aon core io v18 false) s = .next (changePower aon core io v18 (advance t s)) := rfl
    cases hrow.symm.trans hu
    exact changePower_fabricBlank hp _
  · have hrow : exec (.warmReset t sel) s = .next (warmReset sel (advance t s)) :=
      (event_runs hl).trans (congrArg _ (if_pos hd))
    cases hrow.symm.trans hu
    exact warmReset_fabricBlank sel _

/-- Settles O59: every such reset leaves a blank fabric, and a blank fabric holds the reset table. -/
theorem fabricAfterReset : Obligations.FabricAfterReset := by
  unfold Obligations.FabricAfterReset
  intro t aon core io v18 sel s u h
  obtain ⟨hepoch, hversions⟩ := (fabricBlank_of_deviceReset h).spec
  refine ⟨hepoch, congrArg List.length hversions, fun v hv => ?_⟩
  obtain rfl : v = .reset u.chip := by simpa [hversions] using hv
  exact ⟨rfl, rfl, List.length_replicate, Routes.reset_links, by simp [Routes.reset], fun _ => Routes.reset_route⟩

end Sys2Proof.Machine

/-! ## A frame abort -/

namespace Sys2Proof.Machine

/-- FRAME_ABORT ends the activation of its graph, and sends an ABORT where SYSTEM is set on a SYSTEM graph (R498 to R500). -/
theorem exec_frameAbort {t : Instant} {r : RingRef} {e : Entry} {gr : Graph} {inst : Inst} {seq : Nat} {c : Cmd} {s : State}
    (h : Accepts 0x0507 t r e seq c s) (hz : unusedZero e [(16, 3)] = true) (hb : graphBusy s e = false)
    (ht : efld e 16 1 ≤ 3) (hg : efld e 17 1 ≤ 63) (hk : efld e 18 1 ≤ 1) (hs : efld e 18 1 = 1 → gr.system = true)
    (hx : s.tick.state = .running) (hgr : s.graph (graphOf e) = some gr) (hi : s.inst (graphOf e) = some inst) :
    exec (.frameAbort t r e) s = .next (settle (done seq (
      if efld e 18 1 = 1 then sendAbort (graphOf e) 0 inst.stc (abortInst (graphOf e) (accepted seq t s))
      else abortInst (graphOf e) (accepted seq t s)))) := by
  change execFrameAbort t r e s = _
  rw [execFrameAbort, graphCommand_runs h hb ht hg]
  · simp only [accepted_inst, hi, decide_eq_true_eq]
  · simp only [accepted_tick, accepted_graph, accepted_inst, hgr, hi, List.mem_cons, List.not_mem_nil, or_false]
    rintro x (rfl | rfl | rfl | rfl | rfl)
    · simp [hz]
    · exact noGraph_fst (s := accepted seq t s) hgr
    · simp [hk]
    · simpa using hs
    · simp [hx]

/-- Settles O14, with SYSTEM clear and with it set. -/
theorem frameAbortTakesEffect : Obligations.FrameAbortTakesEffect := by
  unfold Obligations.FrameAbortTakesEffect
  intro t r e gr inst seq c s
  dsimp only
  intro h hz hb ht hg hk hx hgr hi
  refine ⟨fun h0 => ?_, fun h1 hs => ?_⟩
  · rw [exec_frameAbort h hz hb ht hg hk (by omega) hx hgr hi, if_neg (by omega)]
    rfl
  · rw [exec_frameAbort h hz hb ht hg hk (fun _ => hs) hx hgr hi, if_pos h1]
    rfl

end Sys2Proof.Machine

/-! ## The ticks of a P-link follower -/

namespace Sys2Proof.Machine

section
variable {port depth : Nat} {x : Instant} {stc : BitVec 32} {s : State}

/-- A block near the latest tick confirms it (R487). -/
theorem steerBy_confirms (hl : s.tick.last.any (near x) = true) : steerBy port x stc depth s =
    countLink port (fun k => { k with confirms := k.confirms + 1 }) (confirmTick stc (takeDepth depth s)) :=
  if_pos hl

section
variable (hl : s.tick.last.any (near x) = false)
include hl

/-- A block near the tick to come is kept for it (R487). -/
theorem steerBy_foretells (hd : s.tick.due.any (near x) = true) : steerBy port x stc depth s =
    countLink port (fun k => { k with confirms := k.confirms + 1 })
      ((takeDepth depth s).modTick fun k => { k with early := some (x, stc) }) :=
  (if_neg (Bool.eq_false_iff.1 hl)).trans (if_pos hd)

/-- A block near neither is ignored (R487). -/
theorem steerBy_ignores (hd : s.tick.due.any (near x) = false) : steerBy port x stc depth s =
    tickFault .early (countLink port (fun k => { k with ticksIgnored := k.ticksIgnored + 1 }) s) :=
  (if_neg (Bool.eq_false_iff.1 hl)).trans (if_neg (Bool.eq_false_iff.1 hd))

end

/-- With no switch in progress, the source in force has its ticks recognised in RUNNING and PAUSED. -/
theorem followsSource_of_noSwitch {src : TickSource} (hs : s.tick.source = src)
    (hx : s.tick.state = .running ∨ s.tick.state = .paused) (hw : s.tick.switch = none) : followsSource s src = true :=
  followsSource_iff.2 ⟨hs, hx, by rw [hw]; rfl⟩

/-- A follower compares the blocks of its port with its own ticks, after taking off the delay of the link (R487). -/
theorem takeBlock_steers {upset : BitVec 2} (hs : s.tick.source = .plink)
    (hx : s.tick.state = .running ∨ s.tick.state = .paused) (hw : s.tick.switch = none) (ha : s.tick.startedAt = none)
    (hp : s.tick.port = port) :
    takeBlock port stc depth upset s = steerBy port (s.now - (s.plink port).delay) stc depth s := by
  have hto : switchTo s .plink = none := switchTo_eq_none (by rw [hw]; rfl)
  have hlost : s.tick.state ≠ .lost := by rcases hx with hx | hx <;> simp [hx]
  simp only [takeBlock, hto, Option.filter_none, hs, hp, hlost, ha, followsSource_of_noSwitch hs hx hw, decide_true,
    Bool.and_self, Bool.not_true, Option.isSome_none, Bool.false_eq_true, if_false, if_true]

end

section
variable {t : Instant} {upset : BitVec 2} {s : State} (hl : s.alive = true)
include hl

section
variable {port : Fin 4} {stc : BitVec 32} {depth : Fin 16} {hold : Bool}

/-- A TICK block on a port in UP is noted there and taken (R485). -/
theorem execPlinkTickBlock_up (hu : (s.plink port).state = .up) :
    exec (.plinkTickBlock t port stc depth hold upset) s =
      .next (takeBlock port stc depth upset ((advance t s).modLink port fun l => { l with lastStc := stc })) :=
  (event_runs hl).trans (congrArg _ (if_pos hu))

/-- A port in another state takes no TICK block. -/
theorem execPlinkTickBlock_down (hu : (s.plink port).state ≠ .up) :
    exec (.plinkTickBlock t port stc depth hold upset) s = .next (advance t s) :=
  (event_runs hl).trans (congrArg _ (if_neg hu))

end

/-- The timer of a follower at its due instant (R487). -/
theorem execFollowerTick_due {d : Instant} (hs : s.tick.source = .plink)
    (hx : s.tick.state = .running ∨ s.tick.state = .paused) (hw : s.tick.switch = none) (ha : s.tick.startedAt = none)
    (hd : s.tick.due = some d) (hn : d ≤ (advance t s).now) :
    exec (.followerTick t upset) s = .next (followerTick d false upset (advance t s)) := by
  have hf : followsSource (advance t s) .plink = true := followsSource_of_noSwitch (s := advance t s) hs hx hw
  change execFollowerTick t upset s = _
  rw [execFollowerTick, event_runs hl]
  simp only [advance_tick, hd, hn, hf, ha, Option.isNone_none, Bool.and_self, if_true]

/-- A tick that no block has confirmed in time is a synthesised one (R488; assumption log 24). -/
theorem execFollowerConfirmExpiry_late {a : Instant} (hc : s.tick.confirmBy = some a) (hn : a ≤ (advance t s).now) :
    exec (.followerConfirmExpiry t) s = .next (
      postTicks (if s.tick.holdover then [] else [TickFault.missing.code, tickHoldoverEnter])
        ((advance t s).modTick fun k => { k with confirmBy := none, holdover := true, synth := k.synth + 1 })) := by
  have hlate : (s.tick.confirmBy.any fun a => decide (a ≤ (advance t s).now)) = true := by
    rw [hc]
    exact decide_eq_true hn
  exact (event_runs hl).trans (congrArg _ (if_pos hlate))

end

/-- Settles O32: `takeBlock_steers` says which block is compared with the follower's ticks, the three lemmas of `steerBy`
what becomes of it. -/
theorem followerRowsTakeEffect : Obligations.FollowerRowsTakeEffect := by
  unfold Obligations.FollowerRowsTakeEffect
  intro t port stc depth hold upset a s hl
  dsimp only
  refine ⟨execPlinkTickBlock_down hl, fun hu ⟨hs, hx, hw, ha⟩ hp => ?_,
    fun ⟨hs, hx, hw, ha⟩ => execFollowerTick_due hl hs hx hw ha, execFollowerConfirmExpiry_late hl⟩
  rw [execPlinkTickBlock_up hl hu,
    takeBlock_steers (s := (advance t s).modLink port fun l => { l with lastStc := stc }) hs hx hw ha hp]
  exact ⟨fun h => congrArg _ (steerBy_confirms h), fun h hd => congrArg _ (steerBy_foretells h hd),
    fun h hd => congrArg _ (steerBy_ignores h hd)⟩

end Sys2Proof.Machine

/-! ## P-link ports: their states, what they receive and their timers -/

namespace Sys2Proof.Machine

@[simp] theorem advance_plink (t : Instant) (s : State) (p : Nat) : (advance t s).plink p = s.plink p := rfl

section
variable {t : Instant} {port : Fin 4} {s : State} (hl : s.alive = true)
include hl

section
variable (hs : (s.plink port).state = .training)
include hs

section
variable (hr : (s.plink port).retryAt = none)
include hr

/-- Training ends with the port UP (R465, R466). -/
theorem execPlinkTrainingEnd_up {chip : Fin 16} {delay : Nat} :
    exec (.plinkTrainingEnd t port (.up chip delay)) s = .next (linkUp port chip delay (advance t s)) :=
  (event_runs hl).trans (congrArg _ (if_pos ⟨hs, hr⟩))

/-- A failed attempt is counted, repeats after 100 ms, and is posted unless one before it was (R465). -/
theorem execPlinkTrainingEnd_failed {step : Fin 4} : exec (.plinkTrainingEnd t port (.failed step)) s = .next (
    let failed := countLink port (fun c => { c with trainFails := c.trainFails + 1 }) (advance t s)
    let told := if (s.plink port).failedOnce then failed
      else postAll clsLink 0x103 (detail [(0, port.val), (2, step.val)]) failed
    told.modLink port fun l => { l with failedOnce := true, retryAt := some (told.now + 100000000) }) :=
  (event_runs hl).trans (congrArg _ (if_pos ⟨hs, hr⟩))

end

/-- The failed attempt repeats when its time has come (R465). -/
theorem execTrainRetryTimer_due {r : Instant} (hr : (s.plink port).retryAt = some r) (hn : r ≤ (advance t s).now) :
    exec (.trainRetryTimer t port) s = .next (startTraining port (advance t s)) := by
  have hdue : ((s.plink port).retryAt.any fun r => decide (r ≤ (advance t s).now)) = true := by
    rw [hr]
    exact decide_eq_true hn
  exact (event_runs hl).trans (congrArg _ (if_pos ⟨hs, hdue⟩))

end

/-- A port trains again after 1 µs in DOWN (Table 13.1). -/
theorem execDownHoldEnd_late (hs : (s.plink port).state = .down) (hn : (s.plink port).since + 1000 ≤ (advance t s).now) :
    exec (.downHoldEnd t port) s = .next (startTraining port (advance t s)) :=
  (event_runs hl).trans (congrArg _ (if_pos ⟨hs, hn⟩))

/-- 50 µs without a valid LINK_CTL take a port DOWN (R480). -/
theorem execNoAckTimeout_late (hs : (s.plink port).state = .up) (hn : (s.plink port).lastRx + 50000 ≤ (advance t s).now) :
    exec (.noAckTimeout t port) s = .next (goDown port .noAck (advance t s)) :=
  (event_runs hl).trans (congrArg _ (if_pos ⟨hs, hn⟩))

section
variable (hs : (s.plink port).state ≠ .disabled)
include hs

/-- LINK_DOWN and TRAIN from the partner take a port DOWN (R480). -/
theorem execPartnerBlockReceived_down {b : BitVec 8} (hb : b = 0x78 ∨ b = 0x66) :
    exec (.partnerBlockReceived t port b) s = .next (goDown port .partner (advance t s)) := by
  change execPartnerBlockReceived t port b s = _
  rw [execPartnerBlockReceived, event_runs hl]
  exact congrArg Host.Outcome.next ((if_neg hs).trans (if_pos hb))

/-- A block of reserved type is counted (R469). -/
theorem execPartnerBlockReceived_reserved {b : BitVec 8} (hd : b ≠ 0x78) (ht : b ≠ 0x66)
    (hr : b.toNat ∉ [0x1E, 0x33, 0x4B, 0x55, 0x87]) : exec (.partnerBlockReceived t port b) s =
      .next (countLink port (fun c => { c with badBlocks := c.badBlocks + 1 }) (advance t s)) := by
  have hknown : ¬[0x1E, 0x33, 0x4B, 0x55, 0x87].contains b.toNat = true := fun hc => hr (List.contains_iff_mem.1 hc)
  change execPartnerBlockReceived t port b s = _
  rw [execPartnerBlockReceived, event_runs hl]
  exact congrArg Host.Outcome.next ((if_neg hs).trans ((if_neg (not_or.2 ⟨hd, ht⟩)).trans (if_neg hknown)))

/-- The symbols corrected in a codeword are counted (R470). -/
theorem execFecCodeword_corrected {n : Fin 5} : exec (.fecCodeword t port (some n)) s =
    .next (countLink port (fun c => { c with fecCorrected := c.fecCorrected + n.val }) (advance t s)) := by
  change execFecCodeword t port (some n) s = _
  rw [execFecCodeword, event_runs hl]
  exact congrArg Host.Outcome.next (if_neg hs)

/-- A codeword that cannot be corrected is counted (R470). -/
theorem execFecCodeword_lost : exec (.fecCodeword t port none) s =
    .next (countLink port (fun c => { c with fecLost := c.fecLost + 1 }) (advance t s)) := by
  change execFecCodeword t port none s = _
  rw [execFecCodeword, event_runs hl]
  exact congrArg Host.Outcome.next (if_neg hs)

end

/-- Outside a step of its own an UP port joins the recalibration step of its partner (R468). -/
theorem execRecalBlockReceived_joins (hs : (s.plink port).state = .up) (hr : recalibrating (advance t s) port = false) :
    exec (.recalBlockReceived t port) s =
      .next (recalStep port (countLink port (fun c => { c with recalJoined := c.recalJoined + 1 }) (advance t s))) :=
  (event_runs hl).trans (congrArg _ (if_pos ⟨hs, hr⟩))

/-- While no window opens, the timer begins a step at each port whose last one lies 10 ms back (R468). -/
theorem execIdleRecalTimer_begins (hw : noWindows s = true) :
    exec (.idleRecalTimer t) s = .next ([0, 1, 2, 3].foldl (fun u p =>
      if u.chip < (u.plink p).neighbour ∧ ((u.plink p).recal.all fun r => decide (r + 10000000 ≤ u.now)) then recalStep p u
      else u) (advance t s)) :=
  (event_runs hl).trans (congrArg _ (if_pos hw))

end

/-- Settles O41, row by row. -/
theorem linkStatesTakeEffect : Obligations.LinkStatesTakeEffect := by
  unfold Obligations.LinkStatesTakeEffect
  intro t port chip delay step sym r s hl
  dsimp only
  refine ⟨fun hs hr => ⟨execPlinkTrainingEnd_up hl hs hr, fun hf => ?_, fun hf => ?_⟩, fun hs => execTrainRetryTimer_due hl hs,
    execDownHoldEnd_late hl, event_runs hl, execNoAckTimeout_late hl,
    fun hs => ⟨execPartnerBlockReceived_down hl hs (.inl rfl), execPartnerBlockReceived_down hl hs (.inr rfl),
      fun b => execPartnerBlockReceived_reserved hl hs, execFecCodeword_corrected hl hs, execFecCodeword_lost hl hs⟩,
    execRecalBlockReceived_joins hl, execIdleRecalTimer_begins hl⟩
  · simp only [execPlinkTrainingEnd_failed hl hs hr, hf, if_true]
  · simp only [execPlinkTrainingEnd_failed hl hs hr, hf, Bool.false_eq_true, if_false]

/-- An ABORT taken from a gateway's port leaves the fabric, spoils the gate rows of its key and is flooded; the answer tells
whether it is new (R500). -/
def floodReceived (port k : Nat) (f : Flight) (s : State) : State × Bool :=
  floodAbort f.pkt.key (hbits f.pkt.h1 7 0) (hbits f.pkt.h1 15 8) (hbits f.pkt.h1 23 16)
    (BitVec.ofNat 32 (hbits f.pkt.h1 63 32)) (some (port, f.pkt)) (spoilGateRows f.pkt.key (removePacket k s))

section
variable {t : Instant} {port : Fin 4} {s : State} (hl : s.alive = true)
include hl

/-- The oldest ABORT at a gateway goes on, and a new one ends the activation it names or is counted (R499 to R501). -/
theorem execAbortReceived_takes {k : Nat} {f : Flight}
    (hf : firstAt s (.endpoint (gatewayRouter port) 7) (fun p => decide (p.op = 0x04)) = some (k, f)) :
    exec (.abortReceived t port) s = .next (
      let flood := floodReceived port k f (advance t s)
      let w := f.pkt.h1
      if flood.2 then
        match abortTarget flood.1 f.pkt.key (hbits w 7 0) (BitVec.ofNat 32 (hbits w 63 32)) with
        | some g => postAborted g (hbits w 15 8) (hbits w 23 16) true (BitVec.ofNat 32 (hbits w 63 32)) (abortInst g flood.1)
        | none => countLink port (fun c => { c with abortsIdle := c.abortsIdle + 1 }) flood.1
      else flood.1) := by
  change execAbortReceived t port s = _
  rw [execAbortReceived, event_runs hl]
  simp only [firstAt_advance, hf]
  rfl

/-- A neighbour's push at a device that waits for it starts Acrega where the package passes every check (R505, R637). -/
theorem execBootPush_checks {image : List Byte} (hr : s.boot.romRunning = true) (hw : s.boot.waitPlink = true)
    (hu : (s.plink port).state = .up) : exec (.bootPush t port image) s = .next (
      if packageOk (advance t s) image then startAcrega image none (advance t s) else advance t s) := by
  change execBootPush t port image s = _
  rw [execBootPush, event_runs hl]
  simp only [advance_boot, advance_plink, hr, hw, hu, true_and]

section
variable (hu : (s.plink port).state = .up)
include hu

/-- A row that only a port in UP takes. -/
theorem upRow_runs {f : State → State} :
    event t (fun s => if (s.plink port).state ≠ .up then s else f s) s = .next (f (advance t s)) :=
  (event_runs hl).trans (congrArg _ (if_neg (not_not.2 hu)))

section
variable {seq : BitVec 12} {h0 h1 : BitVec 64} {rest : List Byte}

/-- A damaged frame is counted (R472). -/
theorem execLinkFrameReceived_damaged : exec (.linkFrameReceived t port seq h0 h1 rest false) s =
    .next (countLink port (fun c => { c with badFrames := c.badFrames + 1 }) (advance t s)) := by
  change execLinkFrameReceived t port seq h0 h1 rest false s = _
  rw [execLinkFrameReceived, upRow_runs hl hu]
  rfl

/-- The frame expected next is numbered and comes in, and each 64th is acknowledged at once (R472, R474). -/
theorem execLinkFrameReceived_next (hd : (seq.toNat + 4096 - (s.plink port).rxExpected) % 4096 = 0) :
    exec (.linkFrameReceived t port seq h0 h1 rest true) s = .next (
      let p : Packet := { h0 := h0, h1 := h1, rest := rest }
      let got := ingress port p (tallyIngress port h0 h1 (p.isData || decide (p.op = 0x01)) p.key
        ((advance t s).modLink port fun l =>
          { l with rxExpected := (l.rxExpected + 1) % 4096, sinceCtl := l.sinceCtl + 1,
                   counts := { l.counts with framesDelivered := l.counts.framesDelivered + 1 } }))
      if 64 ≤ (got.plink port).sinceCtl then sendCtl port false false got else got) := by
  change execLinkFrameReceived t port seq h0 h1 rest true s = _
  rw [execLinkFrameReceived, upRow_runs hl hu]
  exact congrArg Host.Outcome.next ((if_neg Bool.false_ne_true).trans (if_pos hd))

/-- A frame ahead of the one expected asks for a replay (R473). -/
theorem execLinkFrameReceived_ahead (hd : 0 < (seq.toNat + 4096 - (s.plink port).rxExpected) % 4096)
    (hd' : (seq.toNat + 4096 - (s.plink port).rxExpected) % 4096 ≤ 2047)
    (hn : ((s.plink port).lastNak.all fun n => decide (n + 1000 ≤ (advance t s).now)) = true) :
    exec (.linkFrameReceived t port seq h0 h1 rest true) s = .next (
      sendCtl port true false ((advance t s).modLink port fun l => { l with lastNak := some (advance t s).now })) := by
  change execLinkFrameReceived t port seq h0 h1 rest true s = _
  rw [execLinkFrameReceived, upRow_runs hl hu]
  exact congrArg Host.Outcome.next ((if_neg Bool.false_ne_true).trans ((if_neg hd.ne').trans
    ((if_pos hd').trans (if_pos hn))))

/-- An older frame is acknowledged again (R473). -/
theorem execLinkFrameReceived_older (hd : 2047 < (seq.toNat + 4096 - (s.plink port).rxExpected) % 4096) :
    exec (.linkFrameReceived t port seq h0 h1 rest true) s = .next (sendCtl port false false (advance t s)) := by
  change execLinkFrameReceived t port seq h0 h1 rest true s = _
  rw [execLinkFrameReceived, upRow_runs hl hu]
  exact congrArg Host.Outcome.next ((if_neg Bool.false_ne_true).trans ((if_neg (Nat.ne_zero_of_lt hd)).trans
    (if_neg (Nat.not_le.2 hd))))

end

/-- A LINK_CTL restarts the numbering where it carries FLUSH, returns credits, and carries an acknowledgement and a NAK where
it says so (Table 13.2). -/
theorem execLinkCtlReceived_takes {fields : BitVec 56} : exec (.linkCtlReceived t port fields) s = .next (
    let n := fields.toNat
    let credited := (advance t s).modLink port fun l =>
      { l with lastRx := (advance t s).now, rxExpected := if bit n 46 then 0 else l.rxExpected,
               credits := (List.range 4).map fun v => min 129 (l.credits.getD v 0 + bits n (21 + 8 * v) (14 + 8 * v)) }
    let acked := if bit n 13 then takeAck port (bits n 11 0) credited else credited
    if bit n 12 then takeNak port (bits n 11 0) acked else acked) := by
  change execLinkCtlReceived t port fields s = _
  rw [execLinkCtlReceived, upRow_runs hl hu]

/-- 4 µs without progress replay what is held (R476). -/
theorem execReplayTimer_late (hr : (s.plink port).replay ≠ []) (hn : (s.plink port).progressAt + 4000 ≤ (advance t s).now) :
    exec (.replayTimer t port) s = .next (replayAttempt port (advance t s)) :=
  (event_runs hl).trans (congrArg _ (if_pos ⟨hu, hr, hn⟩))

/-- 1 µs without a LINK_CTL sends one (R474). -/
theorem execAckTimer_late (hn : (s.plink port).lastTx + 1000 ≤ (advance t s).now) :
    exec (.ackTimer t port) s = .next (sendCtl port false false (advance t s)) :=
  (event_runs hl).trans (congrArg _ (if_pos ⟨hu, hn⟩))

section
variable (hw : s.fw.state = .ready)
include hw

/-- A row that the fabric manager takes, which runs while Acrega is READY. -/
theorem fwMsgRow_runs {f : State → State} :
    event t (fun s => if (s.plink port).state ≠ .up ∨ s.fw.state ≠ .ready then s else f s) s = .next (f (advance t s)) :=
  (event_runs hl).trans (congrArg _ (if_neg (not_or.2 ⟨not_not.2 hu, not_not.2 hw⟩)))

/-- The master notes a chip that confirms for the first time (R504; assumption log 45). -/
theorem execFwMsgReceived_confirm {chip : Fin 16} {r : Reroute} (hr : s.reroute = some r) (hm : r.master = true)
    (hc : chip.val ∉ r.confirmed) : exec (.fwMsgReceived t port (.confirm chip)) s =
      .next { advance t s with reroute := some { r with confirmed := chip.val :: r.confirmed } } := by
  change execFwMsgReceived t port (.confirm chip) s = _
  rw [execFwMsgReceived, fwMsgRow_runs hl hu hw]
  simp only [advance_reroute, hr, hm, List.contains_eq_mem, hc, decide_false, Bool.not_false, and_self, if_true]

/-- A device that is not the master notes the switch that the master names (R504; assumption log 45). -/
theorem execFwMsgReceived_switchAt {stc : BitVec 32} {r : Reroute} (hr : s.reroute = some r) (hm : r.master = false) :
    exec (.fwMsgReceived t port (.switchAt stc)) s =
      .next { advance t s with reroute := some { r with switchStc := some stc } } := by
  change execFwMsgReceived t port (.switchAt stc) s = _
  rw [execFwMsgReceived, fwMsgRow_runs hl hu hw]
  simp only [advance_reroute, hr, hm, Bool.false_eq_true, if_false]

/-- A sound table goes into the version not in force (R504; assumption log 45). -/
theorem execFwMsgReceived_newTable {image : List Byte} (hi : routesOk s.chip (fit 192 image) = true) :
    exec (.fwMsgReceived t port (.newTable image)) s = .next
      { (advance t s).modFabric (fun f =>
          { f with versions := f.versions.set (1 - s.fabric.epoch) (parseRoutes (fit 192 image)) })
        with reroute := some { port := port, version := 1 - s.fabric.epoch, switchStc := none, confirmed := [],
                               misses := 0, master := false } } :=
  (fwMsgRow_runs hl hu hw).trans (congrArg _ (if_pos hi))

end
end
end

/-- Settles O42, row by row; what a firmware message carries is the model's choice (assumption log 45), and the numbering and the
acknowledgement of frames are read as in assumption log 46. -/
theorem linkFramesTakeEffect : Obligations.LinkFramesTakeEffect := by
  unfold Obligations.LinkFramesTakeEffect
  intro t port seq h0 h1 rest fields k f g stc chip cp r image s hl hu
  dsimp only
  refine ⟨execLinkFrameReceived_damaged hl hu, execLinkFrameReceived_next hl hu, execLinkFrameReceived_ahead hl hu,
    execLinkFrameReceived_older hl hu, execLinkCtlReceived_takes hl hu, execReplayTimer_late hl hu, execAckTimer_late hl hu,
    fun hf => ?_,
    fun hw => ⟨fwMsgRow_runs hl hu hw, fwMsgRow_runs hl hu hw, fwMsgRow_runs hl hu hw, execFwMsgReceived_confirm hl hu hw,
      execFwMsgReceived_switchAt hl hu hw, execFwMsgReceived_newTable hl hu hw⟩,
    fun hr hw => execBootPush_checks hl hr hw hu⟩
  rw [execAbortReceived_takes hl hf]
  refine ⟨fun hn => congrArg _ (if_neg (Bool.eq_false_iff.1 hn)), fun hn hg => ?_, fun hn hg => ?_⟩
  · exact congrArg _ ((if_pos hn).trans (by rw [floodReceived, hg]))
  · exact congrArg _ ((if_pos hn).trans (by rw [floodReceived, hg]))

end Sys2Proof.Machine

/-! ## ECC regions -/

namespace Sys2Proof.Machine

@[simp] theorem accepted_dram (seq : Nat) (t : Instant) (s : State) : (accepted seq t s).dram = s.dram := rfl

/-- The checks that both forms of ECC_REGION_SET share pass in STOPPED (Table 4.9). -/
theorem eccChecks_pass {e : Entry} {s : State} (hz : unusedZero e [(17, 2), (24, 16)] = true) (hk : efld e 17 1 ≤ 7)
    (hon : efld e 18 1 ≤ 1) (hs : s.tick.state = .stopped) :
    ∀ x ∈ [layout e [(17, 2), (24, 16)], badIf (decide (7 < efld e 17 1)), badIf (decide (1 < efld e 18 1)),
      (decide (s.tick.state ≠ .stopped), .badState)], x.1 = false := by
  simp [hz, hk, hon, hs]

section
variable {t : Instant} {r : RingRef} {e : Entry} {seq : Nat} {c : Cmd} {s : State} (h : Accepts 0x0408 t r e seq c s)
  (hz : unusedZero e [(17, 2), (24, 16)] = true) (hk : efld e 17 1 ≤ 7) (hs : s.tick.state = .stopped)
include h hz hk hs

/-- An ECC region over a free aligned range of DRAM is enabled in STOPPED (R512, R513). -/
theorem execEccRegionSet_enables (hon : efld e 18 1 = 1) (ha : efld e 24 8 % 2 ^ 23 = 0) (hn : efld e 32 8 % 2 ^ 23 = 0)
    (hd : inDram (accepted seq t s) (efld e 24 8) (efld e 32 8) = true) (hfree : tget s.dram.ecc (efld e 17 1) = none)
    (hb : hitsBacking (accepted seq t s) (efld e 24 8) (efld e 32 8) = false)
    (hr : hitsTallyRing (accepted seq t s) (efld e 24 8, efld e 32 8) = false)
    (ho : (s.dram.ecc.any fun p => decide (p.1 ≠ efld e 17 1) && overlap (efld e 24 8, efld e 32 8) p.2) = false) :
    exec (.eccRegionSet t r e) s = .next (settle (done seq
      (enableEcc (efld e 17 1) (efld e 24 8, efld e 32 8) (accepted seq t s)))) := by
  refine next_settle_trans (command_runs h (List.forall_mem_append.2 ⟨eccChecks_pass hz hk (by omega) hs, ?_⟩)) (if_pos hon)
  rw [if_pos hon]
  simpa [hd, thas, hfree] using ⟨⟨ha, hn⟩, hb, hr, by simpa using ho⟩

/-- An ECC region that is enabled is removed in STOPPED (R512). -/
theorem execEccRegionSet_disables {q : Nat × Nat} (hoff : efld e 18 1 = 0) (ha : efld e 24 8 = 0) (hn : efld e 32 8 = 0)
    (hq : tget s.dram.ecc (efld e 17 1) = some q) :
    exec (.eccRegionSet t r e) s = .next (settle (done seq (disableEcc (efld e 17 1) q (accepted seq t s)))) := by
  have hne : efld e 18 1 ≠ 1 := by omega
  refine next_settle_trans (command_runs h (List.forall_mem_append.2 ⟨eccChecks_pass hz hk (by omega) hs, ?_⟩))
    ((if_neg hne).trans ?_)
  · rw [if_neg hne]
    simp [ha, hn, thas, hq]
  · simp only [accepted_dram, hq]

end

/-- Settles O11, by the two forms of the command. -/
theorem eccRegionSetTakesEffect : Obligations.EccRegionSetTakesEffect := by
  unfold Obligations.EccRegionSetTakesEffect
  intro t r e q seq c s
  dsimp only
  intro h hz hk hs
  refine ⟨execEccRegionSet_enables h hz hk hs, fun hoff hx hq => ?_⟩
  obtain ⟨ha, hn⟩ := Prod.mk.inj hx
  exact execEccRegionSet_disables h hz hk hs hoff ha hn hq

end Sys2Proof.Machine

/-! ## The rows of external memory -/

namespace Sys2Proof.Machine

section
variable (t : Instant) (s : State)
@[simp] theorem dramServes_advance (x n : Nat) : dramServes (advance t s) x n = dramServes s x n := rfl
@[simp] theorem clientMayWrite_advance (x n : Nat) : clientMayWrite (advance t s) x n = clientMayWrite s x n := rfl
@[simp] theorem readerActive_advance (x : Nat) (r : DramReader) :
    readerActive (advance t s) x r = readerActive s x r := by cases r <;> rfl
@[simp] theorem noWindows_advance : noWindows (advance t s) = noWindows s := rfl
@[simp] theorem inStandby_advance : (advance t s).inStandby = s.inStandby := rfl
@[simp] theorem eccRows_advance : eccRows (advance t s) = eccRows s := rfl
@[simp] theorem eccRowAddr_advance (k : Nat) : eccRowAddr (advance t s) k = eccRowAddr s k := rfl
end

/-- A client may write where DRAM serves, outside check areas and backing ranges (R241, R514). -/
theorem clientMayWrite_iff {s : State} {x n : Nat} : clientMayWrite s x n = true ↔
    dramServes s x n = true ∧ hitsCheck s x n = false ∧ hitsBacking s x n = false := by
  simp [clientMayWrite, and_assoc]

theorem clientMayWrite_of_protected {s : State} {x n : Nat} (h : hitsCheck s x n = true ∨ hitsBacking s x n = true) :
    clientMayWrite s x n = false := by
  rcases h with h | h <;> simp [clientMayWrite, h]

/-- Where no packet is in the fabric, no client access waits at a channel. -/
theorem channelIdle_of_no_packets {s : State} (h : s.fabric.packets = []) (x : Nat) : channelIdle s x = true := by
  simp [channelIdle, firstAt, h]

section
variable {t : Instant} {s : State} (hl : s.alive = true)
include hl

section
variable {x : Nat} {found : SectorCheck} {reader : DramReader} (hd : dramServes s x 64 = true)
  (ha : readerActive s x reader = true)
include hd ha

/-- A read of a sector that leaves no node without data does what the read of the sector does (Table 14.1): by `hn` the row's
branch for a node without data is out. -/
theorem execDramSectorRead_reads
    (hn : ∀ m, (readSector x found (readerCode reader) false (advance t s)).2 = none → reader ≠ .node m) :
    exec (.dramSectorRead t x found reader) s =
      .next (readSector x found (readerCode reader) false (advance t s)).1 := by
  change execDramSectorRead t x found reader s = _
  rw [execDramSectorRead, event_runs hl]
  simp only [dramServes_advance, readerActive_advance, hd, ha, Bool.and_self, if_true]

/-- A node that reads a poisoned sector is marked (R517). -/
theorem execDramSectorRead_marks {n : NodeRef} (hr : reader = .node n)
    (hp : (readSector x found (readerCode reader) false (advance t s)).2 = none) :
    exec (.dramSectorRead t x found reader) s = .next (markNode (refKey n.graph) n.node 0x04 (detailSector x) none
      (readSector x found (readerCode reader) false (advance t s)).1) := by
  subst hr
  change execDramSectorRead t x found (.node n) s = _
  rw [execDramSectorRead, event_runs hl]
  simp only [dramServes_advance, readerActive_advance, hd, ha, hp, Bool.and_self, if_true]

end

section
variable {x : Nat} {d : List Byte}

/-- A full write is one of its sector where a client may write, and changes nothing elsewhere (R241, R514, R519). -/
theorem execDramFullWrite_eq : exec (.dramFullWrite t x d) s =
    .next (if clientMayWrite s x 64 then writeSector x d (advance t s) else advance t s) :=
  event_runs hl

variable {found : SectorCheck}

/-- A partial write that no node asks for (R520). -/
theorem execDramPartialWrite_unasked (hw : clientMayWrite s x d.length = true) :
    exec (.dramPartialWrite t x d found none) s = .next (partialWrite x d found (advance t s)).1 := by
  change execDramPartialWrite t x d found none s = _
  rw [execDramPartialWrite, event_runs hl]
  simp only [clientMayWrite_advance, hw, if_true]
  cases (partialWrite x d found (advance t s)).2 <;> rfl

/-- A partial write of a node, which a refusal faults (R520). -/
theorem execDramPartialWrite_node {n : NodeRef} (hw : clientMayWrite s x d.length = true) :
    exec (.dramPartialWrite t x d found (some n)) s = .next (
      let w := partialWrite x d found (advance t s)
      if w.2 then immediateFault (refKey n.graph) n.node 0x08 (detailSector x) w.1 else w.1) := by
  change execDramPartialWrite t x d found (some n) s = _
  rw [execDramPartialWrite, event_runs hl]
  simp only [clientMayWrite_advance, hw, if_true]
  cases (partialWrite x d found (advance t s)).2 <;> rfl

/-- A partial write changes nothing where no client may write (R241, R514). -/
theorem execDramPartialWrite_idle {writer : Option NodeRef} (hw : clientMayWrite s x d.length = false) :
    exec (.dramPartialWrite t x d found writer) s = .next (advance t s) := by
  change execDramPartialWrite t x d found writer s = _
  rw [execDramPartialWrite, event_runs hl]
  simp only [clientMayWrite_advance, hw, Bool.false_eq_true, if_false]

end

section
variable (ht : s.boot.dramTrained = true) (ha : s.inStandby = false)
include ht ha

/-- A refresh of trained DRAM is counted at its channel (R523). -/
theorem execDramRefresh_counts {ch : Fin 4} : exec (.dramRefresh t ch) s =
    .next ((advance t s).modDram fun m => { m with channels := lmod m.channels ch.val fun c =>
      { c with counts := { c.counts with refreshes := c.counts.refreshes + 1 } } }) := by
  change execDramRefresh t ch s = _
  rw [execDramRefresh, event_runs hl]
  simp only [advance_boot, inStandby_advance, ht, ha, Bool.not_false, Bool.and_self, if_true]

/-- A channel retrains 10 ms after the step before, while no window opens (R526). -/
theorem execIdleRetrainTimer_late {drift : Bool} (hn : noWindows s = true) (hw : s.tick.window = none)
    (hr : s.dram.retrainAt + 10000000 ≤ (advance t s).now) :
    exec (.idleRetrainTimer t drift) s = .next (retrainStep drift (advance t s)) := by
  have hr' : (advance t s).dram.retrainAt + 10000000 ≤ (advance t s).now := hr
  change execIdleRetrainTimer t drift s = _
  rw [execIdleRetrainTimer, event_runs hl]
  simp only [advance_boot, inStandby_advance, noWindows_advance, advance_tick, ht, ha, hn, hw, hr', Option.isNone_none,
    decide_true, Bool.not_false, Bool.and_self, if_true]

end

/-- Scrub reads its next row, which is not the last one, where no client waits and no window is open (R524, R586, R678). -/
theorem execDramScrubRead_idle {l : List SectorCheck} (hw : s.tick.window = none) (hp : s.fabric.packets = [])
    (hk : s.dram.scrubNext + 1 < eccRows s) (hd : dramServes s (eccRowAddr s s.dram.scrubNext) 512 = true) :
    exec (.dramScrubRead t l) s = .next (scrubSectors (eccRowAddr s s.dram.scrubNext) 8 l (State.modPower
      ((advance t s).modDram fun m => { m with scrubNext := s.dram.scrubNext + 1, scrubDone := m.scrubDone + 1 })
      fun p => { p with dramScrub := p.dramScrub + 1, dramPromoted := p.dramPromoted + 0 })) := by
  have hrow : s.dram.scrubNext < eccRows s := by omega
  have hsome : eccRows s ≠ 0 := by omega
  have hlast : s.dram.scrubNext + 1 ≠ eccRows s := by omega
  have hidle := channelIdle_of_no_packets (s := advance t s) hp
  have hturn := scrubTurn_closed (s := advance t s) (done := s.dram.scrubDone) (quota := dramQuota (advance t s)) hw
  change execDramScrubRead t l s = _
  rw [execDramScrubRead, event_runs hl]
  simp only [eccRows_advance, eccRowAddr_advance, dramServes_advance, advance_dram, hrow, hsome, hlast, hd, hidle, hturn,
    Bool.true_eq_false, Bool.and_self, or_self, if_true, if_false]
  rfl

/-- A channel that ends its full training is in training no more, is counted, and the event tells how long it took (R527). -/
theorem execDramFullTrainingEnd_ends {ch : Fin 4} {since : Instant}
    (hc : (s.dram.channels.getD ch.val .reset).training = some since) : exec (.dramFullTrainingEnd t ch) s =
      .next (postAll clsMemory 0x106 (detail [(0, ch.val), (16, ((advance t s).now - since) / 1000 % 65536)])
        ((advance t s).modDram fun m => { m with channels := lmod m.channels ch.val fun c =>
          { c with training := none, counts := { c.counts with trainings := c.counts.trainings + 1 } } })) := by
  change execDramFullTrainingEnd t ch s = _
  rw [execDramFullTrainingEnd, event_runs hl]
  simp only [advance_dram, hc]

end

/-- Settles O38, row by row. -/
theorem dramRowsTakeEffect : Obligations.DramRowsTakeEffect := by
  unfold Obligations.DramRowsTakeEffect
  intro t x found l n reader d ch drift since s hl
  dsimp only
  refine ⟨fun hd ha => ⟨execDramSectorRead_reads hl hd ha, fun hp hr => execDramSectorRead_marks hl hd ha hr hp⟩,
    fun hd hc hb => ?_, fun hd hc hb => ?_, fun hx => ?_, fun hx => ?_,
    fun ht ha => ⟨execDramRefresh_counts hl ht ha, execIdleRetrainTimer_late hl ht ha⟩, execDramScrubRead_idle hl,
    execDramFullTrainingEnd_ends hl⟩
  · rw [execDramFullWrite_eq hl, if_pos (clientMayWrite_iff.2 ⟨hd, hc, hb⟩)]
  · have hw := clientMayWrite_iff.2 ⟨hd, hc, hb⟩
    exact ⟨execDramPartialWrite_unasked hl hw,
      fun hr => (execDramPartialWrite_node hl hw).trans (congrArg _ (if_neg (Bool.eq_false_iff.1 hr))),
      fun hr => (execDramPartialWrite_node hl hw).trans (congrArg _ (if_pos hr))⟩
  · rw [execDramFullWrite_eq hl, if_neg (Bool.eq_false_iff.1 (clientMayWrite_of_protected hx))]
  · have hw := clientMayWrite_of_protected hx
    exact ⟨execDramPartialWrite_idle hl hw, execDramPartialWrite_idle hl hw⟩

/-- Settles O39: the row writes its sector, and the bytes, the Loft and the poison are those that a full write of a sector
leaves. -/
theorem dramWriteStoresItsSector : Obligations.DramWriteStoresItsSector := by
  unfold Obligations.DramWriteStoresItsSector
  intro t x d s u hl ⟨_, hwf⟩ hd hc hb hlen hu
  rw [execDramFullWrite_eq hl, if_pos (clientMayWrite_iff.2 ⟨hd, hc, hb⟩)] at hu
  cases hu
  obtain ⟨hmem, hpoison, hloft⟩ := writeSector_mem x d (advance t s)
  rw [hmem, hpoison, hloft, fit_self hlen]
  refine ⟨fun k hk => Mem.get_write_inside d hwf (hlen ▸ hk), fun a ha => Mem.get_write_outside d hwf (hlen ▸ ha), rfl,
    fun k => ?_⟩
  simp only [advance_dram, List.mem_filter, decide_eq_true_eq]

end Sys2Proof.Machine

/-! ## Result rings: commands, the head doorbell, egress -/

namespace Sys2Proof.Machine

section
variable (t : Instant) (s : State)
@[simp] theorem advance_resultRing (n m : Nat) : (advance t s).resultRing n m = s.resultRing n m := rfl
@[simp] theorem accepted_resultRing (seq n m : Nat) : (accepted seq t s).resultRing n m = s.resultRing n m := rfl
@[simp] theorem egressGrant_advance : egressGrant (advance t s) = egressGrant s := rfl
end

/-! ### RESULT_RING_CREATE and RESULT_RING_DELETE -/

/-- Settles O20: both commands pass their checks. -/
theorem resultRingCommandsTakeEffect : Obligations.ResultRingCommandsTakeEffect := by
  unfold Obligations.ResultRingCommandsTakeEffect
  intro t r e seq c s
  dsimp only
  refine ⟨fun h hz hn hm hd hv hc hc' ht ha ha' hp hp' hfree => ?_, fun h hz hn hm hr hg => ?_⟩
  · refine command_runs h ?_
    simp [badTenant, hz, hn, hm, hd, hv, Nat.ne_of_gt hc, hc', ht, ha, ha', Nat.ne_of_gt hp, hp', hfree]
  · refine command_runs h ?_
    simp [badTenant, hz, hn, hm, hg, Option.isNone_eq_false_iff, hr]

/-! ### RESULT_HEAD_DOORBELL -/

section
variable {f m i : Nat} {g : ResultRing} {s : State}

/-- A result head write for a ring that does not exist changes nothing (R532). -/
theorem writeResultHead_absent (hg : s.resultRing f m = none) : writeResultHead f m i s = s := by
  simp only [writeResultHead, hg]

/-- A result head write is valid if it releases no more descriptors than have been written (R532). -/
theorem writeResultHead_present (hg : s.resultRing f m = some g) : writeResultHead f m i s =
    if i < 2 ^ (g.descLog + 4) ∧
        (i + 2 ^ (g.descLog + 4) - g.head) % 2 ^ (g.descLog + 4) + unsentDescriptors s f m ≤ g.live.length then
      s.modResultRing f m fun x =>
        { x with head := i, live := x.live.drop ((i + 2 ^ (g.descLog + 4) - g.head) % 2 ^ (g.descLog + 4)) }
    else s := by
  rw [writeResultHead, hg]
  rfl

end

/-- A result head doorbell is the transaction of the host that writes the head it carries (R532). -/
theorem execResultHeadDoorbell_runs {t : Instant} {f : Fin 4} {m : Fin 64} {v : BitVec 32} {s : State}
    (hl : s.alive = true) (he : s.boot.endpointReady = true) : exec (.resultHeadDoorbell t f m v) s =
      .next (writeResultHead f m (v.toNat % 4096) { advance t s with linkUp := true }) := by
  change execResultHeadDoorbell t f m v s = _
  rw [execResultHeadDoorbell, hostRow_runs hl he, bits_doorbell]

/-- Settles O24: the doorbell finds no ring, or the ring takes the head or refuses it. -/
theorem resultHeadDoorbellTakesEffect : Obligations.ResultHeadDoorbellTakesEffect := by
  unfold Obligations.ResultHeadDoorbellTakesEffect
  intro t f m v g s hl he
  dsimp only
  rw [execResultHeadDoorbell_runs hl he]
  refine ⟨fun hg => congrArg _ (writeResultHead_absent hg), fun hg hi hn => congrArg _ ?_, fun hg hno => congrArg _ ?_⟩
  · exact (writeResultHead_present (s := { advance t s with linkUp := true }) hg).trans (if_pos ⟨hi, hn⟩)
  · exact (writeResultHead_present (s := { advance t s with linkUp := true }) hg).trans (if_neg hno)

/-! ### Egress -/

/-- A page is granted where its rows win the arbitration of their stalls, and else is tried again (R227 to R229). -/
theorem tryPage_of_grantRow {n m row : Nat} {flaws : List (Nat × Flips)} {s : State} (hr : grantRow s n m = some row) :
    tryPage n m flaws s =
      let p := passStalls .node (2 ^ 48) [(row, 8)] s
      if p.2 then grantPage n m flaws (p.1.modEgress fun e => { e with lastTenant := n }) else p.1 := by
  simp only [tryPage, hr]

section
variable {t : Instant} {s : State} (hl : s.alive = true)
include hl

section
variable {flaws : List (Nat × Flips)} {credits : Bool}

/-- With no page ready, EGRESS_PAGE_GRANT only sends what waits in the endpoint (R540). -/
theorem execEgressPageGrant_none (hg : egressGrant s = none) :
    exec (.egressPageGrant t flaws credits) s = .next (sendQueued credits (advance t s)) := by
  change execEgressPageGrant t flaws credits s = _
  rw [execEgressPageGrant, event_runs hl]
  simp only [egressGrant_advance, hg]

/-- The tenant whose turn it is gets a page while fewer than 8 wait in the endpoint (R540). -/
theorem execEgressPageGrant_some {n m : Nat} (hg : egressGrant s = some (n, m)) :
    exec (.egressPageGrant t flaws credits) s =
      .next (sendQueued credits (if queuedPages s < 8 then tryPage n m flaws (advance t s) else advance t s)) := by
  change execEgressPageGrant t flaws credits s = _
  rw [execEgressPageGrant, event_runs hl]
  simp only [egressGrant_advance, hg]
  exact congrArg _ (apply_ite ..).symm

end

section
variable {f : Fin 4} {ring : Fin 64} {g : ResultRing} (hg : s.resultRing f ring = some g)
include hg

/-- A front result with no page left to write, on a ring that has a slot for it, gets its descriptor (R541 to R543). -/
theorem execEgressDescriptor_queues {credits : Bool} {r : Result} {l : List Result} (hq : g.queue = r :: l)
    (hf : g.frozen = false) (hp : r.pages = []) (hs : r.started = true ∨ g.slotFree = true) :
    exec (.egressDescriptor t f ring credits) s =
      .next (sendQueued credits (queueDescriptor f ring (advance t s))) := by
  change execEgressDescriptor t f ring credits s = _
  rw [execEgressDescriptor, event_runs hl]
  simp [hg, hq, hf, hp, hs]

/-- A descriptor that has waited RES_TIME is signalled (R551). -/
theorem execResultModerationTimer_signals {o : Instant} (ho : g.oldest = some o)
    (hdue : o + 1000 * g.resTimeUs ≤ (advance t s).now) : exec (.resultModerationTimer t f ring) s =
      .next (sendVector f g.vector
        ((advance t s).modResultRing f ring fun g => { g with unsignalled := 0, oldest := none })) := by
  change execResultModerationTimer t f ring s = _
  rw [execResultModerationTimer, event_runs hl]
  simp only [advance_resultRing, hg, ho, if_pos hdue]

end

end

/-- Settles O44, row by row; a grant goes by what becomes of the page it tries. -/
theorem egressRowsTakeEffect : Obligations.EgressRowsTakeEffect := by
  unfold Obligations.EgressRowsTakeEffect
  intro t flaws credits n m row f ring g r l o s hl
  dsimp only
  refine ⟨execEgressPageGrant_none hl, fun hg hq hr => ?_, fun hg hq => ?_,
    fun hg hq hf hp hs => execEgressDescriptor_queues hl hg hq hf hp hs,
    fun hg ho hdue => execResultModerationTimer_signals hl hg ho hdue⟩
  · rw [execEgressPageGrant_some hl hg, if_pos hq, tryPage_of_grantRow (s := advance t s) hr]
    exact ⟨fun hp => by rw [if_pos hp], fun hp => by rw [if_neg (Bool.eq_false_iff.1 hp)]⟩
  · rw [execEgressPageGrant_some hl hg, if_neg (Nat.not_lt.2 hq)]

end Sys2Proof.Machine

/-! ## What runs on from step to step -/

namespace Sys2Proof.Machine

/-- Settles O52: a sound state is good from its own fuses, device time and queue on, and every command keeps it good. -/
theorem fusesStandAndTimeRuns : Obligations.FusesStandAndTimeRuns := by
  unfold Obligations.FusesStandAndTimeRuns
  intro c s u hs hu
  have h := exec_good hs.good u hu
  refine ⟨h.queue, h.grade, h.serial, h.keyHash, h.rollback, ?_⟩
  have ht : timeFloor s.now c ≤ u.now := h.time
  split
  · trivial
  · trivial
  · trivial
  · trivial
  · simpa [timeFloor] using ht

end Sys2Proof.Machine

/-! ## Pins and resets -/

namespace Sys2Proof.Machine

/-- Settles O60: both rows look at TEST_EN before anything else. -/
theorem testEnableStops : Obligations.TestEnableStops := by
  unfold Obligations.TestEnableStops
  exact fun t aon core io v18 width sel s => ⟨rfl, rfl⟩

section
variable {t : Instant} {sel : BitVec 2} {width : Bool} {s : State}

/-- PERST_N that is low and rises with every power-good input high starts the boot ROM (R626, R631). -/
theorem releaseReset_starts (ha : s.pins.pwrgdAon = true) (hc : s.pins.pwrgdCore = true) (hi : s.pins.pwrgdIo = true)
    (hp : s.pins.perstN = false) : releaseReset sel width s = startRom { s with
      now := 0, pins := { s.pins with perstN := true, bootSel := sel, pcieWidth := width } } :=
  if_pos (by simp [ha, hc, hi, hp])

/-- PERST_N that is high already does not rise. -/
theorem releaseReset_high (hp : s.pins.perstN = true) : releaseReset sel width s = s :=
  if_neg (by simp [hp])

/-- With clocks running the row makes the warm reset that is due. -/
theorem execWarmReset_runs (hl : s.alive = true) : exec (.warmReset t sel) s =
    .next (if s.fw.resetDue then warmReset sel (advance t s) else advance t s) :=
  event_runs (f := fun s => if s.fw.resetDue then warmReset sel s else s) hl

end

/-- Settles O46, row by row. -/
theorem resetRowsTakeEffect : Obligations.ResetRowsTakeEffect := by
  unfold Obligations.ResetRowsTakeEffect
  intro t aon core io v18 width sel i s
  dsimp only
  refine ⟨rfl, rfl, fun ha hc hi hp => ?_, fun hp => ?_, fun hl hd => ?_, fun hl hd => ?_, rfl⟩
  · exact congrArg Host.Outcome.next (releaseReset_starts (s := advance t s) ha hc hi hp)
  · exact congrArg Host.Outcome.next (releaseReset_high (s := advance t s) hp)
  · rw [execWarmReset_runs hl, if_pos hd]
  · rw [execWarmReset_runs hl, if_neg (Bool.eq_false_iff.1 hd)]

end Sys2Proof.Machine

/-! ## Heat, power states and the Tally ring -/

namespace Sys2Proof.Machine

/-- What a change of power state does to the device besides the state itself (R594, R596). -/
def powerEffect : PowerState → State → State
  | .standbyRetain, u => standbyOff u
  | .standby, u => loseLoft (standbyOff u)
  | _, u => trainAll u

section
variable {t : Instant} {s : State}

/-- The always-on block samples while its supply is good (R597, R601). -/
theorem execThermalSample_on {readings : List Int} (hp : s.pins.pwrgdAon = true) :
    exec (.thermalSample t readings) s = .next (takeSample readings (advance t s)) :=
  congrArg _ (if_pos hp)

/-- Without the always-on supply nothing is sampled. -/
theorem execThermalSample_off {readings : List Int} (hp : s.pins.pwrgdAon = false) :
    exec (.thermalSample t readings) s = .next (advance t s) :=
  congrArg _ (if_neg (Bool.eq_false_iff.1 hp))

/-- A device that has not tripped trips (R601). -/
theorem execThermtrip_trips (hp : s.pins.pwrgdAon = true) (ht : s.pins.thermtrip = false) : exec (.thermtrip t) s =
    .next (idleLinks (haltPins (emit (.pin .thermtripN false)
      { advance t s with pins := { s.pins with thermtrip := true } }))) :=
  congrArg _ (if_pos ⟨hp, ht⟩)

/-- Without the always-on supply, or tripped already, it does not trip (R601). -/
theorem execThermtrip_idles (h : s.pins.pwrgdAon = false ∨ s.pins.thermtrip = true) :
    exec (.thermtrip t) s = .next (advance t s) :=
  congrArg _ (if_neg fun ⟨hp, ht⟩ => h.elim (Bool.eq_false_iff.1 · hp) (Bool.eq_false_iff.1 ht))

section
variable (hl : s.alive = true)
include hl

/-- While no window opens, the level is evaluated again after 1 ms (R598). -/
theorem execThermalEvaluation_due (hn : noWindows s = true) (he : s.power.evaluated + 1000000 ≤ (advance t s).now) :
    exec (.thermalEvaluation t) s = .next (evaluateHeat (advance t s)) :=
  (event_runs hl).trans (congrArg _ (if_pos ⟨hn, he⟩))

/-- Acrega carries out a change of power state, so its end waits for Acrega (assumption log 54). -/
theorem execPowerStateChangeEnd_away (h : s.fw.crashed = true ∨ s.fw.state ≠ .ready) :
    exec (.powerStateChangeEnd t) s = .next (advance t s) := by
  change execPowerStateChangeEnd t s = _
  rw [execPowerStateChangeEnd, event_runs hl]
  cases hj : (advance t s).power.job with
  | none => rfl
  | some j => exact congrArg _ (if_pos h)

/-- With Acrega there, a change of power state ends with its effects and its completion (R594, R596). -/
theorem execPowerStateChangeEnd_ends {j : PowerJob} (hj : s.power.job = some j) (hc : s.fw.crashed = false)
    (hr : s.fw.state = .ready) : exec (.powerStateChangeEnd t) s = .next (settle (finish j.cmd .ok 0
      (setPower j.target (powerEffect j.target ((advance t s).modPower fun x => { x with job := none }))))) := by
  change execPowerStateChangeEnd t s = _
  rw [execPowerStateChangeEnd, event_runs hl]
  simp only [show (advance t s).power.job = some j from hj]
  rw [if_neg (by simp [hc, hr])]
  cases j.target <;> rfl

/-- An overflow episode ends once 4 KiB of the FIFO are free (R616, R619). -/
theorem execTallyOverflowResume_resumes {lost : Nat} (hp : (tracePort (advance t s)).tally.episode = some lost)
    (hf : (tracePort (advance t s)).tally.fifo.length + 4096 ≤ tallyFifo) :
    exec (.tallyOverflowResume t) s = .next (tallySync (tallyBytes (0x50 :: le 4 (min lost 0xFFFFFFFF))
      ((tracePort (advance t s)).modTally fun t => { t with episode := none }))) := by
  change execTallyOverflowResume t s = _
  rw [execTallyOverflowResume, event_runs hl]
  simp only [hp, if_pos hf]

/-- Rows that may be written now: Tally sends a packet of as many as its ring has left, up to the row named; with none left it
is FULL, and a packet that its port does not take waits (R612, R617; assumption log 85). -/
theorem execTallyRingWrite_writes {c : TallyConfig} {last : Fin 8} {v : State} (hv : tracePort (advance t s) = v)
    (hc : s.tally.config = some c) (hr : c.ring = true) (hf : v.tally.state ≠ .full)
    (hrow : 512 ≤ v.tally.fifo.length - v.tally.ringTaken) (ht : ringTime v = true) (hs : v.inStandby = false)
    (hw : v.tally.lastWrite = none) : exec (.tallyRingWrite t last) s = .next (
      let off := if c.stopWhenFull then v.tally.ringPos else v.tally.ringPos % c.ringSize
      let n := min (min ((v.tally.fifo.length - v.tally.ringTaken) / 512) (last.val + 1)) ((c.ringSize - off) / 512)
      let sent := sendRing (c.ringBase + off) ((v.tally.fifo.drop v.tally.ringTaken).take (512 * n)) v
      if n = 0 then v.modTally fun t => ({ t with state := .full } : Tally).free
      else if sent.2 then sent.1.modTally fun t =>
        ({ t with ringTaken := t.ringTaken + 512 * n, ringPos := t.ringPos + 512 * n,
                  lastWrite := some v.now } : Tally).free
      else sent.1) := by
  have hn : (v.tally.fifo.length - v.tally.ringTaken) / 512 ≠ 0 := by omega
  change execTallyRingWrite t last s = _
  rw [execTallyRingWrite, event_runs hl]
  simp only [show (advance t s).tally.config = some c from hc, hv]
  rw [if_neg (by simp [hr, hf, hn, ht, hs, hw])]

end

end

/-- Settles O45, row by row. -/
theorem heatPowerAndTallyRowsTakeEffect : Obligations.HeatPowerAndTallyRowsTakeEffect := by
  unfold Obligations.HeatPowerAndTallyRowsTakeEffect
  intro t readings j c lost last s
  dsimp only
  refine ⟨execThermalSample_on, fun hp => ⟨execThermalSample_off hp, execThermtrip_idles (.inl hp)⟩, execThermtrip_trips,
    fun ht => execThermtrip_idles (.inr ht), execThermalEvaluation_due, execPowerStateChangeEnd_away,
    fun hl hj hc hr => ?_, fun hl hc hr hf hrow ht hs hw => ?_, fun hl hp hf => execTallyOverflowResume_resumes hl hp hf⟩
  · rw [execPowerStateChangeEnd_ends hl hj hc hr]
    refine ⟨fun h => by rw [h]; rfl, fun h => by rw [h]; rfl, fun h => ?_⟩
    rcases h with h | h <;> rw [h] <;> rfl
  · rw [execTallyRingWrite_writes hl rfl hc hr hf hrow ht hs hw]
    dsimp only
    exact ⟨fun h => by rw [if_pos h], fun h hq => by rw [if_neg h.ne', if_pos hq],
      fun h hq => by rw [if_neg h.ne', if_neg (Bool.eq_false_iff.1 hq)]⟩

end Sys2Proof.Machine

/-! ## The BAR2 window -/

namespace Sys2Proof.Machine

/-- Bytes of a single row touch that row only. -/
theorem rowsOfRange_one {x n : Nat} (hn : 1 ≤ n) (h : x % 512 + n ≤ 512) : rowsOfRange x n = [x / 512] := by
  have hc : (x + n + 511) / 512 - x / 512 = 1 := by omega
  simp [rowsOfRange, hc]

/-- A part of a row of zeros is zeros. -/
theorem slice_replicate_zero {m off n : Nat} (h : off + n ≤ m) :
    slice (List.replicate m (0 : Byte)) off n = List.replicate n 0 := by
  have hm : min n (m - off) = n := by omega
  simp [slice, hm]

/-- A read in progress of bytes of one row. -/
def HeldRead.OfRow (h : HeldRead) (row : Nat) : Prop :=
  1 ≤ h.len ∧ h.offset / 512 = row ∧ h.offset % 512 + h.len ≤ 512 ∧ h.got = []

/-- A BAR2 read of bytes of one row completes once that row has been read, with its bytes, and changes nothing else but the
records of the Loft, which keeps its own bytes and its regions (R262). -/
theorem takeBar2_completes {k row : Nat} {d : List Byte} {r : HeldRead} {s : State} (hk : tget s.loft.held k = some r)
    (hr : r.OfRow row) (l : Loft) :
    { takeBar2 k row (d, false) s with loft := l } =
        { emit (.reply r.fn (slice d (r.offset % 512) r.len) false) s with loft := l } ∧
      (takeBar2 k row (d, false) s).loft.mem = s.loft.mem ∧
      (takeBar2 k row (d, false) s).loft.regions = s.loft.regions := by
  obtain ⟨hlen, hrow, hin, hgot⟩ := hr
  have hrows : rowsOfRange r.offset r.len = [row] := hrow ▸ rowsOfRange_one hlen hin
  have hoff : max r.offset (512 * row) - 512 * row = r.offset % 512 := by omega
  have hn : min (r.offset + r.len) (512 * row + 512) - max r.offset (512 * row) = r.len := by omega
  have htake : takeBar2 k row (d, false) s = bar2Piece { r with got := tset r.got row (d, false) } row (d, false)
      (s.modLoft fun l => { l with held := tdel (tset s.loft.held k { r with got := tset r.got row (d, false) }) k }) := by
    simp [takeBar2, completeBar2, tmod_eq_tset hk, hrows, thas, State.modLoft]
  rw [htake]
  simp only [bar2Piece, hoff, hn]
  exact ⟨rfl, rfl, rfl⟩

/-- A HOST access of one row that a BAR2 read begins. -/
def bar2Access (k row : Nat) (now : Instant) : Access :=
  { cls := .host, client := 7, row := row, write := none, what := .bar2 k, since := now, lost := 0, seen := false }

/-- The read of a row without a detection or a refill gives a BAR2 read the row as it is stored (R262). -/
theorem rowAccess_bar2Access {k row : Nat} {now : Instant} {s : State} (hb : rowBad s row = false)
    (hf : thas s.loft.refills row = false) :
    rowAccess (bar2Access k row now) [] s = takeBar2 k row (storedRow s row, false) s := by
  simp [rowAccess, bar2Access, readAccess, hb, hf]

/-- A stall that has nothing else to grant serves such a read at once (R224, R227). -/
theorem offer_bar2Access {k row : Nat} {s : State} (hc : cycleFree s (stallOf row) = true)
    (hw : ready s (stallOf row) = []) (hb : rowBad s row = false) (hf : tget s.loft.refills row = none) :
    offer (bar2Access k row s.now) [] s =
      takeBar2 k row (storedRow s row, false) (loseCycle (stallOf row) (bar2Access k row s.now) s) := by
  have hidle : thas s.loft.refills row = false := by simp [thas, hf]
  have hgo : offer (bar2Access k row s.now) [] s =
      rowAccess (bar2Access k row s.now) [] (loseCycle (stallOf row) (bar2Access k row s.now) s) :=
    if_pos (by simp [bar2Access, hc, hw, hidle])
  exact hgo.trans (rowAccess_bar2Access hb hidle)

/-- No soft error is listed for a row. -/
theorem flipsOf_none {flaws : List (Nat × Flips)} {row : Nat} (h : ∀ p ∈ flaws, p.1 ≠ row) : flipsOf flaws row = [] := by
  have hn : flaws.filter (fun p => p.1 = row) = [] := List.filter_eq_nil_iff.2 fun p hp => by simpa using h p hp
  simp [flipsOf, hn]

/-- The Loft takes up a BAR2 read. -/
def holdBar2 (f offset n : Nat) (s : State) : State :=
  s.modLoft fun l =>
    { l with held := tset l.held l.nextRead { fn := f, offset := offset, len := n, got := [] }, nextRead := l.nextRead + 1 }

section
variable {t : Instant} {f : Fin 4} {offset : BitVec 29} {n : Nat} {flaws : List (Nat × Flips)} {s : State}
  (hl : s.alive = true) (he : s.boot.endpointReady = true)
include hl he

/-- In a Standby state a BAR2 read returns zeros (R595). -/
theorem execBar2Read_standby (hs : s.inStandby = true) : exec (.bar2Read t f offset n flaws) s =
    .next (emit (.reply f (List.replicate n 0) false) { advance t s with linkUp := true }) := by
  change execBar2Read t f offset n flaws s = _
  rw [execBar2Read, hostRow_runs hl he]
  exact congrArg _ (if_pos hs)

section
variable (hs : s.inStandby = false) (hn : 1 ≤ n) (hin : offset.toNat % 512 + n ≤ 512)
include hs hn hin

/-- A BAR2 read of a row outside the contract reads zeros and is counted (R80). -/
theorem execBar2Read_outside (hr : bar2Reaches s f (offset.toNat / 512) = false) :
    exec (.bar2Read t f offset n flaws) s = .next (takeBar2 s.loft.nextRead (offset.toNat / 512)
      (List.replicate 512 0, false) (holdBar2 f offset.toNat n (State.modFn { advance t s with linkUp := true } f
        fun x => { x with bar2Outside := x.bar2Outside + 1 }))) := by
  change execBar2Read t f offset n flaws s = _
  rw [execBar2Read, hostRow_runs hl he]
  refine congrArg _ ((if_neg (Bool.eq_false_iff.1 hs)).trans ?_)
  have hr' : bar2Reaches { advance t s with linkUp := true } f (offset.toNat / 512) = false := hr
  simp only [rowsOfRange_one hn hin, List.all_cons, hr', Bool.false_and, Bool.false_eq_true, if_false]
  exact if_neg (Bool.eq_false_iff.1 hr)

/-- A BAR2 read of a row of the contract goes to the stall of the row (R79, R262). -/
theorem execBar2Read_reaches (hr : bar2Reaches s f (offset.toNat / 512) = true) :
    exec (.bar2Read t f offset n flaws) s = .next (offer
      (bar2Access s.loft.nextRead (offset.toNat / 512) (advance t s).now) (flipsOf flaws (offset.toNat / 512))
      (holdBar2 f offset.toNat n { advance t s with linkUp := true })) := by
  change execBar2Read t f offset n flaws s = _
  rw [execBar2Read, hostRow_runs hl he]
  refine congrArg _ ((if_neg (Bool.eq_false_iff.1 hs)).trans ?_)
  have hr' : bar2Reaches { advance t s with linkUp := true } f (offset.toNat / 512) = true := hr
  simp only [rowsOfRange_one hn hin, List.all_cons, List.all_nil, hr', Bool.and_self, if_true]
  exact if_pos hr

end

end

/-- Settles O28: out of Standby both reads complete by `takeBar2_completes`. -/
theorem bar2ReadTakesEffect : Obligations.Bar2ReadTakesEffect := by
  unfold Obligations.Bar2ReadTakesEffect
  intro t f offset n flaws s hl he h row reply completes
  refine ⟨execBar2Read_standby hl he, fun hs hn hin => ?_⟩
  have hrow : HeldRead.OfRow { fn := f, offset := offset.toNat, len := n, got := [] } row := ⟨hn, rfl, hin, rfl⟩
  refine ⟨fun hr => ?_, fun hr hb hf hre hc hw => ?_⟩
  · have htake := takeBar2_completes (d := List.replicate 512 0) (s := holdBar2 f offset.toNat n
      (h.modFn f fun x => { x with bar2Outside := x.bar2Outside + 1 })) (tget_tset ..) hrow s.loft
    rw [slice_replicate_zero hin] at htake
    exact ⟨_, execBar2Read_outside hl he hs hn hin hr, htake⟩
  · have hserved := offer_bar2Access (k := s.loft.nextRead) (s := holdBar2 f offset.toNat n h) hc hw hb hre
    have hexec := execBar2Read_reaches (t := t) (flaws := flaws) hl he hs hn hin hr
    rw [flipsOf_none hf] at hexec
    exact ⟨_, hexec.trans (congrArg _ hserved), takeBar2_completes (tget_tset ..) hrow s.loft⟩

end Sys2Proof.Machine
